-- ==== Sys2Proof/Word.lean ====
section
/-! DEFINITION. The word types of the machine, and sparse maps: lists of (key, value) pairs with strictly
rising keys. Only types and abbreviations stand here; the operations on them are in Machine/Bits.lean. -/
namespace Sys2Proof

/-- One byte (R6). -/
abbrev Byte := BitVec 8
/-- A 64-bit register value (R141). -/
abbrev Word := BitVec 64
/-- A vector register or a vector-kind queue entry: 512 bytes (R142). -/
abbrev Vec := BitVec 4096
/-- A mask register (R143). -/
abbrev Mask := BitVec 1024
/-- A tenant context id (R372). -/
abbrev Tenant := BitVec 16
/-- A logical node label (R297). -/
abbrev Label := BitVec 22
/-- Sparse data by key, in one canonical form: keys strictly rise, and no entry equals what an unlisted key reads as. -/
abbrev SMap (α : Type) := List (Nat × α)

end Sys2Proof
end

