-- ==== Sys2Proof/Types.lean ====
section
/-! DEFINITION. Data that both instructions and state speak of: the engines, fault records, tile-queue
entries, request packets, and the payloads that arrive from outside the node. -/
namespace Sys2Proof

/-- The three stream engines of a core (R4). -/
inductive Engine where
  | a
  | x
  | m
  deriving DecidableEq, Repr

/-- One value for each engine. -/
structure Three (α : Type) where
  a : α
  x : α
  m : α
  deriving DecidableEq, Repr

/-- The fault codes of R122. -/
inductive FaultCode where
  | illegal
  | privilege
  | trapped
  | space
  | bounds
  | gap
  | planeAbsent
  | permission
  | dataPoison
  | expansion
  | tempoMiss
  | link
  | ownerMismatch
  deriving DecidableEq, Repr

/-- The fault record of R124, R125. -/
structure FaultRec where
  code : BitVec 8
  engine : BitVec 2
  pc : Word
  addr : Word
  plane : BitVec 3
  suit : BitVec 4
  info : Word
  deriving DecidableEq, Repr

/-- A tile-queue entry: the header of R261 and the bytes of its container (R260); an unlisted byte is zero. -/
structure TileEntry where
  owner : Tenant
  job : BitVec 16
  seq : BitVec 32
  poison : Bool
  vcols : BitVec 8
  vrows : BitVec 8
  fmt : BitVec 4
  bytes : SMap Byte
  deriving DecidableEq, Repr

/-- What comes back for a request packet: data (empty for a store), the fault the target found (R195, R307), or for a
packet of a job the data or the fault of each element (R241); `clamped` tells that an element was clamped (R224). -/
inductive Response where
  | data (bytes : List Byte) (clamped : Bool)
  | fault (r : FaultRec)
  | many (l : List (Nat × Option FaultRec)) (clamped : Bool)
  deriving DecidableEq, Repr

/-- What a request packet asks of its target (R304, R310), or a launch replica (R96), which the shoe sends. -/
inductive PacketKind where
  | load
  | store
  | atomic
  | sto
  | replica
  deriving DecidableEq, Repr

/-- One element that a packet of a job names: its offset and a bit in that byte, the value to write, and whether it is
poisoned (R241, R304). -/
structure ElemReq where
  off : BitVec 40
  bit : Nat
  val : Nat
  poison : Bool
  deriving DecidableEq, Repr

/-- A request packet (R303, R304). `part` and `parts` number the packets of one LDV or STV; `op`, `opnd` and
`swap` are an atomic's opcode and operands; `mark` holds the four MARK numbers of an STO; `lane` marks a lane of GATH or
SCAT; `rclass` is the class it was last sent on, none while none is usable. A packet of a job names elements of `ebits`
bits; `ebits` is 0 in every other packet. A response or acknowledgement on its way back is a packet from the target to the source
with the core, the class and the number of its request and what it answers in `resp`. -/
structure Packet where
  src : Label
  core : Nat
  dst : Label
  sclass : BitVec 2
  rclass : Option (BitVec 2)
  num : BitVec 32
  kind : PacketKind
  tenant : Tenant
  off : BitVec 40
  plane : BitVec 3
  suit : BitVec 4
  size : Nat
  lane : Bool
  part : Nat
  parts : Nat
  data : List Byte
  op : BitVec 8
  wide : Bool
  opnd : Word
  swap : Word
  mark : List (BitVec 32)
  ebits : Nat
  elems : List ElemReq
  resp : Option Response
  deriving DecidableEq, Repr

/-- A partner's ready message in a collective (R315). -/
structure ReadyMsg where
  src : Label
  tag : BitVec 16
  stepNo : Nat
  op : BitVec 3
  fmt : BitVec 4
  count : BitVec 32
  tmp : Word
  deriving DecidableEq, Repr

/-- The data that a collective's partner sends for a step, and the numbers of its elements that are poisoned (R241, R315). -/
structure CollData where
  bytes : List Byte
  pois : List Nat
  deriving DecidableEq, Repr

/-- How the replay of a flit ends (R306): it fails its check again, or comes in whole in one direction. -/
inductive ReplayEnd where
  | bad
  | good (inbound : Bool)
  deriving DecidableEq, Repr

/-- How an SPDM session with the peer's management core ends (R394). -/
inductive SessionEnd where
  | complete
  | failed
  | badPeer
  deriving DecidableEq, Repr

/-- The register blocks of BAR0 (R383: DISC.BLKi) that take plain register writes. -/
inductive Block where
  | shoe
  | near
  | fabric
  | core
  | readback
  | power
  | mailbox
  | management
  deriving DecidableEq, Repr

end Sys2Proof
end

