-- ==== Sys2Proof/Syntax.lean ====
section
/-! DEFINITION. One constructor for each row of spec/opcode_table.json: the instruction words with the fields of their
encodings (R40, R42, R51-R54), then the steps of the device that no word stands for, with what they act on, then the rows
without fields. A KX prefix is a word of its own; the word after it reads the payload it latched. -/
namespace Sys2Proof

/-- The operations and events of the device. Field `t` of a word is its dependency field D (R40). -/
inductive Instr where
  | b (f : BitVec 18)
  | bc (g : BitVec 2) (c : BitVec 3) (r : BitVec 6) (f : BitVec 7)
  | bi (g : BitVec 2) (r : BitVec 6)
  | call (f : BitVec 18)
  | loop (l : BitVec 4)
  | endl (l : BitVec 4)
  | round (s : BitVec 2)
  | trap (c : BitVec 16)
  | kx (e : BitVec 2) (p : BitVec 22)
  | aNop (t : BitVec 4)
  | aAdd (t : BitVec 4) (d : BitVec 6) (a : BitVec 6) (b : BitVec 6)
  | aSub (t : BitVec 4) (d : BitVec 6) (a : BitVec 6) (b : BitVec 6)
  | aAnd (t : BitVec 4) (d : BitVec 6) (a : BitVec 6) (b : BitVec 6)
  | aOr (t : BitVec 4) (d : BitVec 6) (a : BitVec 6) (b : BitVec 6)
  | aXor (t : BitVec 4) (d : BitVec 6) (a : BitVec 6) (b : BitVec 6)
  | aAndn (t : BitVec 4) (d : BitVec 6) (a : BitVec 6) (b : BitVec 6)
  | aShl (t : BitVec 4) (d : BitVec 6) (a : BitVec 6) (b : BitVec 6)
  | aShr (t : BitVec 4) (d : BitVec 6) (a : BitVec 6) (b : BitVec 6)
  | aSar (t : BitVec 4) (d : BitVec 6) (a : BitVec 6) (b : BitVec 6)
  | aMul (t : BitVec 4) (d : BitVec 6) (a : BitVec 6) (b : BitVec 6)
  | aMulh (t : BitVec 4) (d : BitVec 6) (a : BitVec 6) (b : BitVec 6)
  | aMulhu (t : BitVec 4) (d : BitVec 6) (a : BitVec 6) (b : BitVec 6)
  | aMin (t : BitVec 4) (d : BitVec 6) (a : BitVec 6) (b : BitVec 6)
  | aMax (t : BitVec 4) (d : BitVec 6) (a : BitVec 6) (b : BitVec 6)
  | aMinu (t : BitVec 4) (d : BitVec 6) (a : BitVec 6) (b : BitVec 6)
  | aMaxu (t : BitVec 4) (d : BitVec 6) (a : BitVec 6) (b : BitVec 6)
  | aSlt (t : BitVec 4) (d : BitVec 6) (a : BitVec 6) (b : BitVec 6)
  | aSltu (t : BitVec 4) (d : BitVec 6) (a : BitVec 6) (b : BitVec 6)
  | aSeq (t : BitVec 4) (d : BitVec 6) (a : BitVec 6) (b : BitVec 6)
  | aAddi (t : BitVec 4) (d : BitVec 6) (a : BitVec 6) (i : BitVec 6)
  | aAndi (t : BitVec 4) (d : BitVec 6) (a : BitVec 6) (i : BitVec 6)
  | aOri (t : BitVec 4) (d : BitVec 6) (a : BitVec 6) (i : BitVec 6)
  | aXori (t : BitVec 4) (d : BitVec 6) (a : BitVec 6) (i : BitVec 6)
  | aShli (t : BitVec 4) (d : BitVec 6) (a : BitVec 6) (i : BitVec 6)
  | aShri (t : BitVec 4) (d : BitVec 6) (a : BitVec 6) (i : BitVec 6)
  | aSari (t : BitVec 4) (d : BitVec 6) (a : BitVec 6) (i : BitVec 6)
  | aLi (t : BitVec 4) (d : BitVec 6) (i : BitVec 12)
  | aLihi (t : BitVec 4) (d : BitVec 6) (i : BitVec 12)
  | aLdB (t : BitVec 4) (d : BitVec 6) (b : BitVec 5) (p : BitVec 3) (s : BitVec 4)
  | aLdH (t : BitVec 4) (d : BitVec 6) (b : BitVec 5) (p : BitVec 3) (s : BitVec 4)
  | aLdW (t : BitVec 4) (d : BitVec 6) (b : BitVec 5) (p : BitVec 3) (s : BitVec 4)
  | aLdD (t : BitVec 4) (d : BitVec 6) (b : BitVec 5) (p : BitVec 3) (s : BitVec 4)
  | aLdsB (t : BitVec 4) (d : BitVec 6) (b : BitVec 5) (p : BitVec 3) (s : BitVec 4)
  | aLdsH (t : BitVec 4) (d : BitVec 6) (b : BitVec 5) (p : BitVec 3) (s : BitVec 4)
  | aLdsW (t : BitVec 4) (d : BitVec 6) (b : BitVec 5) (p : BitVec 3) (s : BitVec 4)
  | aLdv (t : BitVec 4) (d : BitVec 6) (b : BitVec 5) (p : BitVec 3) (s : BitVec 4)
  | aStB (t : BitVec 4) (d : BitVec 6) (b : BitVec 5) (p : BitVec 3) (s : BitVec 4)
  | aStH (t : BitVec 4) (d : BitVec 6) (b : BitVec 5) (p : BitVec 3) (s : BitVec 4)
  | aStW (t : BitVec 4) (d : BitVec 6) (b : BitVec 5) (p : BitVec 3) (s : BitVec 4)
  | aStD (t : BitVec 4) (d : BitVec 6) (b : BitVec 5) (p : BitVec 3) (s : BitVec 4)
  | aStv (t : BitVec 4) (d : BitVec 6) (b : BitVec 5) (p : BitVec 3) (s : BitVec 4)
  | aLdvc (t : BitVec 4) (d : BitVec 6) (b : BitVec 5) (x : BitVec 3) (s : BitVec 4)
  | aGath (t : BitVec 4) (d : BitVec 6) (b : BitVec 5) (p : BitVec 3) (s : BitVec 4)
  | aScat (t : BitVec 4) (b : BitVec 5) (p : BitVec 3) (s : BitVec 4)
  | aSto (t : BitVec 4) (d : BitVec 6) (b : BitVec 5) (p : BitVec 3) (s : BitVec 4)
  | aAadd (t : BitVec 4) (d : BitVec 6) (b : BitVec 5) (o : BitVec 5) (w : BitVec 1)
  | aAand (t : BitVec 4) (d : BitVec 6) (b : BitVec 5) (o : BitVec 5) (w : BitVec 1)
  | aAor (t : BitVec 4) (d : BitVec 6) (b : BitVec 5) (o : BitVec 5) (w : BitVec 1)
  | aAxor (t : BitVec 4) (d : BitVec 6) (b : BitVec 5) (o : BitVec 5) (w : BitVec 1)
  | aAmin (t : BitVec 4) (d : BitVec 6) (b : BitVec 5) (o : BitVec 5) (w : BitVec 1)
  | aAmax (t : BitVec 4) (d : BitVec 6) (b : BitVec 5) (o : BitVec 5) (w : BitVec 1)
  | aAminu (t : BitVec 4) (d : BitVec 6) (b : BitVec 5) (o : BitVec 5) (w : BitVec 1)
  | aAmaxu (t : BitVec 4) (d : BitVec 6) (b : BitVec 5) (o : BitVec 5) (w : BitVec 1)
  | aAxchg (t : BitVec 4) (d : BitVec 6) (b : BitVec 5) (o : BitVec 5) (w : BitVec 1)
  | aAcas (t : BitVec 4) (d : BitVec 6) (b : BitVec 5) (o : BitVec 5) (w : BitVec 1)
  | aAfadd (t : BitVec 4) (d : BitVec 6) (b : BitVec 5) (o : BitVec 5) (w : BitVec 1)
  | aAspc (t : BitVec 4) (d : BitVec 6) (a : BitVec 6)
  | aAcvt (t : BitVec 4) (d : BitVec 6) (a : BitVec 6) (i : BitVec 6)
  | aCpy (t : BitVec 4) (c : BitVec 3) (r : BitVec 5)
  | aDrain (t : BitVec 4) (c : BitVec 3)
  | aTrick (t : BitVec 4) (m : BitVec 13)
  | aColl (t : BitVec 4) (r : BitVec 5)
  | aSwap (t : BitVec 4) (r : BitVec 5)
  | aLaunch (t : BitVec 4) (r : BitVec 5) (q : BitVec 4)
  | aSfence (t : BitVec 4) (s : BitVec 2) (m : BitVec 16)
  | aFlagset (t : BitVec 4) (f : BitVec 6) (i : BitVec 12)
  | aFlagadd (t : BitVec 4) (f : BitVec 6) (i : BitVec 12)
  | aFlagwait (t : BitVec 4) (f : BitVec 6) (i : BitVec 12)
  | aRfence (t : BitVec 4)
  | aQpush (t : BitVec 4) (a : BitVec 6) (b : BitVec 6)
  | aEvpop (t : BitVec 4) (d : BitVec 6)
  | aEvpeek (t : BitVec 4) (d : BitVec 6)
  | aWnext (t : BitVec 4) (d : BitVec 6)
  | aCsrr (t : BitVec 4) (d : BitVec 6) (c : BitVec 12)
  | aCsrw (t : BitVec 4) (d : BitVec 6) (c : BitVec 12)
  | aTlbi (t : BitVec 4) (k : BitVec 6) (a : BitVec 6) (b : BitVec 6)
  | aRemap (t : BitVec 4) (a : BitVec 6)
  | aLqbind (t : BitVec 4) (k : BitVec 6) (a : BitVec 6) (b : BitVec 6)
  | xNop (t : BitVec 4)
  | xXrmode (t : BitVec 4) (m : BitVec 3)
  | xXflags (t : BitVec 4) (d : BitVec 6) (c : BitVec 1)
  | xAdd (t : BitVec 4) (d : BitVec 6) (a : BitVec 6) (b : BitVec 6)
  | xSub (t : BitVec 4) (d : BitVec 6) (a : BitVec 6) (b : BitVec 6)
  | xAnd (t : BitVec 4) (d : BitVec 6) (a : BitVec 6) (b : BitVec 6)
  | xOr (t : BitVec 4) (d : BitVec 6) (a : BitVec 6) (b : BitVec 6)
  | xXor (t : BitVec 4) (d : BitVec 6) (a : BitVec 6) (b : BitVec 6)
  | xAndn (t : BitVec 4) (d : BitVec 6) (a : BitVec 6) (b : BitVec 6)
  | xShl (t : BitVec 4) (d : BitVec 6) (a : BitVec 6) (b : BitVec 6)
  | xShr (t : BitVec 4) (d : BitVec 6) (a : BitVec 6) (b : BitVec 6)
  | xSar (t : BitVec 4) (d : BitVec 6) (a : BitVec 6) (b : BitVec 6)
  | xMul (t : BitVec 4) (d : BitVec 6) (a : BitVec 6) (b : BitVec 6)
  | xMulh (t : BitVec 4) (d : BitVec 6) (a : BitVec 6) (b : BitVec 6)
  | xMulhu (t : BitVec 4) (d : BitVec 6) (a : BitVec 6) (b : BitVec 6)
  | xMin (t : BitVec 4) (d : BitVec 6) (a : BitVec 6) (b : BitVec 6)
  | xMax (t : BitVec 4) (d : BitVec 6) (a : BitVec 6) (b : BitVec 6)
  | xMinu (t : BitVec 4) (d : BitVec 6) (a : BitVec 6) (b : BitVec 6)
  | xMaxu (t : BitVec 4) (d : BitVec 6) (a : BitVec 6) (b : BitVec 6)
  | xSlt (t : BitVec 4) (d : BitVec 6) (a : BitVec 6) (b : BitVec 6)
  | xSltu (t : BitVec 4) (d : BitVec 6) (a : BitVec 6) (b : BitVec 6)
  | xSeq (t : BitVec 4) (d : BitVec 6) (a : BitVec 6) (b : BitVec 6)
  | xAddi (t : BitVec 4) (d : BitVec 6) (a : BitVec 6) (i : BitVec 6)
  | xAndi (t : BitVec 4) (d : BitVec 6) (a : BitVec 6) (i : BitVec 6)
  | xOri (t : BitVec 4) (d : BitVec 6) (a : BitVec 6) (i : BitVec 6)
  | xXori (t : BitVec 4) (d : BitVec 6) (a : BitVec 6) (i : BitVec 6)
  | xShli (t : BitVec 4) (d : BitVec 6) (a : BitVec 6) (i : BitVec 6)
  | xShri (t : BitVec 4) (d : BitVec 6) (a : BitVec 6) (i : BitVec 6)
  | xSari (t : BitVec 4) (d : BitVec 6) (a : BitVec 6) (i : BitVec 6)
  | xLi (t : BitVec 4) (d : BitVec 6) (i : BitVec 12)
  | xLihi (t : BitVec 4) (d : BitVec 6) (i : BitVec 12)
  | xKand (t : BitVec 4) (d : BitVec 6) (a : BitVec 6) (b : BitVec 6)
  | xKor (t : BitVec 4) (d : BitVec 6) (a : BitVec 6) (b : BitVec 6)
  | xKnot (t : BitVec 4) (d : BitVec 6) (a : BitVec 6)
  | xKmovs (t : BitVec 4) (d : BitVec 6) (a : BitVec 6) (c : BitVec 4)
  | xKmovk (t : BitVec 4) (d : BitVec 6) (a : BitVec 6) (c : BitVec 4)
  | xFrcp (t : BitVec 4) (d : BitVec 6) (a : BitVec 6)
  | xFrsq (t : BitVec 4) (d : BitVec 6) (a : BitVec 6)
  | xFadd (t : BitVec 4) (d : BitVec 6) (a : BitVec 6) (b : BitVec 6)
  | xFsub (t : BitVec 4) (d : BitVec 6) (a : BitVec 6) (b : BitVec 6)
  | xFmul (t : BitVec 4) (d : BitVec 6) (a : BitVec 6) (b : BitVec 6)
  | xFma (t : BitVec 4) (d : BitVec 6) (a : BitVec 6) (b : BitVec 6)
  | xFmin (t : BitVec 4) (d : BitVec 6) (a : BitVec 6) (b : BitVec 6)
  | xFmax (t : BitVec 4) (d : BitVec 6) (a : BitVec 6) (b : BitVec 6)
  | xFcmp (t : BitVec 4) (d : BitVec 6) (a : BitVec 6) (b : BitVec 6)
  | xFcvt (t : BitVec 4) (d : BitVec 6) (a : BitVec 6)
  | xVadd (t : BitVec 4) (w : BitVec 2) (d : BitVec 6) (a : BitVec 6) (b : BitVec 6)
  | xVsub (t : BitVec 4) (w : BitVec 2) (d : BitVec 6) (a : BitVec 6) (b : BitVec 6)
  | xVand (t : BitVec 4) (d : BitVec 6) (a : BitVec 6) (b : BitVec 6)
  | xVor (t : BitVec 4) (d : BitVec 6) (a : BitVec 6) (b : BitVec 6)
  | xVxor (t : BitVec 4) (d : BitVec 6) (a : BitVec 6) (b : BitVec 6)
  | xVandn (t : BitVec 4) (d : BitVec 6) (a : BitVec 6) (b : BitVec 6)
  | xVlop3 (t : BitVec 4) (d : BitVec 6) (a : BitVec 6) (b : BitVec 6)
  | xKpopc (t : BitVec 4) (d : BitVec 6) (a : BitVec 6)
  | xVshl (t : BitVec 4) (w : BitVec 2) (d : BitVec 6) (a : BitVec 6) (b : BitVec 6)
  | xVshr (t : BitVec 4) (w : BitVec 2) (d : BitVec 6) (a : BitVec 6) (b : BitVec 6)
  | xVsar (t : BitVec 4) (w : BitVec 2) (d : BitVec 6) (a : BitVec 6) (b : BitVec 6)
  | xVfun (t : BitVec 4) (d : BitVec 6) (a : BitVec 6) (b : BitVec 6)
  | xVmul24 (t : BitVec 4) (d : BitVec 6) (a : BitVec 6) (b : BitVec 6)
  | xVmul24u (t : BitVec 4) (d : BitVec 6) (a : BitVec 6) (b : BitVec 6)
  | xVmad24 (t : BitVec 4) (d : BitVec 6) (a : BitVec 6) (b : BitVec 6)
  | xVmul32 (t : BitVec 4) (d : BitVec 6) (a : BitVec 6) (b : BitVec 6)
  | xVmulh (t : BitVec 4) (w : BitVec 2) (d : BitVec 6) (a : BitVec 6) (b : BitVec 6)
  | xVmin (t : BitVec 4) (w : BitVec 2) (d : BitVec 6) (a : BitVec 6) (b : BitVec 6)
  | xVmax (t : BitVec 4) (w : BitVec 2) (d : BitVec 6) (a : BitVec 6) (b : BitVec 6)
  | xVminu (t : BitVec 4) (w : BitVec 2) (d : BitVec 6) (a : BitVec 6) (b : BitVec 6)
  | xVmaxu (t : BitVec 4) (w : BitVec 2) (d : BitVec 6) (a : BitVec 6) (b : BitVec 6)
  | xVabs (t : BitVec 4) (w : BitVec 2) (d : BitVec 6) (a : BitVec 6)
  | xVpopc (t : BitVec 4) (w : BitVec 2) (d : BitVec 6) (a : BitVec 6)
  | xVclz (t : BitVec 4) (w : BitVec 2) (d : BitVec 6) (a : BitVec 6)
  | xVcmpeq (t : BitVec 4) (w : BitVec 2) (d : BitVec 6) (a : BitVec 6) (b : BitVec 6)
  | xVcmplt (t : BitVec 4) (w : BitVec 2) (d : BitVec 6) (a : BitVec 6) (b : BitVec 6)
  | xVcmpltu (t : BitVec 4) (w : BitVec 2) (d : BitVec 6) (a : BitVec 6) (b : BitVec 6)
  | xVwadd (t : BitVec 4) (w : BitVec 2) (d : BitVec 6) (a : BitVec 6) (b : BitVec 6)
  | xVwmul (t : BitVec 4) (w : BitVec 2) (d : BitVec 6) (a : BitVec 6) (b : BitVec 6)
  | xVnarrow (t : BitVec 4) (w : BitVec 2) (d : BitVec 6) (a : BitVec 6)
  | xVredadd (t : BitVec 4) (w : BitVec 2) (d : BitVec 6) (a : BitVec 6)
  | xVsel (t : BitVec 4) (d : BitVec 6) (a : BitVec 6) (b : BitVec 6)
  | xVperm (t : BitVec 4) (d : BitVec 6) (a : BitVec 6) (b : BitVec 6)
  | xVmov (t : BitVec 4) (d : BitVec 6) (a : BitVec 6)
  | xVrot (t : BitVec 4) (w : BitVec 2) (d : BitVec 6) (a : BitVec 6) (b : BitVec 6)
  | xVbcast (t : BitVec 4) (w : BitVec 2) (d : BitVec 6) (a : BitVec 6)
  | xVext (t : BitVec 4) (w : BitVec 2) (d : BitVec 6) (a : BitVec 6) (b : BitVec 6)
  | xVins (t : BitVec 4) (w : BitVec 2) (d : BitVec 6) (a : BitVec 6) (b : BitVec 6)
  | xVfadd (t : BitVec 4) (f : BitVec 2) (d : BitVec 6) (a : BitVec 6) (b : BitVec 6)
  | xVfsub (t : BitVec 4) (f : BitVec 2) (d : BitVec 6) (a : BitVec 6) (b : BitVec 6)
  | xVfmul (t : BitVec 4) (f : BitVec 2) (d : BitVec 6) (a : BitVec 6) (b : BitVec 6)
  | xVfma (t : BitVec 4) (f : BitVec 2) (d : BitVec 6) (a : BitVec 6) (b : BitVec 6)
  | xVfmin (t : BitVec 4) (f : BitVec 2) (d : BitVec 6) (a : BitVec 6) (b : BitVec 6)
  | xVfmax (t : BitVec 4) (f : BitVec 2) (d : BitVec 6) (a : BitVec 6) (b : BitVec 6)
  | xVfcmp (t : BitVec 4) (f : BitVec 2) (d : BitVec 6) (a : BitVec 6) (b : BitVec 6)
  | xVfcvt (t : BitVec 4) (d : BitVec 6) (a : BitVec 6)
  | xVrcp (t : BitVec 4) (d : BitVec 6) (a : BitVec 6)
  | xVrsq (t : BitVec 4) (d : BitVec 6) (a : BitVec 6)
  | xVrcpstep (t : BitVec 4) (d : BitVec 6) (a : BitVec 6)
  | xVrsqstep (t : BitVec 4) (d : BitVec 6) (a : BitVec 6)
  | xVexp2 (t : BitVec 4) (d : BitVec 6) (a : BitVec 6)
  | xVlog2 (t : BitVec 4) (d : BitVec 6) (a : BitVec 6)
  | xVqscale (t : BitVec 4) (d : BitVec 6) (a : BitVec 6) (b : BitVec 6)
  | xVqpack (t : BitVec 4) (d : BitVec 6) (a : BitVec 6) (b : BitVec 6)
  | xVqunpk (t : BitVec 4) (d : BitVec 6) (a : BitVec 6) (b : BitVec 6)
  | xVfredadd (t : BitVec 4) (d : BitVec 6) (a : BitVec 6)
  | xVfabs (t : BitVec 4) (d : BitVec 6) (a : BitVec 6)
  | xVfneg (t : BitVec 4) (d : BitVec 6) (a : BitVec 6)
  | mNop (t : BitVec 4)
  | mMset (t : BitVec 4) (d : BitVec 6) (i : BitVec 12)
  | mMadd (t : BitVec 4) (d : BitVec 6) (a : BitVec 6) (b : BitVec 6)
  | mMpop (t : BitVec 4) (d : BitVec 6)
  | mMlc (t : BitVec 4) (d : BitVec 6) (l : BitVec 4)
  | mMhand (t : BitVec 4) (n : BitVec 4)
  | mMrels (t : BitVec 4)
  | mMshape (t : BitVec 4) (d : BitVec 6) (a : BitVec 6) (b : BitVec 6)
  | mMfmt (t : BitVec 4) (s : BitVec 8)
  | mMfmtl (t : BitVec 4) (l : BitVec 4)
  | mMrmode (t : BitVec 4) (m : BitVec 3) (s : BitVec 6)
  | mMmul (t : BitVec 4) (c : BitVec 3) (a : BitVec 7) (b : BitVec 7) (f : BitVec 1)
  | mMmulk (t : BitVec 4) (c : BitVec 3) (a : BitVec 7) (b : BitVec 7) (f : BitVec 1)
  | mMdrain (t : BitVec 4) (c : BitVec 3) (a : BitVec 7)
  | mMldacc (t : BitVec 4) (c : BitVec 3) (a : BitVec 7)
  | mMclr (t : BitVec 4) (c : BitVec 3)
  | mMfence (t : BitVec 4)
  | mMfeed (t : BitVec 4) (a : BitVec 7) (b : BitVec 7)
  | mTempo (t : BitVec 4)
  | mTcut (t : BitVec 4) (a : BitVec 1)
  | mTlook (t : BitVec 4) (d : BitVec 6) (a : BitVec 6) (b : BitVec 6)
  | mTstat (t : BitVec 4) (d : BitVec 6) (s : BitVec 4)
  | reservedOpcode (sub fbit : BitVec 8)
  | serviceFaultDrain (core : Nat)
  | faultTake (core : Nat)
  | asyncFaultTake (core : Nat)
  | accessComplete (core bank k j : Nat)
  | stopComplete (core bank : Nat)
  | wnextServed (core : Nat)
  | copyJobBegin (core job : Nat)
  | copyQueuePush (core job : Nat)
  | copyJobComplete (core job : Nat)
  | swapJobStart (core job : Nat)
  | swapJobExchange (core job : Nat)
  | collectiveComplete (core : Nat)
  | tempoSessionStart (core : Nat)
  | tempoBoundary (core : Nat)
  | tempoMissWaitEnd (core : Nat)
  | tempoFinish (core : Nat)
  | matrixCommandComplete (core k : Nat)
  | arrayMmul (core k : Nat)
  | arrayMdrain (core k : Nat)
  | arrayMldacc (core k : Nat)
  | arrayMclr (core k : Nat)
  | handGrant (table : Nat)
  | queueEntryRetire (core : Nat)
  | feedPush (table : Nat)
  | exitComplete (core : Nat)
  | roundComplete (slot : Nat)
  | eventDeliver (core : Nat)
  | shootdownComplete (core : Nat)
  | remapComplete (core : Nat)
  | lqTailWrite (q : BitVec 4) (v : BitVec 32)
  | lqEnableWrite (q : BitVec 4) (v : BitVec 32)
  | lqRetry (q : BitVec 4)
  | lqSkip (q : BitVec 4)
  | headRecordRead (q : BitVec 4)
  | replicaResend (q : BitVec 4)
  | replicaReceive (q : BitVec 4) (rec : BitVec 512)
  | dealCoreStart (core : Nat)
  | rangeLaunchStart (slot : Nat)
  | collReadyMessage (core : Nat) (msg : ReadyMsg)
  | collectiveStep (core : Nat) (data : CollData)
  | walkStart (core bank : Nat) (va : BitVec 48)
  | walkComplete (cluster slot : Nat)
  | planeFrameFill (core bank : Nat) (psd : BitVec 16) (plane : BitVec 3) (frame : BitVec 36)
  | nearLiveWrite (ch : BitVec 10) (v : BitVec 16)
  | bankFailureEvent (ch : BitVec 10) (bank : BitVec 4) (cause : BitVec 8)
  | sectorPoison (loc : Nat) (fte : Option Nat)
  | remoteRequestDeliver (pkt : Packet) (strike : Bool)
  | remoteAck (core : Nat) (dst : Label) (k : BitVec 2) (num : BitVec 32) (resp : Response)
  | e2eResend (core : Nat) (dst : Label) (k : BitVec 2)
  | streamExpire (sending : Bool) (core : Nat) (peer : Label) (k : BitVec 2)
  | stoDeliver (src : Label) (core : Nat) (k : BitVec 2)
  | downNotice (dst : Label) (k : BitVec 2)
  | fabLabelWrite (v : BitVec 32)
  | portEnable (d : Nat) (en : Bool)
  | portRetrain (d : Nat)
  | portQuiesce (d : Nat) (on : Bool)
  | portUp (d : Nat) (label : Label)
  | portDown (d : Nat) (cause : BitVec 8)
  | linkReplay (d : Nat) (how : ReplayEnd)
  | laneFailure (d : Nat) (lane : BitVec 3)
  | flitAgeDiscard (d : Nat)
  | linkTransferBegin (d : Nat)
  | linkTransferReceive (d : Nat) (num : BitVec 32) (entry : TileEntry)
  | transferAck (d : Nat) (num : BitVec 32)
  | creditAdvertise (d : Nat) (n : BitVec 3)
  | bindNotice (d : Nat) (bound : Bool)
  | linkLost (d : Nat)
  | exclusionWindow (table : Nat)
  | roundArrivalNotice (slot d : Nat)
  | ccStop (core bank : Nat)
  | ccRun (core bank : Nat)
  | ccEvict (core bank : Nat)
  | ccRestore (core bank : Nat)
  | ccRelease (core bank : Nat)
  | ccRetry (core bank : Nat)
  | ccAbort (core bank : Nat)
  | bar2Read (off : BitVec 32) (len : Nat)
  | bar2Write (off : BitVec 32) (bytes : List Byte)
  | mboxBaseWrite (v : Word)
  | rbSelWrite (v : Word)
  | firmwareVerifyDone (fail : BitVec 8) (svn : BitVec 32)
  | spdmRequest (code : Byte)
  | lockCmdLock (d : Nat)
  | lockCmdUnlock (d : Nat)
  | lockSessionDone (d : Nat) (how : SessionEnd)
  | tagFailure (d : Nat) (inbound : Bool)
  | rekey (d : Nat) (ok : Bool)
  | groupPowerReport (member : Nat) (avg : BitVec 16)
  | registerWrite (blk : Block) (off : BitVec 20) (v : Word)
  | packetHopArrival (pkt : Packet)
  | averagingWindowEnd (avg inst : BitVec 16)
  | corePowerGating (core : Nat)
  | corePowerUngating (core : Nat)
  | nop
  | ret
  | exit
  | resume
  | halt
  | eret
  | wordStepOver
  | launchDispatch
  | fabDowngenWrite
  | mailboxHeldPost
  | mgmtLoad
  | mgmtReset
  | powerControlStep
  | fastinAssert
  | fastinDeassert
  | fastinRecover
  | nodeReset
  | bringupReady
  deriving DecidableEq, Repr

end Sys2Proof
end

