-- ==== Sys2Proof/Machine/State.lean ====
section
/-! DEFINITION. The state of one DX4 node as plain data, why a step can stop, and the state after node reset
(R402). INVENTORY.md lists every field with the rule that names it. -/
namespace Sys2Proof.Machine

/-- Why the machine stops with a fault. The device itself turns every fault into state (R123, R349), so a step
of this model stops only where nothing of the device could make it. -/
inductive Fault where
  /-- Raised by an event that names a core, table, port, channel or slot the part does not have (R2): no such
  step exists. Safe: the device has no such behaviour. -/
  | noSuchUnit
  deriving DecidableEq, Repr

/-- Why an instruction or event has no meaning here. -/
inductive Refusal where
  /-- Raised by an arm of `exec` for a row that is not modelled yet. Safe: nothing is claimed of it. -/
  | notModelled (mnemonic : String)
  deriving DecidableEq, Repr

/-! ### Kernels (R19, R24, R29) -/

/-- KIND of a loop-table entry (R24). -/
inductive LoopKind where
  | temporal
  | cores
  | dies
  deriving DecidableEq, Repr

/-- Where a trip count comes from (R25): resolved at dispatch, or a register of an engine. -/
inductive Trip where
  | fixed (n : Nat)
  | reg (e : Engine) (r : BitVec 5)
  deriving DecidableEq, Repr

/-- A loop-table entry after dispatch (R24, R25). -/
structure Level where
  kind : LoopKind
  pos : BitVec 4
  trip : Trip
  ireg : BitVec 5
  fmtl : Bool
  fbase : BitVec 8
  start : BitVec 32
  stride : BitVec 32
  deriving DecidableEq, Repr

/-- A format slot (R29). -/
structure FmtSlot where
  sat : Bool
  fo : BitVec 4
  fb : BitVec 4
  fa : BitVec 4
  deriving DecidableEq, Repr

/-- What dispatch keeps of a kernel: the descriptor (R19), the loop table and the format table (R20). -/
structure Kernel where
  text : Word
  textLen : Nat
  entry : Nat
  trapOff : Nat
  thv : Bool
  cord : Bool
  dord : Bool
  slipInit : BitVec 16
  handLen : BitVec 16
  spadImg : Word
  spadLen : Nat
  levels : List Level
  fmts : List FmtSlot
  deriving DecidableEq, Repr

/-! ### Places of storage and accesses that have issued (R109, R117, R203) -/

/-- What a resolved address names (R189): a byte of the node's storage and a bit in it, a byte of a CHIP window
that is not storage of its own and a bit in it (R192), or an offset in another node's fabric window (R195). -/
inductive Target where
  | mem (loc bit : Nat)
  | chip (core kind off bit : Nat)
  | node (label : Label) (off : BitVec 40)
  deriving DecidableEq, Repr

/-- `bits` consecutive bits of storage; the bits from `keep` on are clamped (R224). -/
structure Place where
  tgt : Target
  bits : Nat
  keep : Nat
  deriving DecidableEq, Repr

/-- What an access was translated through: a leaf by the base and the level of its page, with the PSD id of a position leaf
(R218) and, where a walk that a shoot-down had overtaken delivered it, the number of that walk (R365); or a frame-table entry
by its PSD id and physical address (R221). Shoot-downs and swaps wait for it (R249, R365). -/
inductive Used where
  | leaf (vbase : BitVec 48) (level : BitVec 2) (psdid : Option (BitVec 16)) (walk : Option Nat)
  | frame (psdid : BitVec 16) (fte : Nat)
  deriving DecidableEq, Repr

/-- Where a completed access puts what it read. A queue entry was reserved at issue under `id` (R119). -/
inductive Dest where
  | none
  | areg (d : BitVec 5)
  | queue (q id : Nat)
  deriving DecidableEq, Repr

/-- What an issued access or its ordering companion does when it performs. The record that A.LAUNCH reads is `held` where its
word stalls for room in the queue; else A has passed the word (R106, R120). A GATH, or a SCAT (`wr`), whose lanes may lie on more
than one node first finds them: `here` holds the addresses of those that lie on this one (R207, R208; log 59). -/
inductive AccessOp where
  | load (signed : Bool)
  | loadVec
  | gather
  | expand (k : BitVec 3)
  | find (wr : Bool) (here : SMap Nat)
  | store
  | scatter
  | atomic (op : BitVec 8) (wide : Bool) (opnd swap : Word)
  | record (q : BitVec 4) (held : Bool)
  | sto
  | fence (mask : BitVec 16)
  | release (set : Bool) (flag : BitVec 6) (v : BitVec 32) (mask : BitVec 16)
  deriving DecidableEq, Repr

/-- The word that an access came from: its offset (that of its KX), A's step count before it, the words it counts and its
field D (R309). -/
structure Origin where
  pc : Word
  step : Word
  words : Nat
  toks : BitVec 4
  deriving DecidableEq, Repr

/-- An access issued and not yet performed. `todo` lists the places (by index) still to perform; `got` what has been read at each
index; `uses` what translated it (R249, R365); `push` its SP and SS tokens (R116); `pops` the data queues whose head entries it
holds until it completes (R119). `late` lists, by place and FAULT.ADDR, what a REMAP held back as the access issued: those sectors
are checked once it lets them go (R366). An atomic and a compressed load keep their generic address in `data`. Toward other nodes
`unsent` holds the packets still to send, `sent` the part, the label, the class and the number of each packet that has no answer
yet, and `resps` the answers (R304, R307). -/
structure Access where
  id : Nat
  origin : Origin
  op : AccessOp
  plane : BitVec 3
  suit : BitVec 4
  places : List Place
  uses : List Used
  todo : List Nat
  late : List (Nat × Word)
  got : SMap Nat
  data : Vec
  dest : Dest
  push : BitVec 2
  pops : List Nat
  unsent : List (Nat × Packet)
  sent : List (Nat × Label × BitVec 2 × BitVec 32)
  resps : SMap Response
  deriving DecidableEq, Repr

/-! ### Contexts (R345) -/

/-- An entry of DQ0-DQ3, SQ0-SQ1 or CQ. An entry that is only reserved has `ready = false` (R119). -/
structure QEntry where
  vec : Bool
  data : Vec
  ready : Bool
  id : Nat
  deriving DecidableEq, Repr

/-- One level of an engine's loop state (R114). -/
structure LoopState where
  lc : BitVec 32
  trip : BitVec 32
  body : Word
  active : Bool
  deriving DecidableEq, Repr

/-- The issue state that trap entry moves to the shadow (R126). `toks` and `oqs` are keyed by ordered pair
(0 A→X, 1 A→M, 2 X→A, 3 X→M, 4 M→A, 5 M→X), `queues` by number (0-3 DQ, 4-5 SQ, 6 CQ; R358). -/
structure Issue where
  steps : Three Word
  toks : SMap (BitVec 4)
  oqs : SMap (List (BitVec 32))
  rstk : Three (List Word)
  loops : Three (SMap LoopState)
  queues : SMap (List QEntry)
  deriving DecidableEq, Repr

/-- The translation CSRs of a context (R215, R216). -/
structure Xlat where
  root : Word
  psdt : Word
  psdn : Word
  view : Word
  deriving DecidableEq, Repr

/-- The M engine's issue state for the array (R258, R271-R273). -/
structure MatIssue where
  slot : BitVec 8
  shapeM : BitVec 8
  shapeN : BitVec 8
  shapeK : BitVec 8
  mode : BitVec 3
  seed : BitVec 32
  member : Bool
  nacc : BitVec 4
  held : Bool
  heldFmt : BitVec 4
  deriving DecidableEq, Repr

/-- The tempo CSRs (R293, R294). -/
structure TempoRegs where
  beat : BitVec 33
  miss : BitVec 32
  consec : BitVec 8
  maxMiss : BitVec 8
  policy : Bool
  looka : BitVec 8
  lookb : BitVec 8
  lookd : BitVec 8
  lost : BitVec 16
  kprog : BitVec 16
  pacc : BitVec 3
  pvalid : Bool
  cause : BitVec 3
  st : BitVec 2
  deriving DecidableEq, Repr

/-- State of a context bank (R347). -/
inductive BankState where
  | empty
  | running
  | ready
  | serviceWait
  | stopped
  | halted
  | restoring
  deriving DecidableEq, Repr

/-- A fault found and not yet taken (R123, R349). `all` is where all three engines resume when a shared word or
EXIT raised it (R126, R138, R369). `abort` marks a context whose kernel has been aborted while words that it had issued
were still under way (R128). -/
structure Pend where
  fr : FaultRec
  all : Option Word
  abort : Bool
  deriving DecidableEq, Repr

/-- What the A engine's current word waits for beyond the state it can see (R106, R107, R335, R339, R364, R366). A.LAUNCH waits
for the read `id` of its record, and then, with the record read, for room in its queue; A.FLAGWAIT for a value of a flag cell,
which `met` tells to have been reached. A.TLBI waits for what its shoot-down of `kind`, `x`, `n` and `tenant` covers and what came
before `mark` to end; both marks are 0 once the wait is over. -/
inductive AWait where
  | none
  | launch (q : BitVec 4) (id : Nat) (rec : Option (BitVec 512))
  | wnext (d : BitVec 6) (toks : BitVec 4)
  | trick (mark : Nat)
  | flag (f : BitVec 6) (v : BitVec 32) (met : Bool)
  | tlbi (kind x n : Nat) (tenant : Option Tenant) (mark : Nat)
  | remap (ch : Nat) (mark : Nat)
  deriving DecidableEq, Repr

/-- Round state of a context (R341, R344). -/
structure Rounds where
  count : BitVec 32
  scope : BitVec 2
  waiting : Bool
  deriving DecidableEq, Repr

/-- What joins a walk (R227): a word of an engine or the fetch of one, by the engine's step count; an access in flight, or a job. -/
inductive Waiter where
  | word (e : Engine) (step : Word)
  | fetch (e : Engine) (step : Word)
  | access (id : Nat)
  | job (id : Nat)
  deriving DecidableEq, Repr

/-- What a walk delivers to each that joined it (R227, R365): its fault, or its leaf with the level, the PSD and the number of the
walk. -/
inductive Delivered where
  | fault (code : FaultCode) (info : Word)
  | leaf (level : BitVec 2) (leaf : Word) (psd : BitVec 512) (walk : Nat)
  deriving DecidableEq, Repr

/-- A delivery of a walk of a virtual page to what joined it. -/
structure Walked where
  to_ : Waiter
  page : BitVec 36
  res : Delivered
  deriving DecidableEq, Repr

/-- One context bank. `skip` marks the engines that RESUME told to pass their faulting word without effect (R127);
`owed` keeps such a word while a handler runs that another fault entered before its engine had passed it (log 30);
`kx` holds the payload of a KX that its engine has acted on and whose extended word comes next (R48). `hdr` is SNAP.HDR
as a stop left it or as written since (R359), `hdrw` the header last written to the bank (R360, R361), `svcRec` the record
of the service fault that the context waits on (R352), and `ctx` the model's number of the context; `staged` holds the
snapshot words written while the bank is stopped or restoring, by offset (plus 2^16 for the trap shadow), until RUN takes them (R360, R361).
`trapRec` is the record of the fault whose handler runs (R127, R350). `walked` is what walks have delivered to words
and accesses of the context that joined them (R227), and `given`, which is empty between steps, what has been delivered to the one
that looks its addresses up. -/
structure Bank where
  st : BankState
  a : SMap Word
  s : SMap Word
  m : SMap Word
  v : SMap Vec
  k : SMap Mask
  pc : Three Word
  kx : Three (Option (BitVec 22))
  issue : Issue
  shadow : Issue
  evq : List Word
  slipwin : BitVec 13
  handlen : BitVec 9
  fault : FaultRec
  trapActive : Bool
  trapSkip : Bool
  trapRec : Option FaultRec
  skip : Three Bool
  owed : Three (Option Word)
  rpc : Three Word
  xrm : BitVec 3
  xseed : BitVec 32
  xflags : BitVec 5
  chipGrant : BitVec 10
  privBase : Word
  privSize : Word
  xlat : Xlat
  clamp : Bool
  tenant : Tenant
  priv : Bool
  mat : MatIssue
  tempo : TempoRegs
  round : Rounds
  walked : List Walked
  given : List Walked
  kern : Option Kernel
  launch : Option Nat
  pe : Bool
  exiting : Bool
  stopping : Bool
  inflight : List Access
  wait : AWait
  pend : Option Pend
  due : List FaultRec
  svcPend : Bool
  svcSeen : Bool
  svcPast : Bool
  shsel : Bool
  svcRec : Option FaultRec
  ctx : Nat
  hdr : Word
  hdrw : Word
  staged : SMap Word
  owner : Option Tenant
  deriving DecidableEq, Repr

/-! ### Jobs of a core (R231) -/

/-- Whose translation and rights an access uses. -/
structure View where
  core : Nat
  bank : Bool
  tenant : Tenant
  priv : Bool
  xlat : Xlat
  privBase : Word
  privSize : Word
  grant : BitVec 10
  cached : Bool
  deriving DecidableEq, Repr

inductive JobKind where
  | copy
  | coll
  | swap
  deriving DecidableEq, Repr

/-- How far a job has come. -/
inductive JobPhase where
  | accepted
  | reading
  | pushing
  | writing
  deriving DecidableEq, Repr

/-- A job that holds a scheduler slot: its card (R232, R248, R313), the owner tag, the number and the view of its context, the
places of the elements it reads and writes, what translated them, the positions from one element to the next of each side that lies
in a position region (R233), its footprint as ranges of locations (R242), the nodes it reaches, and the owner tags that it found at
acceptance (R241). `got` holds what it has read by source element, `lost` the elements it could not read, `pois` those that were
poisoned. A collective is at step `stepNo`; `mine` tells that its ready message is out. `walked` is what walks have delivered to it
(R227). -/
structure Job where
  id : Nat
  kind : JobKind
  chan : BitVec 3
  card : BitVec 512
  tenant : Tenant
  ctx : Nat
  view : View
  phase : JobPhase
  src : List Place
  dst : List Place
  uses : List Used
  grans : List (Option Nat)
  reads : List (Nat × Nat)
  writes : List (Nat × Nat)
  nodes : List Label
  owners : SMap (Option Tenant)
  got : SMap Nat
  lost : List Nat
  pois : List Nat
  entry : Option TileEntry
  stepNo : Nat
  partner : Option ReadyMsg
  mine : Bool
  stop : Bool
  sent : List (Nat × Label × BitVec 2 × BitVec 32)
  unsent : List (Nat × Packet)
  walked : List Walked
  deriving DecidableEq, Repr

/-! ### The matrix side of a core (R264, R285, R358, R359) -/

/-- A record of the matrix command queue, with the context that queued it and the progress of its execution. `stale` lists the link
queues for which A.LQBIND has marked it (R319, R324). `ea` and `eb` are the entries that it has popped; those of a drain the entry
that it makes, row by row, in its place (R356). -/
structure Cmd where
  id : Nat
  ctx : Nat
  word : BitVec 32
  kx : Option (BitVec 22)
  stale : List Nat
  slot : BitVec 8
  shapeM : BitVec 8
  shapeN : BitVec 8
  shapeK : BitVec 8
  fa : BitVec 4
  fb : BitVec 4
  fo : BitVec 4
  sat : Bool
  mode : BitVec 3
  seed : BitVec 32
  begun : Bool
  gnext : BitVec 8
  fwdDone : Bool
  ea : Option TileEntry
  eb : Option TileEntry
  finished : Bool
  deriving DecidableEq, Repr

/-- Where a tempo session stands (R285, R287, R291, R357): `raising` while it raises the events of a boundary that it does not end
at. -/
inductive SessionPhase where
  | queued
  | boundary
  | raising
  | waiting
  | finishing (kind : BitVec 3)
  deriving DecidableEq, Repr

/-- The session of a core: its parameters m1 to m8, the next boundary `c`, the lowest beats and the lowest group not yet announced,
the delivery pointer, a pending cut, whether the launch was aborted, the entries pushed, the cycles to the next boundary (R359), the
launch and the context of the holder, by the launch's place in the order of dispatch and the context's number (R288), and the
lookaheads LOOKA, LOOKB and LOOKD of the boundary that stands (R289). Held events numbered below `mark` go out before it moves again
(R357). `left` holds the CSRs of its context as an abort left them, for a session that outlives it (R128). -/
structure Session where
  par : SMap Word
  phase : SessionPhase
  c : Nat
  na : Nat
  nb : Nat
  nd : Nat
  ptr : BitVec 4
  cut : Option Bool
  kill : Bool
  pushed : Nat
  remain : BitVec 24
  launch : Option Nat
  ctx : Nat
  mark : Nat
  look : Three (BitVec 8)
  left : TempoRegs
  deriving DecidableEq, Repr

/-- An event of a session that is not yet delivered (R288): its number, its target core, the holder's launch by its place in the
order of dispatch, and its word. -/
structure HeldEvent where
  id : Nat
  target : Nat
  launch : Option Nat
  word : Word
  deriving DecidableEq, Repr

/-! ### Translation caches (R226, R380) -/

structure TlbEntry where
  tenant : Tenant
  bank : Nat
  vbase : BitVec 48
  level : BitVec 2
  leaf : Word
  psd : BitVec 512
  deriving DecidableEq, Repr

/-- A cached frame-table entry, read from physical address `pa`. -/
structure PfcEntry where
  tenant : Tenant
  bank : Nat
  psdid : BitVec 16
  plane : BitVec 3
  frame : BitVec 36
  pa : Nat
  fte : Word
  deriving DecidableEq, Repr

/-- How far a walk has come (R226): the level to read next, 4 down to 1, or 5 for the PSD; the table of a level below 4; and, for
the PSD, the leaf found and its level. -/
structure Reading where
  level : BitVec 3
  table : Word
  leaf : Word
  leafLevel : BitVec 2
  deriving DecidableEq, Repr

/-- A walk (R226, R227), by its number. A shoot-down that has overtaken it leaves it `stale` (R365). -/
structure Walk where
  id : Nat
  core : Nat
  bank : Nat
  tenant : Tenant
  vpage : BitVec 36
  at_ : Reading
  joined : BitVec 8
  waiters : List Waiter
  stale : Bool
  deriving DecidableEq, Repr

/-- A context that EVICT took from a core (R361), with its launch by its place in the order of dispatch (R371) and the owner mismatches
that its jobs recorded since (R363). -/
structure Evicted where
  ctx : Nat
  tenant : Tenant
  priv : Bool
  launch : Option Nat
  due : List FaultRec
  deriving DecidableEq, Repr

/-- One core (R4, R345). `errBy` tells by channel, and by 8 for the collectives, the number plus 1 of the job whose error ERR holds
(R363). The matrix command queue is `cmds`, of bank 0, with `cmds1`, the entries of bank 1. `accOwner` is the owner tag of its
granted accumulators (R251, R372), `lastSession` the session that ended last, whose events may still be held (R357). -/
structure Core where
  bank0 : Bank
  bank1 : Bank
  active : Bool
  ctlBank : Bool
  late : Bool
  err : BitVec 4
  spmask : BitVec 32
  spadOwner : SMap (Option Tenant)
  jobs : List Job
  clamps : BitVec 8
  cclamp : Bool
  errs : SMap (Option FaultRec)
  collErr : Option FaultRec
  errBy : SMap Nat
  cmds : List Cmd
  cmds1 : List Cmd
  granted : BitVec 4
  accOwner : Option Tenant
  accs : SMap (BitVec 32)
  apois : BitVec 8
  heldTile : Option TileEntry
  hcount : BitVec 9
  session : Option Session
  lastSession : Option Session
  evicted : List Evicted
  heldEvents : List HeldEvent
  pathcnt : SMap (BitVec 11)
  gated : Bool
  tlb : List TlbEntry
  deriving DecidableEq, Repr

/-- A request for the hand (R254): `n` accumulators for a new member, or none for a member. -/
structure HandReq where
  core : Nat
  n : Option (BitVec 4)
  deriving DecidableEq, Repr

/-- A command in a table's feed unit (R279). -/
structure Feed where
  core : Nat
  cmd : Nat
  q : Nat
  fmt : BitVec 4
  tenant : Tenant
  places : List Place
  uses : List Used
  deriving DecidableEq, Repr

/-- One table (R250-R263). -/
structure Table where
  holder : Option Nat
  handlen : BitVec 9
  reqs : List HandReq
  ptr : BitVec 4
  queues : SMap (List TileEntry)
  pushes : SMap (BitVec 32)
  feeds : List Feed
  tlb : List TlbEntry
  pfc : List PfcEntry
  deriving DecidableEq, Repr

/-- A flag cell (R336). -/
structure Flag where
  val : BitVec 32
  tag : Tenant
  valid : Bool
  deriving DecidableEq, Repr

/-- One cluster. `walks` lists its walks in order of arrival: the first 128 are in flight, the others wait (R227). -/
structure Cluster where
  flags : SMap Flag
  walks : List Walk
  deriving DecidableEq, Repr

/-! ### The shoe (R82-R105) -/

/-- A launch queue (R82, R83) with the shoe's copy of its head record (R85, R89). `replicaSlots` are the indexes whose records
arrived as replicas (R92, R96), and `copyRepl` tells whether the copied record did. While the head record is replicated `dies` is
the number of its replicas, `sent` and `acked` how many have been sent and delivered, `flight` names the packet under way by its
target and number, and `banksBad` tells whether check 23 fails once they are delivered (R92); else `dies` is 0. -/
structure LaunchQueue where
  base : Word
  log2 : BitVec 5
  ten : Tenant
  head : BitVec 32
  tail : BitVec 32
  maxp : BitVec 2
  dev : Bool
  en : Bool
  check : BitVec 8
  ovf : Bool
  rej : Bool
  copy : Option (BitVec 512)
  copyOk : Bool
  copyRepl : Bool
  eligible : Bool
  replicaSlots : List (BitVec 32)
  dies : Nat
  sent : Nat
  acked : Nat
  flight : Option (Label × BitVec 32)
  banksBad : Bool
  deriving DecidableEq, Repr

/-- A preload entry with its vector block (R101). -/
structure Preload where
  file : BitVec 2
  reg : BitVec 8
  val : Word
  vec : Vec
  deriving DecidableEq, Repr

/-- An active launch (R91, R98-R105, R341). -/
structure Launch where
  record : BitVec 512
  kern : Kernel
  preloads : List Preload
  order : Nat
  queue : BitVec 4
  head : BitVec 32
  next : Nat
  total : Nat
  lo : SMap Nat
  hi : SMap Nat
  began : Bool
  started : List Nat
  exited : List Nat
  roundScope : BitVec 2
  sentDims : List Nat
  gotDims : List Nat
  deriving DecidableEq, Repr

/-- The shoe. `relays` are launches that have retired here and whose nodes still take part in its job-scope rounds: their
participants arrive at every later round at once (R341). -/
structure Shoe where
  lq : SMap LaunchQueue
  qptr : BitVec 4
  cptr : BitVec 10
  cc : SMap (BitVec 32)
  privBase : Word
  privStride : Word
  tentabBase : Word
  tentabCount : BitVec 17
  launches : SMap (Option Launch)
  relays : List Launch
  deriving DecidableEq, Repr

/-! ### Fabric and links (R297-R327, R393) -/

/-- A port. `sending` counts the transfers begun and not acknowledged, the oldest entries of `outq`; `txNum` is the number of the
oldest of them, `rxNum` the next expected one, below which every transfer has been acknowledged (R320). `notice` is what the
last bind notice sent reported, `noticeDue` whether one waits for the port to come up (R319). `pkts` are the packets
that the port has sent and holds for replay, requests and responses. -/
structure Port where
  en : Bool
  quiesce : Bool
  replays : BitVec 16
  cause : BitVec 8
  lane : BitVec 3
  spared : Bool
  st : BitVec 2
  peer : Label
  flitFails : Nat
  lockSt : BitVec 2
  lockCause : BitVec 8
  refused : Bool
  tagsIn : Nat
  tagsOut : Nat
  mism : BitVec 8
  credit : BitVec 3
  lost : Bool
  round : Bool
  bound : Bool
  table : BitVec 6
  tenant : Tenant
  job : BitVec 16
  inq : List TileEntry
  outq : List TileEntry
  sending : Nat
  txNum : BitVec 32
  rxNum : BitVec 32
  pushes : BitVec 32
  noticeDue : Bool
  notice : Option Bool
  pkts : List Packet
  deriving DecidableEq, Repr

/-- A sending stream (R307); `resends` counts the resends of each unacknowledged packet by its number. -/
structure SendStream where
  core : Nat
  dst : Label
  k : BitVec 2
  next : BitVec 32
  unacked : List Packet
  resends : SMap Nat
  deriving DecidableEq, Repr

/-- A receiving stream with its saved responses (R307). -/
structure RecvStream where
  src : Label
  core : Nat
  k : BitVec 2
  expect : BitVec 32
  saved : List (BitVec 32 × Response)
  deriving DecidableEq, Repr

/-- An arrival notice that this node has sent (R343): the record of the launch and the dimension. -/
structure RoundNotice where
  record : BitVec 512
  dim : Nat
  deriving DecidableEq, Repr

structure Fabric where
  label : Label
  downBase : Word
  downGen : BitVec 32
  e2eRetry : BitVec 8
  e2eTimeout : BitVec 16
  winBase : Word
  winSize : Word
  marks : List (Label × BitVec 2)
  ports : SMap Port
  sends : List SendStream
  recvs : List RecvStream
  parts : List Packet
  heldSto : List Packet
  notices : List (Label × Label × BitVec 2)
  roundOut : List RoundNotice
  deriving DecidableEq, Repr

/-! ### The platform (R381-R402) -/

/-- The discovery table (R383), and what is fused into the package for the checks of its firmware (R391). `banks` is keyed by
channel; an unlisted channel has all 16 banks. -/
structure Disc where
  ready : Bool
  fwok : Bool
  serial : BitVec 48
  label0 : Label
  ports : BitVec 22
  far : Word
  banks : SMap (BitVec 16)
  rsaHash : BitVec 384
  slhHash : BitVec 384
  minSvn : BitVec 32
  deriving DecidableEq, Repr

/-- The fault mailbox (R385-R388): `ring` is the ring in host memory by slot, `msix` counts interrupts sent. -/
structure Mailbox where
  base : Word
  log2 : BitVec 4
  tail : BitVec 32
  head : BitVec 32
  lost : BitVec 16
  en : Bool
  ring : SMap (BitVec 512)
  held : List (BitVec 512)
  msix : Nat
  deriving DecidableEq, Repr

/-- The management core. `staged` tells that bring-up has reached step 2 (R402); `spdm` holds the code of the last SPDM answer and
its error code, 0 for none (R392). -/
structure Mgmt where
  st : BitVec 2
  fail : BitVec 8
  img : Word
  svn : BitVec 32
  hostwin : Word
  deferred : List (Block × BitVec 20 × Word)
  staged : Bool
  spdm : Option (Byte × Byte)
  deriving DecidableEq, Repr

/-- The power block (R397). `report` is the AVG that the package last sent to its group (R400). -/
structure Power where
  cap : BitVec 16
  win : BitVec 20
  avg : BitVec 16
  inst : BitVec 16
  s : BitVec 4
  duty : BitVec 5
  fast : Bool
  gid : BitVec 8
  npkg : BitVec 4
  budget : BitVec 16
  level : Bool
  seen : Bool
  active : Bool
  reports : SMap (BitVec 16)
  ages : SMap Nat
  report : Option (BitVec 16)
  deriving DecidableEq, Repr

/-- The latched readback entry (R378). -/
structure Readback where
  sel : Word
  d0 : Word
  d1 : Word
  d2 : Word
  d3 : Word
  deriving DecidableEq, Repr

/-- What a host access through BAR2 left on the link and in AER (R382). -/
inductive HostReply where
  | none
  | data (bytes : List Byte) (poisoned : Bool)
  | unsupported
  deriving DecidableEq, Repr

/-- An AER log entry: the physical address of the dropped sector, and the header of the request: its offset in BAR2 and its
length. -/
inductive AerEntry where
  | unsupported (pa : Nat) (off : BitVec 32) (len : Nat)
  | abort (pa : Nat) (off : BitVec 32) (len : Nat)
  deriving DecidableEq, Repr

/-- A near-tier channel's bank map (R197, R199). -/
structure Near where
  live : BitVec 16
  ilv : BitVec 16
  deriving DecidableEq, Repr

/-! ### The node -/

/-- Whose move is next (log 2): an engine of a core, or an event with its arguments. -/
inductive Turn where
  | word (core : Nat) (e : Engine)
  | event (i : Instr)
  deriving DecidableEq, Repr

/-- Which part of the current core moves next when the agenda is empty (log 2). -/
inductive Phase where
  | eng (e : Engine)
  | mem
  deriving DecidableEq, Repr

/-- One DX4 node. `mem` holds every byte of storage by location: physical address pa at pa, scratchpad byte o of
core c at 2^40 + c * 2^19 + o (R189). `poison` is keyed by location / 32 (R308). `agenda`, `core`, `phase`, `turn`,
`seq` and `free` are the model's own. -/
structure State where
  agenda : List Turn
  core : Nat
  phase : Phase
  turn : Nat
  seq : Nat
  free : Nat
  mem : List Host.Cell
  poison : SMap Bool
  cores : SMap Core
  tables : SMap Table
  clusters : SMap Cluster
  shoe : Shoe
  near : SMap Near
  fabric : Fabric
  disc : Disc
  mbox : Mailbox
  mgmt : Mgmt
  power : Power
  readback : Readback
  reply : HostReply
  aer : List AerEntry
  deriving DecidableEq, Repr

/-! ### Values after node reset -/

def Three.all {α : Type} (v : α) : Three α := ⟨v, v, v⟩

def FaultRec.zero : FaultRec := ⟨0, 0, 0, 0, 0, 0, 0⟩

def LoopState.zero : LoopState := ⟨0, 0, 0, false⟩

/-- No tokens, no outcomes, empty stacks and queues, no loop active (R108, R113-R115). -/
def Issue.zero : Issue := ⟨Three.all 0, [], [], Three.all [], Three.all [], []⟩

def TempoRegs.zero : TempoRegs := ⟨0, 0, 0, 0, false, 2, 2, 0, 0, 0, 0, false, 0, 0⟩

def MatIssue.zero : MatIssue := ⟨0, 0, 0, 0, 0, 0, false, 0, false, 0⟩

/-- An empty bank: every CSR at the reset value its table gives (R124, R162, R196, R215, R257, R293, R344);
registers at zero (log 9). -/
def Bank.zero : Bank where
  st := .empty
  a := []
  s := []
  m := []
  v := []
  k := []
  pc := Three.all 0
  kx := Three.all none
  issue := Issue.zero
  shadow := Issue.zero
  evq := []
  slipwin := 1024
  handlen := 32
  fault := FaultRec.zero
  trapActive := false
  trapSkip := false
  trapRec := none
  skip := Three.all false
  owed := Three.all none
  rpc := Three.all 0
  xrm := 0
  xseed := 0
  xflags := 0
  chipGrant := 0
  privBase := 0
  privSize := 0
  xlat := ⟨0, 0, 0, 0⟩
  clamp := false
  tenant := 0
  priv := false
  mat := MatIssue.zero
  tempo := TempoRegs.zero
  round := ⟨0, 0, false⟩
  walked := []
  given := []
  kern := none
  launch := none
  pe := false
  exiting := false
  stopping := false
  inflight := []
  wait := .none
  pend := none
  due := []
  svcPend := false
  svcSeen := false
  svcPast := false
  shsel := false
  svcRec := none
  ctx := 0
  hdr := 0x0103
  hdrw := 0x0103
  staged := []
  owner := none

/-- A core after node reset: both banks empty, SPMASK 0x0000_FFFF (R346). -/
def Core.zero : Core where
  bank0 := Bank.zero
  bank1 := Bank.zero
  active := false
  ctlBank := false
  late := false
  err := 0
  spmask := 0x0000FFFF
  spadOwner := []
  jobs := []
  clamps := 0
  cclamp := false
  errs := []
  collErr := none
  errBy := []
  cmds := []
  cmds1 := []
  granted := 0
  accOwner := none
  accs := []
  apois := 0
  heldTile := none
  hcount := 0
  session := none
  lastSession := none
  evicted := []
  heldEvents := []
  pathcnt := []
  gated := false
  tlb := []

def Table.zero : Table := ⟨none, 32, [], 0, [], [], [], [], []⟩

def Flag.zero : Flag := ⟨0, 0, false⟩

def Cluster.zero : Cluster := ⟨[], []⟩

def LaunchQueue.zero : LaunchQueue :=
  ⟨0, 0, 0, 0, 0, 0, false, false, 0, false, false, none, false, false, false, [], 0, 0, 0, none, false⟩

def Shoe.zero : Shoe := ⟨[], 0, 0, [], 0, 0, 0, 0, [], []⟩

/-- A port after node reset: EN = 0 and so down with CAUSE 1 read as its reset value 0, UNLOCKED, unbound (R299,
R317, R402). -/
def Port.zero : Port where
  en := false
  quiesce := false
  replays := 0
  cause := 0
  lane := 0
  spared := false
  st := 0
  peer := 0
  flitFails := 0
  lockSt := 0
  lockCause := 0
  refused := false
  tagsIn := 0
  tagsOut := 0
  mism := 0
  credit := 0
  lost := false
  round := false
  bound := false
  table := 0
  tenant := 0
  job := 0
  inq := []
  outq := []
  sending := 0
  txNum := 0
  rxNum := 0
  pushes := 0
  noticeDue := false
  notice := none
  pkts := []

/-- R298: E2E reads 0x0008_0028 after reset. The label is 0 until bring-up (log 8). -/
def Fabric.zero : Fabric := ⟨0, 0, 0, 8, 40, 0, 0, [], [], [], [], [], [], [], []⟩

/-- The discovery table of a nominal CB-DX4-2C: every port, 512 GiB far tier, every bank present (R2, R383; log 8). -/
def Disc.nominal : Disc := ⟨false, false, 1, 0, 0x3FFFFF, 0x8000000000, [], 0, 0, 0⟩

def Near.zero : Near := ⟨0, 0⟩

/-- The node right after reset (R402 step 1): management core held, cores idle, queues disabled, ports down. -/
def State.reset : State where
  agenda := []
  core := 0
  phase := .eng .a
  turn := 0
  seq := 0
  free := 0
  mem := []
  poison := []
  cores := []
  tables := []
  clusters := []
  shoe := Shoe.zero
  near := []
  fabric := Fabric.zero
  disc := Disc.nominal
  mbox := ⟨0, 0, 0, 0, 0, false, [], [], 0⟩
  mgmt := ⟨0, 0, 0, 0, 0, [], false, none⟩
  power := ⟨2800, 1000, 0, 0, 0, 16, false, 0, 0, 0, false, false, false, [], [], none⟩
  readback := ⟨0, 0, 0, 0, 0⟩
  reply := .none
  aer := []

end Sys2Proof.Machine
end

