-- ==== Sys2Proof/Machine/Bits.lean ====
section
/-! DEFINITION. Sparse maps, triples by engine, bit fields, lanes and byte order: the plain helpers that every later
file uses. -/
namespace Sys2Proof

/-! ### One value for each engine -/

def Three.get {α : Type} (t : Three α) : Engine → α
  | .a => t.a
  | .x => t.x
  | .m => t.m

def Three.set {α : Type} (t : Three α) (v : α) : Engine → Three α
  | .a => { t with a := v }
  | .x => { t with x := v }
  | .m => { t with m := v }

def Three.map {α β : Type} (f : α → β) (t : Three α) : Three β := ⟨f t.a, f t.x, f t.m⟩

/-- The tag of an engine's words (R40). -/
def Engine.tag : Engine → BitVec 2
  | .a => 0
  | .x => 1
  | .m => 2

end Sys2Proof

namespace Sys2Proof.Machine

/-! ### Sparse maps -/

/-- The value at `k`; `d` where no entry lists it. -/
def sget {α : Type} : SMap α → Nat → α → α
  | [], _, d => d
  | (j, v) :: m, k, d => if j = k then v else sget m k d

/-- Remove the entry at `k`. -/
def sdel {α : Type} : SMap α → Nat → SMap α
  | [], _ => []
  | (j, v) :: m, k => if j = k then m else if k < j then (j, v) :: m else (j, v) :: sdel m k

/-- Put `v` at `k`, replacing what stood there. -/
def sput {α : Type} : SMap α → Nat → α → SMap α
  | [], k, v => [(k, v)]
  | (j, u) :: m, k, v =>
    if j = k then (k, v) :: m else if k < j then (k, v) :: (j, u) :: m else (j, u) :: sput m k v

/-- Set the value at `k`: writing what an unlisted key reads as removes the entry. -/
def sset {α : Type} [DecidableEq α] (m : SMap α) (k : Nat) (v d : α) : SMap α :=
  if v = d then sdel m k else sput m k v

/-- Keys strictly rise from `lo`, and no entry holds the default. -/
def swf {α : Type} [DecidableEq α] : SMap α → Nat → α → Bool
  | [], _, _ => true
  | (j, v) :: m, lo, d => decide (lo ≤ j) && !decide (v = d) && swf m (j + 1) d

/-- Change the value at `k`. -/
def smod {α : Type} [DecidableEq α] (m : SMap α) (k : Nat) (d : α) (f : α → α) : SMap α :=
  sset m k (f (sget m k d)) d

/-- Change every value that an entry lists. -/
def smap {α : Type} [DecidableEq α] (m : SMap α) (d : α) (f : α → α) : SMap α :=
  match m with
  | [] => []
  | (j, v) :: l => if f v = d then smap l d f else (j, f v) :: smap l d f

/-- The engine a two-bit code names; 3 names none (R47). -/
def engineOf (g : BitVec 2) : Option Engine :=
  if g = 0 then some .a else if g = 1 then some .x else if g = 2 then some .m else none

/-! ### Lists -/

/-- The `i`-th element replaced; out of range, unchanged. -/
def lset {α : Type} : List α → Nat → α → List α
  | [], _, _ => []
  | _ :: l, 0, v => v :: l
  | x :: l, i + 1, v => x :: lset l i v

/-- The `i`-th element removed. -/
def ldel {α : Type} : List α → Nat → List α
  | [], _ => []
  | _ :: l, 0 => l
  | x :: l, i + 1 => x :: ldel l i

/-- The first index from `i` at which `p` holds. -/
def lfind {α : Type} (p : α → Bool) : List α → Nat → Option Nat
  | [], _ => none
  | x :: l, i => if p x then some i else lfind p l (i + 1)

/-- `n` values of `f` from `i` on. -/
def tab {α : Type} (f : Nat → α) : Nat → Nat → List α
  | _, 0 => []
  | i, n + 1 => f i :: tab f (i + 1) n

/-! ### Numbers of w bits -/

/-- Bits [w-1:0]. -/
def low (w x : Nat) : Nat := x % 2 ^ w

/-- Bit `i`. -/
def bit (x i : Nat) : Bool := x >>> i % 2 == 1

/-- Bits [lo+n-1:lo]. -/
def fld (x lo n : Nat) : Nat := (x >>> lo) % 2 ^ n

/-- SX of R142. -/
def sx (w e : Nat) : Int := if bit e (w - 1) then (e : Int) - (2 ^ w : Nat) else (e : Int)

/-- An integer modulo 2^w. -/
def wrapI (w : Nat) (z : Int) : Nat := (z % (2 ^ w : Nat)).toNat

/-- Sat of R142. -/
def satS (w : Nat) (y : Int) : Int := min (max y (-(2 ^ (w - 1) : Nat))) ((2 ^ (w - 1) : Nat) - 1)

/-- SatU of R142. -/
def satU (w : Nat) (y : Int) : Int := min (max y 0) ((2 ^ w : Nat) - 1)

/-- SignExtend64 of a field of n bits (R49). -/
def sext64 (n x : Nat) : Word := BitVec.ofInt 64 (sx n x)

/-- The number of ones in the low `n` bits. -/
def ones : Nat → Nat → Nat
  | 0, _ => 0
  | n + 1, x => x % 2 + ones n (x / 2)

/-- The number of zeros above the highest one of a w-bit value; w when it is zero (R151). -/
def clz (w x : Nat) : Nat := if x = 0 then w else w - 1 - x.log2

/-- A Bool as a one-bit number. -/
def b2n (b : Bool) : Nat := if b then 1 else 0

/-- The bits of `new` where `mask` has ones, those of `old` elsewhere. -/
def merge {n : Nat} (old new mask : BitVec n) : BitVec n := (old &&& ~~~mask) ||| (new &&& mask)

/-! ### Lanes (R142) -/

/-- Elem of R142. -/
def elem (x w i : Nat) : Nat := (x >>> (w * i)) % 2 ^ w

/-- The `n` elements of width `w`. -/
def elems (x w n : Nat) : List Nat := tab (elem x w) 0 n

/-- The number whose elements of width `w` are those of the list, the first lowest. -/
def pack (w : Nat) : List Nat → Nat
  | [] => 0
  | e :: l => low w e + (pack w l) <<< w

/-! ### Bytes, little-endian (R6) -/

/-- The `n` low bytes of `x`, the lowest first. -/
def bytesOf (x : Nat) : Nat → List Byte
  | 0 => []
  | n + 1 => BitVec.ofNat 8 x :: bytesOf (x / 256) n

/-- The number whose little-endian bytes these are. -/
def ofBytes : List Byte → Nat
  | [] => 0
  | b :: l => b.toNat + 256 * ofBytes l

/-- The elements of a list with their places, through `f`. -/
def numbered {α β : Type} (f : Nat → α → β) : Nat → List α → List β
  | _, [] => []
  | i, x :: l => f i x :: numbered f (i + 1) l

end Sys2Proof.Machine
end

