-- ==== Sys2Proof/Machine/Fields.lean ====
section
/-! DEFINITION. What R42-R55 say of the fields of a word: reserved fields, code values, operand sets, CSR numbers, the
KX a word takes and its payload. -/
namespace Sys2Proof.Machine

/-- Check OPCODE on the width codes (R53, R157, R158): a reserved width code is a reserved OP. -/
def opBad : Instr → Bool
  | .xVwadd _ w _ _ _ | .xVwmul _ w _ _ _ => w == 0
  | .xVnarrow _ w _ _ => w == 3
  | .xVfadd _ f _ _ _ | .xVfsub _ f _ _ _ | .xVfmul _ f _ _ _ | .xVfma _ f _ _ _ | .xVfmin _ f _ _ _
  | .xVfmax _ f _ _ _ | .xVfcmp _ f _ _ _ => f == 3
  | _ => false

/-- The reserved fields of a word, highest first, as (lowest bit, width) (R42, R51-R54). -/
def reservedFields : Instr → List (Nat × Nat)
  | .nop | .ret | .exit | .resume | .halt | .eret | .aNop _ | .xNop _ | .mNop _ | .aRfence _ | .mMrels _
  | .mMfence _ | .mTempo _ => [(0, 18)]
  | .bi _ _ => [(13, 3), (0, 7)]
  | .loop _ | .endl _ | .mMfmtl _ _ => [(0, 14)]
  | .round _ => [(0, 16)]
  | .trap _ => [(16, 2)]
  | .aScat _ _ _ _ | .aQpush _ _ _ => [(12, 6)]
  | .aAadd _ _ _ _ _ | .aAand _ _ _ _ _ | .aAor _ _ _ _ _ | .aAxor _ _ _ _ _ | .aAmin _ _ _ _ _
  | .aAmax _ _ _ _ _ | .aAminu _ _ _ _ _ | .aAmaxu _ _ _ _ _ | .aAxchg _ _ _ _ _ | .aAcas _ _ _ _ _
  | .aAfadd _ _ _ _ _ => [(0, 1)]
  | .aAspc _ _ _ | .xKnot _ _ _ | .xKpopc _ _ _ | .xFrcp _ _ _ | .xFrsq _ _ _ | .xFcvt _ _ _ | .xVabs _ _ _ _
  | .xVpopc _ _ _ _ | .xVclz _ _ _ _ | .xVnarrow _ _ _ _ | .xVredadd _ _ _ _ | .xVmov _ _ _ | .xVbcast _ _ _ _
  | .xVfcvt _ _ _ | .xVrcp _ _ _ | .xVrsq _ _ _ | .xVrcpstep _ _ _ | .xVrsqstep _ _ _ | .xVexp2 _ _ _
  | .xVlog2 _ _ _ | .xVfredadd _ _ _ | .xVfabs _ _ _ | .xVfneg _ _ _ => [(0, 6)]
  | .aCpy _ _ _ => [(12, 3), (0, 7)]
  | .aDrain _ _ => [(12, 3), (7, 5), (0, 7)]
  | .aTrick _ _ => [(13, 5)]
  | .aColl _ _ | .aSwap _ _ => [(15, 3), (12, 3), (0, 7)]
  | .aLaunch _ _ _ => [(12, 6), (4, 3)]
  | .aEvpop _ _ | .aEvpeek _ _ | .aWnext _ _ | .mMpop _ _ => [(6, 6), (0, 6)]
  | .aRemap _ _ => [(12, 6), (0, 6)]
  | .xXrmode _ _ => [(3, 15)]
  | .xXflags _ _ _ => [(1, 11)]
  | .xKmovs _ _ _ _ | .xKmovk _ _ _ _ => [(4, 2)]
  | .mMlc _ _ _ | .mTstat _ _ _ => [(4, 8)]
  | .mMhand _ _ => [(4, 14)]
  | .mMfmt _ _ => [(8, 10)]
  | .mMrmode _ _ _ => [(12, 3), (0, 6)]
  | .mMdrain _ _ _ | .mMldacc _ _ _ => [(1, 7), (0, 1)]
  | .mMclr _ _ => [(8, 7), (1, 7), (0, 1)]
  | .mMfeed _ _ _ => [(15, 3), (0, 1)]
  | .mTcut _ _ => [(1, 17)]
  | _ => []

/-- Check FIELD on code fields: the lowest bit of each code field whose value is reserved, highest first (R46, R47,
R51-R54). -/
def codeBad : Instr → List Nat
  | .bc g c _ _ => (if g == 3 then [16] else []) ++ (if 6 ≤ c then [13] else [])
  | .bi g _ => (if g == 3 then [16] else [])
  | .round s => (if 2 ≤ s then [16] else [])
  | .aSfence _ s _ => (if s == 3 then [16] else [])
  | .aLdvc _ _ _ x _ => (if 5 ≤ x then [4] else [])
  | .aAcvt _ _ _ i => (if 6 ≤ i then [0] else [])
  | .aTlbi _ k _ _ => (if 3 ≤ k then [12] else [])
  | .aLqbind _ k _ _ => (if 22 ≤ k then [12] else [])
  | .xXrmode _ m => (if 6 ≤ m then [0] else [])
  | .mMhand _ n => (if n == 0 || 9 ≤ n then [0] else [])
  | .mMrmode _ m _ => (if 6 ≤ m then [15] else [])
  | .mTstat _ _ s => (if 6 ≤ s then [0] else [])
  | _ => []

/-- The register operand sets of R43. -/
inductive OpSet where
  | a
  | aCq
  | aDqCq
  | dq
  | aSq
  | sq
  | s
  | sSq
  | sDq
  | v
  | vSq
  | vDqZ
  | k
  | m
  deriving DecidableEq, Repr

/-- Whether a field value lies in a set (R43). -/
def OpSet.has : OpSet → Nat → Bool
  | .a, n | .s, n => n < 32
  | .aCq, n => n < 32 || n == 38
  | .aDqCq, n => n < 36 || n == 38
  | .dq, n => 32 ≤ n && n < 36
  | .aSq, n | .sSq, n => n < 32 || n == 36 || n == 37
  | .sq, n => n == 36 || n == 37
  | .sDq, n => n < 36
  | .v, n => n < 48
  | .vSq, n => n < 48 || n == 52 || n == 53
  | .vDqZ, n => n < 52 || n == 56
  | .k, n => n < 8
  | .m, n => n < 16

/-- The tile-queue sets of M words (R54). -/
def tqRange (lo hi : Nat) (q : BitVec 7) : Bool := lo ≤ q.toNat && q.toNat ≤ hi

/-- The lowest bit of a field outside its set, as a list of none or one. -/
def out (set : OpSet) (f : BitVec 6) (lo : Nat) : List Nat := if set.has f.toNat then [] else [lo]

/-- Fields D, A, B of format RRR against their sets. -/
def outs3 (sd sa sb : OpSet) (d a b : BitVec 6) : List Nat := out sd d 12 ++ out sa a 6 ++ out sb b 0

/-- Fields D and A against their sets. -/
def outs2 (sd sa : OpSet) (d a : BitVec 6) : List Nat := out sd d 12 ++ out sa a 6

/-- The set of BC's and BI's REG: a register of the engine that ENG names (R51, R132). -/
def branchSet (g : BitVec 2) : OpSet := if g == 0 then .a else if g == 1 then .s else .m

/-- Check ALIAS: the lowest bit of each operand field outside its set, highest first (R43, R51-R54). -/
def aliasBad : Instr → List Nat
  | .bc g _ r _ | .bi g r => (if (branchSet g).has r.toNat then [] else [7])
  | .aAdd _ d a b | .aSub _ d a b | .aAnd _ d a b | .aOr _ d a b | .aXor _ d a b | .aAndn _ d a b
  | .aShl _ d a b | .aShr _ d a b | .aSar _ d a b | .aMul _ d a b | .aMulh _ d a b | .aMulhu _ d a b
  | .aMin _ d a b | .aMax _ d a b | .aMinu _ d a b | .aMaxu _ d a b | .aSlt _ d a b | .aSltu _ d a b
  | .aSeq _ d a b => outs3 .aCq .a .a d a b
  | .aAddi _ d a _ | .aAndi _ d a _ | .aOri _ d a _ | .aXori _ d a _ | .aShli _ d a _ | .aShri _ d a _
  | .aSari _ d a _ | .aAspc _ d a | .aAcvt _ d a _ => outs2 .aCq .a d a
  | .aLi _ d _ => out .aCq d 12
  | .aLihi _ d _ | .aEvpop _ d | .aEvpeek _ d | .aWnext _ d | .aCsrr _ d _ | .aCsrw _ d _ => out .a d 12
  | .aLdB _ d _ _ _ | .aLdH _ d _ _ _ | .aLdW _ d _ _ _ | .aLdD _ d _ _ _ | .aLdsB _ d _ _ _ | .aLdsH _ d _ _ _
  | .aLdsW _ d _ _ _ => out .aDqCq d 12
  | .aLdv _ d _ _ _ | .aLdvc _ d _ _ _ | .aGath _ d _ _ _ => out .dq d 12
  | .aStB _ d _ _ _ | .aStH _ d _ _ _ | .aStW _ d _ _ _ | .aStD _ d _ _ _ | .aSto _ d _ _ _ => out .aSq d 12
  | .aStv _ d _ _ _ => out .sq d 12
  | .aAcas _ d _ o _ => out .a d 12 ++ (if o.getLsbD 0 then [2] else [])
  | .aAadd _ d _ _ _ | .aAand _ d _ _ _ | .aAor _ d _ _ _ | .aAxor _ d _ _ _ | .aAmin _ d _ _ _
  | .aAmax _ d _ _ _ | .aAminu _ d _ _ _ | .aAmaxu _ d _ _ _ | .aAxchg _ d _ _ _ | .aAfadd _ d _ _ _ => out .a d 12
  | .aQpush _ a b | .aTlbi _ _ a b | .aLqbind _ _ a b => out .a a 6 ++ out .a b 0
  | .aRemap _ a => out .a a 6
  | .xXflags _ d _ => out .sSq d 12
  | .xAdd _ d a b | .xSub _ d a b | .xAnd _ d a b | .xOr _ d a b | .xXor _ d a b | .xAndn _ d a b
  | .xShl _ d a b | .xShr _ d a b | .xSar _ d a b | .xMul _ d a b | .xMulh _ d a b | .xMulhu _ d a b
  | .xMin _ d a b | .xMax _ d a b | .xMinu _ d a b | .xMaxu _ d a b | .xSlt _ d a b | .xSltu _ d a b
  | .xSeq _ d a b | .xFadd _ d a b | .xFsub _ d a b | .xFmul _ d a b | .xFmin _ d a b | .xFmax _ d a b
  | .xFcmp _ d a b => outs3 .sSq .sDq .sDq d a b
  | .xAddi _ d a _ | .xAndi _ d a _ | .xOri _ d a _ | .xXori _ d a _ | .xShli _ d a _ | .xShri _ d a _
  | .xSari _ d a _ | .xFrcp _ d a | .xFrsq _ d a | .xFcvt _ d a => outs2 .sSq .sDq d a
  | .xLi _ d _ => out .sSq d 12
  | .xLihi _ d _ => out .s d 12
  | .xKand _ d a b | .xKor _ d a b => outs3 .k .k .k d a b
  | .xKnot _ d a => outs2 .k .k d a
  | .xKmovs _ d a _ | .xKpopc _ d a => outs2 .sSq .k d a
  | .xKmovk _ d a _ => outs2 .k .sDq d a
  | .xFma _ d a b => outs3 .s .sDq .sDq d a b
  | .xVadd _ _ d a b | .xVsub _ _ d a b | .xVand _ d a b | .xVor _ d a b | .xVxor _ d a b | .xVandn _ d a b
  | .xVshl _ _ d a b | .xVshr _ _ d a b | .xVsar _ _ d a b | .xVmul24 _ d a b | .xVmul24u _ d a b
  | .xVmul32 _ d a b | .xVmulh _ _ d a b | .xVmin _ _ d a b | .xVmax _ _ d a b | .xVminu _ _ d a b
  | .xVmaxu _ _ d a b | .xVperm _ d a b | .xVfadd _ _ d a b | .xVfsub _ _ d a b | .xVfmul _ _ d a b
  | .xVfmin _ _ d a b | .xVfmax _ _ d a b | .xVfun _ d a b | .xVsel _ d a b | .xVqscale _ d a b
  | .xVqpack _ d a b | .xVqunpk _ d a b => outs3 .vSq .vDqZ .vDqZ d a b
  | .xVlop3 _ d a b | .xVmad24 _ d a b | .xVwadd _ _ d a b | .xVwmul _ _ d a b | .xVfma _ _ d a b => outs3 .v .vDqZ .vDqZ d a b
  | .xVabs _ _ d a | .xVpopc _ _ d a | .xVclz _ _ d a | .xVnarrow _ _ d a | .xVmov _ d a | .xVrcp _ d a
  | .xVrsq _ d a | .xVexp2 _ d a | .xVlog2 _ d a | .xVfabs _ d a | .xVfneg _ d a | .xVfcvt _ d a => outs2 .vSq .vDqZ d a
  | .xVrcpstep _ d a | .xVrsqstep _ d a => outs2 .v .vDqZ d a
  | .xVcmpeq _ _ d a b | .xVcmplt _ _ d a b | .xVcmpltu _ _ d a b | .xVfcmp _ _ d a b => outs3 .k .vDqZ .vDqZ d a b
  | .xVredadd _ _ d a | .xVfredadd _ d a => outs2 .sSq .vDqZ d a
  | .xVrot _ _ d a b => outs3 .vSq .vDqZ .sDq d a b
  | .xVbcast _ _ d a => outs2 .vSq .sDq d a
  | .xVext _ _ d a b => outs3 .sSq .vDqZ .sDq d a b
  | .xVins _ _ d a b => outs3 .v .sDq .sDq d a b
  | .mMset _ d _ | .mMpop _ d | .mMlc _ d _ | .mTstat _ d _ => out .m d 12
  | .mMadd _ d a b | .mMshape _ d a b | .mTlook _ d a b => outs3 .m .m .m d a b
  | .mMrmode _ _ s => out .m s 6
  | .mMmul _ _ a b _ | .mMmulk _ _ a b _ =>
    (if tqRange 0 7 a || tqRange 32 53 a then [] else [8]) ++
    (if tqRange 8 15 b || tqRange 32 53 b || tqRange 127 127 b then [] else [1])
  | .mMdrain _ _ a => if tqRange 16 23 a || tqRange 64 85 a then [] else [8]
  | .mMldacc _ _ a => if tqRange 0 15 a || tqRange 32 53 a then [] else [8]
  | .mMfeed _ a b => (if tqRange 8 11 a then [] else [8]) ++ (if tqRange 0 15 b then [] else [1])
  | _ => []

/-- Whether a CSR number is assigned (R124, R162, R196, R215, R240, R257, R293, R311, R318, R336, R344, R348). -/
def csrAssigned (n : Nat) : Bool :=
  (0x010 ≤ n && n ≤ 0x014) || (0x020 ≤ n && n ≤ 0x02F) || (0x040 ≤ n && n ≤ 0x046) || (0x048 ≤ n && n ≤ 0x04B) ||
  n == 0x050 || (0x060 ≤ n && n ≤ 0x062) || (0x070 ≤ n && n ≤ 0x077) || (0x080 ≤ n && n ≤ 0x084) || n == 0x090 ||
  (0x0A0 ≤ n && n ≤ 0x0A4) || (0x0B0 ≤ n && n ≤ 0x0B6) || (0x0C0 ≤ n && n ≤ 0x0C3) || (0x0D0 ≤ n && n ≤ 0x0E5) ||
  n == 0x0F0 || (0x100 ≤ n && n ≤ 0x13F)

/-- Check CSR (R55, R367). -/
def csrBad : Instr → Bool
  | .aCsrr _ _ c | .aCsrw _ _ c => !csrAssigned c.toNat
  | _ => false

/-- The register group a widening word writes (R157). -/
def wideGroup (w : BitVec 2) : Nat := if w == 1 then 2 else 4

/-- Check ALIGN: a widening destination starts its group (R53, R157). -/
def alignBad : Instr → Bool
  | .xVwadd _ w d _ _ | .xVwmul _ w d _ _ => d.toNat % wideGroup w != 0
  | _ => false

/-- What a word does with a KX prefix (R49). -/
inductive KxUse where
  | none
  | imm
  | zero
  | disp
  | at
  | flag
  | flagwait
  | pred
  | sel
  | lop3
  | fun5
  | conv
  | cond
  | fwd
  deriving DecidableEq, Repr

/-- The KX that each word takes (R49, R53, R148, R210, R339). -/
def kxUse : Instr → KxUse
  | .b _ | .bc _ _ _ _ | .call _ | .aAddi _ _ _ _ | .aAndi _ _ _ _ | .aOri _ _ _ _ | .aXori _ _ _ _
  | .aLi _ _ _ | .aLihi _ _ _ | .xAddi _ _ _ _ | .xAndi _ _ _ _ | .xOri _ _ _ _ | .xXori _ _ _ _ | .xLi _ _ _
  | .xLihi _ _ _ | .mMset _ _ _ => .imm
  | .aShli _ _ _ _ | .aShri _ _ _ _ | .aSari _ _ _ _ | .xShli _ _ _ _ | .xShri _ _ _ _ | .xSari _ _ _ _
  | .aAcvt _ _ _ _ => .zero
  | .aLdB _ _ _ _ _ | .aLdH _ _ _ _ _ | .aLdW _ _ _ _ _ | .aLdD _ _ _ _ _ | .aLdsB _ _ _ _ _ | .aLdsH _ _ _ _ _
  | .aLdsW _ _ _ _ _ | .aStB _ _ _ _ _ | .aStH _ _ _ _ _ | .aStW _ _ _ _ _ | .aStD _ _ _ _ _ | .aLdv _ _ _ _ _
  | .aStv _ _ _ _ _ | .aLdvc _ _ _ _ _ | .aGath _ _ _ _ _ | .aScat _ _ _ _ | .aSto _ _ _ _ _ => .disp
  | .aAadd _ _ _ _ _ | .aAand _ _ _ _ _ | .aAor _ _ _ _ _ | .aAxor _ _ _ _ _ | .aAmin _ _ _ _ _
  | .aAmax _ _ _ _ _ | .aAminu _ _ _ _ _ | .aAmaxu _ _ _ _ _ | .aAxchg _ _ _ _ _ | .aAcas _ _ _ _ _
  | .aAfadd _ _ _ _ _ => .at
  | .aFlagset _ _ _ | .aFlagadd _ _ _ => .flag
  | .aFlagwait _ _ _ => .flagwait
  | .xVadd _ _ _ _ _ | .xVsub _ _ _ _ _ | .xVand _ _ _ _ | .xVor _ _ _ _ | .xVxor _ _ _ _ | .xVandn _ _ _ _
  | .xVshl _ _ _ _ _ | .xVshr _ _ _ _ _ | .xVsar _ _ _ _ _ | .xVmul24 _ _ _ _ | .xVmul24u _ _ _ _
  | .xVmul32 _ _ _ _ | .xVmulh _ _ _ _ _ | .xVmin _ _ _ _ _ | .xVmax _ _ _ _ _ | .xVminu _ _ _ _ _
  | .xVmaxu _ _ _ _ _ | .xVperm _ _ _ _ | .xVfadd _ _ _ _ _ | .xVfsub _ _ _ _ _ | .xVfmul _ _ _ _ _
  | .xVfmin _ _ _ _ _ | .xVfmax _ _ _ _ _ | .xVabs _ _ _ _ | .xVpopc _ _ _ _ | .xVclz _ _ _ _
  | .xVnarrow _ _ _ _ | .xVmov _ _ _ | .xVrcp _ _ _ | .xVrsq _ _ _ | .xVexp2 _ _ _ | .xVlog2 _ _ _
  | .xVfabs _ _ _ | .xVfneg _ _ _ | .xVmad24 _ _ _ _ | .xVfma _ _ _ _ _ | .xVcmpeq _ _ _ _ _
  | .xVcmplt _ _ _ _ _ | .xVcmpltu _ _ _ _ _ | .xVwadd _ _ _ _ _ | .xVwmul _ _ _ _ _ | .xVrot _ _ _ _ _
  | .xVbcast _ _ _ _ | .xVrcpstep _ _ _ | .xVrsqstep _ _ _ => .pred
  | .xVsel _ _ _ _ => .sel
  | .xVlop3 _ _ _ _ => .lop3
  | .xVfun _ _ _ _ => .fun5
  | .xVfcvt _ _ _ | .xFcvt _ _ _ => .conv
  | .xVfcmp _ _ _ _ _ | .xFcmp _ _ _ _ => .cond
  | .mMmul _ _ _ _ _ | .mMmulk _ _ _ _ _ => .fwd
  | _ => .none

/-- Whether a KX use is mandatory (R49). -/
def KxUse.mandatory : KxUse → Bool
  | .sel | .lop3 | .fun5 | .conv | .cond => true
  | _ => false

/-- Whether D of a vector word is a queue code (R43, R145). -/
def pushesVec : Instr → Bool
  | .xVadd _ _ d _ _ | .xVsub _ _ d _ _ | .xVand _ d _ _ | .xVor _ d _ _ | .xVxor _ d _ _ | .xVandn _ d _ _
  | .xVshl _ _ d _ _ | .xVshr _ _ d _ _ | .xVsar _ _ d _ _ | .xVmul24 _ d _ _ | .xVmul24u _ d _ _
  | .xVmul32 _ d _ _ | .xVmulh _ _ d _ _ | .xVmin _ _ d _ _ | .xVmax _ _ d _ _ | .xVminu _ _ d _ _
  | .xVmaxu _ _ d _ _ | .xVperm _ d _ _ | .xVfadd _ _ d _ _ | .xVfsub _ _ d _ _ | .xVfmul _ _ d _ _
  | .xVfmin _ _ d _ _ | .xVfmax _ _ d _ _ | .xVabs _ _ d _ | .xVpopc _ _ d _ | .xVclz _ _ d _
  | .xVnarrow _ _ d _ | .xVmov _ d _ | .xVrcp _ d _ | .xVrsq _ d _ | .xVexp2 _ d _ | .xVlog2 _ d _
  | .xVfabs _ d _ | .xVfneg _ d _ | .xVrot _ _ d _ _ | .xVbcast _ _ d _ => 52 ≤ d
  | _ => false

/-- Format codes that FCVT and VFCVT take (R180). -/
def convFormat (c : BitVec 4) : Bool := !(c == 5 || c == 6 || c == 7)

/-- Check KX_PAYLOAD: the lowest bit, counted in PAY, of each offending field, highest first (R49, R55). Two choices of the model
(log 54): a VSEL payload with EN = 0 reports EN, bit 3, whatever its bits 4 and 2 to 0 hold; a predicated push to a vector queue
that merges reports Z, bit 4. -/
def payBad (i : Instr) (p : BitVec 22) : List Nat :=
  match kxUse i with
  | .none | .imm | .disp | .at | .flag => []
  | .zero => if p == 0 then [] else [0]
  | .flagwait => if p.extractLsb' 0 16 == 0 then [] else [0]
  | .pred =>
    (if p.extractLsb' 5 17 == 0 then [] else [5]) ++
    (if p.getLsbD 3 then (if pushesVec i && !p.getLsbD 4 then [4] else [])
     else (if p.getLsbD 4 then [4] else []) ++ (if p.extractLsb' 0 3 == 0 then [] else [0]))
  | .sel => (if p.extractLsb' 5 17 == 0 then [] else [5]) ++ (if p.getLsbD 3 then [] else [3])
  | .lop3 => if p.extractLsb' 8 14 == 0 then [] else [8]
  | .fun5 => if p.extractLsb' 5 17 == 0 then [] else [5]
  | .conv =>
    (if p.extractLsb' 12 10 == 0 then [] else [12]) ++ (if p.extractLsb' 9 3 == 7 then [9] else []) ++
    (if convFormat (p.extractLsb' 4 4) then [] else [4]) ++ (if convFormat (p.extractLsb' 0 4) then [] else [0])
  | .cond => (if p.extractLsb' 4 18 == 0 then [] else [4]) ++ (if p.getLsbD 3 then [0] else [])
  | .fwd =>
    (if p.extractLsb' 8 14 == 0 then [] else [8]) ++
    (if p.getLsbD 7 then (if tqRange 64 85 (p.extractLsb' 0 7) then [] else [0])
     else (if p.extractLsb' 0 7 == 0 then [] else [0]))

/-- The privileged opcodes (R51, R52). -/
def privileged : Instr → Bool
  | .halt | .eret | .aSwap _ _ | .aTlbi _ _ _ _ | .aRemap _ _ | .aLqbind _ _ _ _ => true
  | _ => false

/-- Whether a word carries the shared tag (R51). -/
def isShared : Instr → Bool
  | .nop | .b _ | .bc _ _ _ _ | .bi _ _ | .call _ | .ret | .loop _ | .endl _ | .round _ | .exit | .trap _
  | .resume | .halt | .eret => true
  | _ => false

/-- Whether a term is an instruction word, and not a step of the device without a word. -/
def isWord : Instr → Bool
  | .nop | .b _ | .bc _ _ _ _ | .bi _ _ | .call _ | .ret | .loop _ | .endl _ | .round _ | .exit | .trap _
  | .resume | .halt | .eret | .kx _ _ | .aNop _ | .aAdd _ _ _ _ | .aSub _ _ _ _ | .aAnd _ _ _ _ | .aOr _ _ _ _
  | .aXor _ _ _ _ | .aAndn _ _ _ _ | .aShl _ _ _ _ | .aShr _ _ _ _ | .aSar _ _ _ _ | .aMul _ _ _ _
  | .aMulh _ _ _ _ | .aMulhu _ _ _ _ | .aMin _ _ _ _ | .aMax _ _ _ _ | .aMinu _ _ _ _ | .aMaxu _ _ _ _
  | .aSlt _ _ _ _ | .aSltu _ _ _ _ | .aSeq _ _ _ _ | .aAddi _ _ _ _ | .aAndi _ _ _ _ | .aOri _ _ _ _
  | .aXori _ _ _ _ | .aShli _ _ _ _ | .aShri _ _ _ _ | .aSari _ _ _ _ | .aLi _ _ _ | .aLihi _ _ _
  | .aLdB _ _ _ _ _ | .aLdH _ _ _ _ _ | .aLdW _ _ _ _ _ | .aLdD _ _ _ _ _ | .aLdsB _ _ _ _ _ | .aLdsH _ _ _ _ _
  | .aLdsW _ _ _ _ _ | .aLdv _ _ _ _ _ | .aStB _ _ _ _ _ | .aStH _ _ _ _ _ | .aStW _ _ _ _ _ | .aStD _ _ _ _ _
  | .aStv _ _ _ _ _ | .aLdvc _ _ _ _ _ | .aGath _ _ _ _ _ | .aScat _ _ _ _ | .aSto _ _ _ _ _ | .aAadd _ _ _ _ _
  | .aAand _ _ _ _ _ | .aAor _ _ _ _ _ | .aAxor _ _ _ _ _ | .aAmin _ _ _ _ _ | .aAmax _ _ _ _ _
  | .aAminu _ _ _ _ _ | .aAmaxu _ _ _ _ _ | .aAxchg _ _ _ _ _ | .aAcas _ _ _ _ _ | .aAfadd _ _ _ _ _
  | .aAspc _ _ _ | .aAcvt _ _ _ _ | .aCpy _ _ _ | .aDrain _ _ | .aTrick _ _ | .aColl _ _ | .aSwap _ _
  | .aLaunch _ _ _ | .aSfence _ _ _ | .aFlagset _ _ _ | .aFlagadd _ _ _ | .aFlagwait _ _ _ | .aRfence _
  | .aQpush _ _ _ | .aEvpop _ _ | .aEvpeek _ _ | .aWnext _ _ | .aCsrr _ _ _ | .aCsrw _ _ _ | .aTlbi _ _ _ _
  | .aRemap _ _ | .aLqbind _ _ _ _ | .xNop _ | .xXrmode _ _ | .xXflags _ _ _ | .xAdd _ _ _ _ | .xSub _ _ _ _
  | .xAnd _ _ _ _ | .xOr _ _ _ _ | .xXor _ _ _ _ | .xAndn _ _ _ _ | .xShl _ _ _ _ | .xShr _ _ _ _
  | .xSar _ _ _ _ | .xMul _ _ _ _ | .xMulh _ _ _ _ | .xMulhu _ _ _ _ | .xMin _ _ _ _ | .xMax _ _ _ _
  | .xMinu _ _ _ _ | .xMaxu _ _ _ _ | .xSlt _ _ _ _ | .xSltu _ _ _ _ | .xSeq _ _ _ _ | .xAddi _ _ _ _
  | .xAndi _ _ _ _ | .xOri _ _ _ _ | .xXori _ _ _ _ | .xShli _ _ _ _ | .xShri _ _ _ _ | .xSari _ _ _ _
  | .xLi _ _ _ | .xLihi _ _ _ | .xKand _ _ _ _ | .xKor _ _ _ _ | .xKnot _ _ _ | .xKmovs _ _ _ _
  | .xKmovk _ _ _ _ | .xFrcp _ _ _ | .xFrsq _ _ _ | .xFadd _ _ _ _ | .xFsub _ _ _ _ | .xFmul _ _ _ _
  | .xFma _ _ _ _ | .xFmin _ _ _ _ | .xFmax _ _ _ _ | .xFcmp _ _ _ _ | .xFcvt _ _ _ | .xVadd _ _ _ _ _
  | .xVsub _ _ _ _ _ | .xVand _ _ _ _ | .xVor _ _ _ _ | .xVxor _ _ _ _ | .xVandn _ _ _ _ | .xVlop3 _ _ _ _
  | .xKpopc _ _ _ | .xVshl _ _ _ _ _ | .xVshr _ _ _ _ _ | .xVsar _ _ _ _ _ | .xVfun _ _ _ _ | .xVmul24 _ _ _ _
  | .xVmul24u _ _ _ _ | .xVmad24 _ _ _ _ | .xVmul32 _ _ _ _ | .xVmulh _ _ _ _ _ | .xVmin _ _ _ _ _
  | .xVmax _ _ _ _ _ | .xVminu _ _ _ _ _ | .xVmaxu _ _ _ _ _ | .xVabs _ _ _ _ | .xVpopc _ _ _ _
  | .xVclz _ _ _ _ | .xVcmpeq _ _ _ _ _ | .xVcmplt _ _ _ _ _ | .xVcmpltu _ _ _ _ _ | .xVwadd _ _ _ _ _
  | .xVwmul _ _ _ _ _ | .xVnarrow _ _ _ _ | .xVredadd _ _ _ _ | .xVsel _ _ _ _ | .xVperm _ _ _ _ | .xVmov _ _ _
  | .xVrot _ _ _ _ _ | .xVbcast _ _ _ _ | .xVext _ _ _ _ _ | .xVins _ _ _ _ _ | .xVfadd _ _ _ _ _
  | .xVfsub _ _ _ _ _ | .xVfmul _ _ _ _ _ | .xVfma _ _ _ _ _ | .xVfmin _ _ _ _ _ | .xVfmax _ _ _ _ _
  | .xVfcmp _ _ _ _ _ | .xVfcvt _ _ _ | .xVrcp _ _ _ | .xVrsq _ _ _ | .xVrcpstep _ _ _ | .xVrsqstep _ _ _
  | .xVexp2 _ _ _ | .xVlog2 _ _ _ | .xVqscale _ _ _ _ | .xVqpack _ _ _ _ | .xVqunpk _ _ _ _ | .xVfredadd _ _ _
  | .xVfabs _ _ _ | .xVfneg _ _ _ | .mNop _ | .mMset _ _ _ | .mMadd _ _ _ _ | .mMpop _ _ | .mMlc _ _ _
  | .mMhand _ _ | .mMrels _ | .mMshape _ _ _ _ | .mMfmt _ _ | .mMfmtl _ _ | .mMrmode _ _ _ | .mMmul _ _ _ _ _
  | .mMmulk _ _ _ _ _ | .mMdrain _ _ _ | .mMldacc _ _ _ | .mMclr _ _ | .mMfence _ | .mMfeed _ _ _ | .mTempo _
  | .mTcut _ _ | .mTlook _ _ _ _ | .mTstat _ _ _ => true
  | _ => false

end Sys2Proof.Machine
end

