-- ==== Sys2Proof/WellFormed.lean ====
section
/-! DEFINITION. When an instruction's fields are all ones its word may hold: checks OPCODE, FIELD, ALIAS, CSR and ALIGN
of R55. The checks are in Machine/Fields.lean. A step without a word has no such fields and is well formed. -/
namespace Sys2Proof

/-- No check of R55 that looks at the word alone fails. -/
def Instr.wellFormed (i : Instr) : Bool :=
  !Machine.opBad i && (Machine.codeBad i).isEmpty && (Machine.aliasBad i).isEmpty && !Machine.csrBad i &&
  !Machine.alignBad i

end Sys2Proof
end

