-- ==== Sys2Proof/Decode.lean ====
section
/-! DEFINITION. The decoder of R40-R55 and the encoder, from the encoding tables R42 and R51-R54. -/
namespace Sys2Proof

open Machine

/-! ### Fields of a word (R40, R42) -/

def tagOf (w : BitVec 32) : BitVec 2 := w.extractLsb' 30 2
def dep (w : BitVec 32) : BitVec 4 := w.extractLsb' 26 4
def opOf (w : BitVec 32) : BitVec 8 := w.extractLsb' 18 8
def fD (w : BitVec 32) : BitVec 6 := w.extractLsb' 12 6
def fA (w : BitVec 32) : BitVec 6 := w.extractLsb' 6 6
def fB (w : BitVec 32) : BitVec 6 := w.extractLsb' 0 6
def fI12 (w : BitVec 32) : BitVec 12 := w.extractLsb' 0 12
def fBase (w : BitVec 32) : BitVec 5 := w.extractLsb' 7 5
def fP (w : BitVec 32) : BitVec 3 := w.extractLsb' 4 3
def fSu (w : BitVec 32) : BitVec 4 := w.extractLsb' 0 4
def fOff (w : BitVec 32) : BitVec 18 := w.extractLsb' 0 18

/-- A KX prefix: OP 0xF0-0xFF (R48). -/
def isKx (w : BitVec 32) : Bool := w.extractLsb' 22 4 == 15

/-! ### The opcode maps -/

/-- The word of the A (R52) map with OP `op`, its reserved fields not looked at. -/
def decodeA (op : Nat) (w : BitVec 32) : Option Instr :=
  match op with
  | 0x01 => some (.aNop (dep w))
  | 0x10 => some (.aAdd (dep w) (fD w) (fA w) (fB w))
  | 0x11 => some (.aSub (dep w) (fD w) (fA w) (fB w))
  | 0x12 => some (.aAnd (dep w) (fD w) (fA w) (fB w))
  | 0x13 => some (.aOr (dep w) (fD w) (fA w) (fB w))
  | 0x14 => some (.aXor (dep w) (fD w) (fA w) (fB w))
  | 0x15 => some (.aAndn (dep w) (fD w) (fA w) (fB w))
  | 0x16 => some (.aShl (dep w) (fD w) (fA w) (fB w))
  | 0x17 => some (.aShr (dep w) (fD w) (fA w) (fB w))
  | 0x18 => some (.aSar (dep w) (fD w) (fA w) (fB w))
  | 0x19 => some (.aMul (dep w) (fD w) (fA w) (fB w))
  | 0x1A => some (.aMulh (dep w) (fD w) (fA w) (fB w))
  | 0x1B => some (.aMulhu (dep w) (fD w) (fA w) (fB w))
  | 0x1C => some (.aMin (dep w) (fD w) (fA w) (fB w))
  | 0x1D => some (.aMax (dep w) (fD w) (fA w) (fB w))
  | 0x1E => some (.aMinu (dep w) (fD w) (fA w) (fB w))
  | 0x1F => some (.aMaxu (dep w) (fD w) (fA w) (fB w))
  | 0x20 => some (.aSlt (dep w) (fD w) (fA w) (fB w))
  | 0x21 => some (.aSltu (dep w) (fD w) (fA w) (fB w))
  | 0x22 => some (.aSeq (dep w) (fD w) (fA w) (fB w))
  | 0x28 => some (.aAddi (dep w) (fD w) (fA w) (fB w))
  | 0x29 => some (.aAndi (dep w) (fD w) (fA w) (fB w))
  | 0x2A => some (.aOri (dep w) (fD w) (fA w) (fB w))
  | 0x2B => some (.aXori (dep w) (fD w) (fA w) (fB w))
  | 0x2C => some (.aShli (dep w) (fD w) (fA w) (fB w))
  | 0x2D => some (.aShri (dep w) (fD w) (fA w) (fB w))
  | 0x2E => some (.aSari (dep w) (fD w) (fA w) (fB w))
  | 0x2F => some (.aLi (dep w) (fD w) (fI12 w))
  | 0x30 => some (.aLihi (dep w) (fD w) (fI12 w))
  | 0x40 => some (.aLdB (dep w) (fD w) (fBase w) (fP w) (fSu w))
  | 0x41 => some (.aLdH (dep w) (fD w) (fBase w) (fP w) (fSu w))
  | 0x42 => some (.aLdW (dep w) (fD w) (fBase w) (fP w) (fSu w))
  | 0x43 => some (.aLdD (dep w) (fD w) (fBase w) (fP w) (fSu w))
  | 0x44 => some (.aLdsB (dep w) (fD w) (fBase w) (fP w) (fSu w))
  | 0x45 => some (.aLdsH (dep w) (fD w) (fBase w) (fP w) (fSu w))
  | 0x46 => some (.aLdsW (dep w) (fD w) (fBase w) (fP w) (fSu w))
  | 0x47 => some (.aLdv (dep w) (fD w) (fBase w) (fP w) (fSu w))
  | 0x48 => some (.aStB (dep w) (fD w) (fBase w) (fP w) (fSu w))
  | 0x49 => some (.aStH (dep w) (fD w) (fBase w) (fP w) (fSu w))
  | 0x4A => some (.aStW (dep w) (fD w) (fBase w) (fP w) (fSu w))
  | 0x4B => some (.aStD (dep w) (fD w) (fBase w) (fP w) (fSu w))
  | 0x4C => some (.aStv (dep w) (fD w) (fBase w) (fP w) (fSu w))
  | 0x4D => some (.aLdvc (dep w) (fD w) (fBase w) (fP w) (fSu w))
  | 0x4E => some (.aGath (dep w) (fD w) (fBase w) (fP w) (fSu w))
  | 0x4F => some (.aScat (dep w) (fBase w) (fP w) (fSu w))
  | 0x50 => some (.aSto (dep w) (fD w) (fBase w) (fP w) (fSu w))
  | 0x58 => some (.aAadd (dep w) (fD w) (fBase w) (w.extractLsb' 2 5) (w.extractLsb' 1 1))
  | 0x59 => some (.aAand (dep w) (fD w) (fBase w) (w.extractLsb' 2 5) (w.extractLsb' 1 1))
  | 0x5A => some (.aAor (dep w) (fD w) (fBase w) (w.extractLsb' 2 5) (w.extractLsb' 1 1))
  | 0x5B => some (.aAxor (dep w) (fD w) (fBase w) (w.extractLsb' 2 5) (w.extractLsb' 1 1))
  | 0x5C => some (.aAmin (dep w) (fD w) (fBase w) (w.extractLsb' 2 5) (w.extractLsb' 1 1))
  | 0x5D => some (.aAmax (dep w) (fD w) (fBase w) (w.extractLsb' 2 5) (w.extractLsb' 1 1))
  | 0x5E => some (.aAminu (dep w) (fD w) (fBase w) (w.extractLsb' 2 5) (w.extractLsb' 1 1))
  | 0x5F => some (.aAmaxu (dep w) (fD w) (fBase w) (w.extractLsb' 2 5) (w.extractLsb' 1 1))
  | 0x60 => some (.aAxchg (dep w) (fD w) (fBase w) (w.extractLsb' 2 5) (w.extractLsb' 1 1))
  | 0x61 => some (.aAcas (dep w) (fD w) (fBase w) (w.extractLsb' 2 5) (w.extractLsb' 1 1))
  | 0x62 => some (.aAfadd (dep w) (fD w) (fBase w) (w.extractLsb' 2 5) (w.extractLsb' 1 1))
  | 0x68 => some (.aAspc (dep w) (fD w) (fA w))
  | 0x69 => some (.aAcvt (dep w) (fD w) (fA w) (fB w))
  | 0x70 => some (.aCpy (dep w) (w.extractLsb' 15 3) (fBase w))
  | 0x71 => some (.aDrain (dep w) (w.extractLsb' 15 3))
  | 0x72 => some (.aTrick (dep w) (w.extractLsb' 0 13))
  | 0x73 => some (.aColl (dep w) (fBase w))
  | 0x74 => some (.aSwap (dep w) (fBase w))
  | 0x75 => some (.aLaunch (dep w) (fBase w) (fSu w))
  | 0x78 => some (.aSfence (dep w) (w.extractLsb' 16 2) (w.extractLsb' 0 16))
  | 0x79 => some (.aFlagset (dep w) (fD w) (fI12 w))
  | 0x7A => some (.aFlagadd (dep w) (fD w) (fI12 w))
  | 0x7B => some (.aFlagwait (dep w) (fD w) (fI12 w))
  | 0x7C => some (.aRfence (dep w))
  | 0x80 => some (.aQpush (dep w) (fA w) (fB w))
  | 0x81 => some (.aEvpop (dep w) (fD w))
  | 0x82 => some (.aEvpeek (dep w) (fD w))
  | 0x83 => some (.aWnext (dep w) (fD w))
  | 0x90 => some (.aCsrr (dep w) (fD w) (fI12 w))
  | 0x91 => some (.aCsrw (dep w) (fD w) (fI12 w))
  | 0x92 => some (.aTlbi (dep w) (fD w) (fA w) (fB w))
  | 0x93 => some (.aRemap (dep w) (fA w))
  | 0x94 => some (.aLqbind (dep w) (fD w) (fA w) (fB w))
  | _ => none

/-- The word of the X (R53) map with OP `op`, its reserved fields not looked at. -/
def decodeX (op : Nat) (w : BitVec 32) : Option Instr :=
  match op with
  | 0x01 => some (.xNop (dep w))
  | 0x0E => some (.xXrmode (dep w) (w.extractLsb' 0 3))
  | 0x0F => some (.xXflags (dep w) (fD w) (w.extractLsb' 0 1))
  | 0x10 => some (.xAdd (dep w) (fD w) (fA w) (fB w))
  | 0x11 => some (.xSub (dep w) (fD w) (fA w) (fB w))
  | 0x12 => some (.xAnd (dep w) (fD w) (fA w) (fB w))
  | 0x13 => some (.xOr (dep w) (fD w) (fA w) (fB w))
  | 0x14 => some (.xXor (dep w) (fD w) (fA w) (fB w))
  | 0x15 => some (.xAndn (dep w) (fD w) (fA w) (fB w))
  | 0x16 => some (.xShl (dep w) (fD w) (fA w) (fB w))
  | 0x17 => some (.xShr (dep w) (fD w) (fA w) (fB w))
  | 0x18 => some (.xSar (dep w) (fD w) (fA w) (fB w))
  | 0x19 => some (.xMul (dep w) (fD w) (fA w) (fB w))
  | 0x1A => some (.xMulh (dep w) (fD w) (fA w) (fB w))
  | 0x1B => some (.xMulhu (dep w) (fD w) (fA w) (fB w))
  | 0x1C => some (.xMin (dep w) (fD w) (fA w) (fB w))
  | 0x1D => some (.xMax (dep w) (fD w) (fA w) (fB w))
  | 0x1E => some (.xMinu (dep w) (fD w) (fA w) (fB w))
  | 0x1F => some (.xMaxu (dep w) (fD w) (fA w) (fB w))
  | 0x20 => some (.xSlt (dep w) (fD w) (fA w) (fB w))
  | 0x21 => some (.xSltu (dep w) (fD w) (fA w) (fB w))
  | 0x22 => some (.xSeq (dep w) (fD w) (fA w) (fB w))
  | 0x28 => some (.xAddi (dep w) (fD w) (fA w) (fB w))
  | 0x29 => some (.xAndi (dep w) (fD w) (fA w) (fB w))
  | 0x2A => some (.xOri (dep w) (fD w) (fA w) (fB w))
  | 0x2B => some (.xXori (dep w) (fD w) (fA w) (fB w))
  | 0x2C => some (.xShli (dep w) (fD w) (fA w) (fB w))
  | 0x2D => some (.xShri (dep w) (fD w) (fA w) (fB w))
  | 0x2E => some (.xSari (dep w) (fD w) (fA w) (fB w))
  | 0x2F => some (.xLi (dep w) (fD w) (fI12 w))
  | 0x30 => some (.xLihi (dep w) (fD w) (fI12 w))
  | 0x31 => some (.xKand (dep w) (fD w) (fA w) (fB w))
  | 0x32 => some (.xKor (dep w) (fD w) (fA w) (fB w))
  | 0x33 => some (.xKnot (dep w) (fD w) (fA w))
  | 0x34 => some (.xKmovs (dep w) (fD w) (fA w) (fSu w))
  | 0x35 => some (.xKmovk (dep w) (fD w) (fA w) (fSu w))
  | 0x36 => some (.xFrcp (dep w) (fD w) (fA w))
  | 0x37 => some (.xFrsq (dep w) (fD w) (fA w))
  | 0x38 => some (.xFadd (dep w) (fD w) (fA w) (fB w))
  | 0x39 => some (.xFsub (dep w) (fD w) (fA w) (fB w))
  | 0x3A => some (.xFmul (dep w) (fD w) (fA w) (fB w))
  | 0x3B => some (.xFma (dep w) (fD w) (fA w) (fB w))
  | 0x3C => some (.xFmin (dep w) (fD w) (fA w) (fB w))
  | 0x3D => some (.xFmax (dep w) (fD w) (fA w) (fB w))
  | 0x3E => some (.xFcmp (dep w) (fD w) (fA w) (fB w))
  | 0x3F => some (.xFcvt (dep w) (fD w) (fA w))
  | 0x40 => some (.xVadd (dep w) 0 (fD w) (fA w) (fB w))
  | 0x41 => some (.xVadd (dep w) 1 (fD w) (fA w) (fB w))
  | 0x42 => some (.xVadd (dep w) 2 (fD w) (fA w) (fB w))
  | 0x43 => some (.xVadd (dep w) 3 (fD w) (fA w) (fB w))
  | 0x44 => some (.xVsub (dep w) 0 (fD w) (fA w) (fB w))
  | 0x45 => some (.xVsub (dep w) 1 (fD w) (fA w) (fB w))
  | 0x46 => some (.xVsub (dep w) 2 (fD w) (fA w) (fB w))
  | 0x47 => some (.xVsub (dep w) 3 (fD w) (fA w) (fB w))
  | 0x48 => some (.xVand (dep w) (fD w) (fA w) (fB w))
  | 0x49 => some (.xVor (dep w) (fD w) (fA w) (fB w))
  | 0x4A => some (.xVxor (dep w) (fD w) (fA w) (fB w))
  | 0x4B => some (.xVandn (dep w) (fD w) (fA w) (fB w))
  | 0x4C => some (.xVlop3 (dep w) (fD w) (fA w) (fB w))
  | 0x4D => some (.xKpopc (dep w) (fD w) (fA w))
  | 0x50 => some (.xVshl (dep w) 0 (fD w) (fA w) (fB w))
  | 0x51 => some (.xVshl (dep w) 1 (fD w) (fA w) (fB w))
  | 0x52 => some (.xVshl (dep w) 2 (fD w) (fA w) (fB w))
  | 0x53 => some (.xVshl (dep w) 3 (fD w) (fA w) (fB w))
  | 0x54 => some (.xVshr (dep w) 0 (fD w) (fA w) (fB w))
  | 0x55 => some (.xVshr (dep w) 1 (fD w) (fA w) (fB w))
  | 0x56 => some (.xVshr (dep w) 2 (fD w) (fA w) (fB w))
  | 0x57 => some (.xVshr (dep w) 3 (fD w) (fA w) (fB w))
  | 0x58 => some (.xVsar (dep w) 0 (fD w) (fA w) (fB w))
  | 0x59 => some (.xVsar (dep w) 1 (fD w) (fA w) (fB w))
  | 0x5A => some (.xVsar (dep w) 2 (fD w) (fA w) (fB w))
  | 0x5B => some (.xVsar (dep w) 3 (fD w) (fA w) (fB w))
  | 0x5C => some (.xVfun (dep w) (fD w) (fA w) (fB w))
  | 0x60 => some (.xVmul24 (dep w) (fD w) (fA w) (fB w))
  | 0x61 => some (.xVmul24u (dep w) (fD w) (fA w) (fB w))
  | 0x62 => some (.xVmad24 (dep w) (fD w) (fA w) (fB w))
  | 0x63 => some (.xVmul32 (dep w) (fD w) (fA w) (fB w))
  | 0x64 => some (.xVmulh (dep w) 0 (fD w) (fA w) (fB w))
  | 0x65 => some (.xVmulh (dep w) 1 (fD w) (fA w) (fB w))
  | 0x66 => some (.xVmulh (dep w) 2 (fD w) (fA w) (fB w))
  | 0x67 => some (.xVmulh (dep w) 3 (fD w) (fA w) (fB w))
  | 0x68 => some (.xVmin (dep w) 0 (fD w) (fA w) (fB w))
  | 0x69 => some (.xVmin (dep w) 1 (fD w) (fA w) (fB w))
  | 0x6A => some (.xVmin (dep w) 2 (fD w) (fA w) (fB w))
  | 0x6B => some (.xVmin (dep w) 3 (fD w) (fA w) (fB w))
  | 0x6C => some (.xVmax (dep w) 0 (fD w) (fA w) (fB w))
  | 0x6D => some (.xVmax (dep w) 1 (fD w) (fA w) (fB w))
  | 0x6E => some (.xVmax (dep w) 2 (fD w) (fA w) (fB w))
  | 0x6F => some (.xVmax (dep w) 3 (fD w) (fA w) (fB w))
  | 0x70 => some (.xVminu (dep w) 0 (fD w) (fA w) (fB w))
  | 0x71 => some (.xVminu (dep w) 1 (fD w) (fA w) (fB w))
  | 0x72 => some (.xVminu (dep w) 2 (fD w) (fA w) (fB w))
  | 0x73 => some (.xVminu (dep w) 3 (fD w) (fA w) (fB w))
  | 0x74 => some (.xVmaxu (dep w) 0 (fD w) (fA w) (fB w))
  | 0x75 => some (.xVmaxu (dep w) 1 (fD w) (fA w) (fB w))
  | 0x76 => some (.xVmaxu (dep w) 2 (fD w) (fA w) (fB w))
  | 0x77 => some (.xVmaxu (dep w) 3 (fD w) (fA w) (fB w))
  | 0x78 => some (.xVabs (dep w) 0 (fD w) (fA w))
  | 0x79 => some (.xVabs (dep w) 1 (fD w) (fA w))
  | 0x7A => some (.xVabs (dep w) 2 (fD w) (fA w))
  | 0x7B => some (.xVabs (dep w) 3 (fD w) (fA w))
  | 0x7C => some (.xVpopc (dep w) 0 (fD w) (fA w))
  | 0x7D => some (.xVpopc (dep w) 1 (fD w) (fA w))
  | 0x7E => some (.xVpopc (dep w) 2 (fD w) (fA w))
  | 0x7F => some (.xVpopc (dep w) 3 (fD w) (fA w))
  | 0x80 => some (.xVclz (dep w) 0 (fD w) (fA w))
  | 0x81 => some (.xVclz (dep w) 1 (fD w) (fA w))
  | 0x82 => some (.xVclz (dep w) 2 (fD w) (fA w))
  | 0x83 => some (.xVclz (dep w) 3 (fD w) (fA w))
  | 0x84 => some (.xVcmpeq (dep w) 0 (fD w) (fA w) (fB w))
  | 0x85 => some (.xVcmpeq (dep w) 1 (fD w) (fA w) (fB w))
  | 0x86 => some (.xVcmpeq (dep w) 2 (fD w) (fA w) (fB w))
  | 0x87 => some (.xVcmpeq (dep w) 3 (fD w) (fA w) (fB w))
  | 0x88 => some (.xVcmplt (dep w) 0 (fD w) (fA w) (fB w))
  | 0x89 => some (.xVcmplt (dep w) 1 (fD w) (fA w) (fB w))
  | 0x8A => some (.xVcmplt (dep w) 2 (fD w) (fA w) (fB w))
  | 0x8B => some (.xVcmplt (dep w) 3 (fD w) (fA w) (fB w))
  | 0x8C => some (.xVcmpltu (dep w) 0 (fD w) (fA w) (fB w))
  | 0x8D => some (.xVcmpltu (dep w) 1 (fD w) (fA w) (fB w))
  | 0x8E => some (.xVcmpltu (dep w) 2 (fD w) (fA w) (fB w))
  | 0x8F => some (.xVcmpltu (dep w) 3 (fD w) (fA w) (fB w))
  | 0x90 => some (.xVwadd (dep w) 0 (fD w) (fA w) (fB w))
  | 0x91 => some (.xVwadd (dep w) 1 (fD w) (fA w) (fB w))
  | 0x92 => some (.xVwadd (dep w) 2 (fD w) (fA w) (fB w))
  | 0x93 => some (.xVwadd (dep w) 3 (fD w) (fA w) (fB w))
  | 0x94 => some (.xVwmul (dep w) 0 (fD w) (fA w) (fB w))
  | 0x95 => some (.xVwmul (dep w) 1 (fD w) (fA w) (fB w))
  | 0x96 => some (.xVwmul (dep w) 2 (fD w) (fA w) (fB w))
  | 0x97 => some (.xVwmul (dep w) 3 (fD w) (fA w) (fB w))
  | 0x98 => some (.xVnarrow (dep w) 0 (fD w) (fA w))
  | 0x99 => some (.xVnarrow (dep w) 1 (fD w) (fA w))
  | 0x9A => some (.xVnarrow (dep w) 2 (fD w) (fA w))
  | 0x9B => some (.xVnarrow (dep w) 3 (fD w) (fA w))
  | 0x9C => some (.xVredadd (dep w) 0 (fD w) (fA w))
  | 0x9D => some (.xVredadd (dep w) 1 (fD w) (fA w))
  | 0x9E => some (.xVredadd (dep w) 2 (fD w) (fA w))
  | 0x9F => some (.xVredadd (dep w) 3 (fD w) (fA w))
  | 0xA0 => some (.xVsel (dep w) (fD w) (fA w) (fB w))
  | 0xA1 => some (.xVperm (dep w) (fD w) (fA w) (fB w))
  | 0xA2 => some (.xVmov (dep w) (fD w) (fA w))
  | 0xA4 => some (.xVrot (dep w) 0 (fD w) (fA w) (fB w))
  | 0xA5 => some (.xVrot (dep w) 1 (fD w) (fA w) (fB w))
  | 0xA6 => some (.xVrot (dep w) 2 (fD w) (fA w) (fB w))
  | 0xA7 => some (.xVrot (dep w) 3 (fD w) (fA w) (fB w))
  | 0xA8 => some (.xVbcast (dep w) 0 (fD w) (fA w))
  | 0xA9 => some (.xVbcast (dep w) 1 (fD w) (fA w))
  | 0xAA => some (.xVbcast (dep w) 2 (fD w) (fA w))
  | 0xAB => some (.xVbcast (dep w) 3 (fD w) (fA w))
  | 0xAC => some (.xVext (dep w) 0 (fD w) (fA w) (fB w))
  | 0xAD => some (.xVext (dep w) 1 (fD w) (fA w) (fB w))
  | 0xAE => some (.xVext (dep w) 2 (fD w) (fA w) (fB w))
  | 0xAF => some (.xVext (dep w) 3 (fD w) (fA w) (fB w))
  | 0xB0 => some (.xVins (dep w) 0 (fD w) (fA w) (fB w))
  | 0xB1 => some (.xVins (dep w) 1 (fD w) (fA w) (fB w))
  | 0xB2 => some (.xVins (dep w) 2 (fD w) (fA w) (fB w))
  | 0xB3 => some (.xVins (dep w) 3 (fD w) (fA w) (fB w))
  | 0xC0 => some (.xVfadd (dep w) 0 (fD w) (fA w) (fB w))
  | 0xC1 => some (.xVfadd (dep w) 1 (fD w) (fA w) (fB w))
  | 0xC2 => some (.xVfadd (dep w) 2 (fD w) (fA w) (fB w))
  | 0xC3 => some (.xVfadd (dep w) 3 (fD w) (fA w) (fB w))
  | 0xC4 => some (.xVfsub (dep w) 0 (fD w) (fA w) (fB w))
  | 0xC5 => some (.xVfsub (dep w) 1 (fD w) (fA w) (fB w))
  | 0xC6 => some (.xVfsub (dep w) 2 (fD w) (fA w) (fB w))
  | 0xC7 => some (.xVfsub (dep w) 3 (fD w) (fA w) (fB w))
  | 0xC8 => some (.xVfmul (dep w) 0 (fD w) (fA w) (fB w))
  | 0xC9 => some (.xVfmul (dep w) 1 (fD w) (fA w) (fB w))
  | 0xCA => some (.xVfmul (dep w) 2 (fD w) (fA w) (fB w))
  | 0xCB => some (.xVfmul (dep w) 3 (fD w) (fA w) (fB w))
  | 0xCC => some (.xVfma (dep w) 0 (fD w) (fA w) (fB w))
  | 0xCD => some (.xVfma (dep w) 1 (fD w) (fA w) (fB w))
  | 0xCE => some (.xVfma (dep w) 2 (fD w) (fA w) (fB w))
  | 0xCF => some (.xVfma (dep w) 3 (fD w) (fA w) (fB w))
  | 0xD0 => some (.xVfmin (dep w) 0 (fD w) (fA w) (fB w))
  | 0xD1 => some (.xVfmin (dep w) 1 (fD w) (fA w) (fB w))
  | 0xD2 => some (.xVfmin (dep w) 2 (fD w) (fA w) (fB w))
  | 0xD3 => some (.xVfmin (dep w) 3 (fD w) (fA w) (fB w))
  | 0xD4 => some (.xVfmax (dep w) 0 (fD w) (fA w) (fB w))
  | 0xD5 => some (.xVfmax (dep w) 1 (fD w) (fA w) (fB w))
  | 0xD6 => some (.xVfmax (dep w) 2 (fD w) (fA w) (fB w))
  | 0xD7 => some (.xVfmax (dep w) 3 (fD w) (fA w) (fB w))
  | 0xD8 => some (.xVfcmp (dep w) 0 (fD w) (fA w) (fB w))
  | 0xD9 => some (.xVfcmp (dep w) 1 (fD w) (fA w) (fB w))
  | 0xDA => some (.xVfcmp (dep w) 2 (fD w) (fA w) (fB w))
  | 0xDB => some (.xVfcmp (dep w) 3 (fD w) (fA w) (fB w))
  | 0xDC => some (.xVfcvt (dep w) (fD w) (fA w))
  | 0xE0 => some (.xVrcp (dep w) (fD w) (fA w))
  | 0xE1 => some (.xVrsq (dep w) (fD w) (fA w))
  | 0xE2 => some (.xVrcpstep (dep w) (fD w) (fA w))
  | 0xE3 => some (.xVrsqstep (dep w) (fD w) (fA w))
  | 0xE4 => some (.xVexp2 (dep w) (fD w) (fA w))
  | 0xE5 => some (.xVlog2 (dep w) (fD w) (fA w))
  | 0xE6 => some (.xVqscale (dep w) (fD w) (fA w) (fB w))
  | 0xE7 => some (.xVqpack (dep w) (fD w) (fA w) (fB w))
  | 0xE8 => some (.xVqunpk (dep w) (fD w) (fA w) (fB w))
  | 0xE9 => some (.xVfredadd (dep w) (fD w) (fA w))
  | 0xEA => some (.xVfabs (dep w) (fD w) (fA w))
  | 0xEB => some (.xVfneg (dep w) (fD w) (fA w))
  | _ => none

/-- The word of the M (R54) map with OP `op`, its reserved fields not looked at. -/
def decodeM (op : Nat) (w : BitVec 32) : Option Instr :=
  match op with
  | 0x01 => some (.mNop (dep w))
  | 0x10 => some (.mMset (dep w) (fD w) (fI12 w))
  | 0x11 => some (.mMadd (dep w) (fD w) (fA w) (fB w))
  | 0x12 => some (.mMpop (dep w) (fD w))
  | 0x13 => some (.mMlc (dep w) (fD w) (fSu w))
  | 0x20 => some (.mMhand (dep w) (fSu w))
  | 0x21 => some (.mMrels (dep w))
  | 0x22 => some (.mMshape (dep w) (fD w) (fA w) (fB w))
  | 0x23 => some (.mMfmt (dep w) (w.extractLsb' 0 8))
  | 0x24 => some (.mMfmtl (dep w) (w.extractLsb' 14 4))
  | 0x25 => some (.mMrmode (dep w) (w.extractLsb' 15 3) (fA w))
  | 0x30 => some (.mMmul (dep w) (w.extractLsb' 15 3) (w.extractLsb' 8 7) (w.extractLsb' 1 7) (w.extractLsb' 0 1))
  | 0x31 => some (.mMmulk (dep w) (w.extractLsb' 15 3) (w.extractLsb' 8 7) (w.extractLsb' 1 7) (w.extractLsb' 0 1))
  | 0x32 => some (.mMdrain (dep w) (w.extractLsb' 15 3) (w.extractLsb' 8 7))
  | 0x33 => some (.mMldacc (dep w) (w.extractLsb' 15 3) (w.extractLsb' 8 7))
  | 0x34 => some (.mMclr (dep w) (w.extractLsb' 15 3))
  | 0x35 => some (.mMfence (dep w))
  | 0x36 => some (.mMfeed (dep w) (w.extractLsb' 8 7) (w.extractLsb' 1 7))
  | 0x40 => some (.mTempo (dep w))
  | 0x41 => some (.mTcut (dep w) (w.extractLsb' 0 1))
  | 0x42 => some (.mTlook (dep w) (fD w) (fA w) (fB w))
  | 0x43 => some (.mTstat (dep w) (fD w) (fSu w))
  | _ => none

/-- The word of the shared (R51) map with OP `op`, its reserved fields not looked at. -/
def decodeShared (op : Nat) (w : BitVec 32) : Option Instr :=
  match op with
  | 0x01 => some (.nop)
  | 0x02 => some (.b (fOff w))
  | 0x03 => some (.bc (w.extractLsb' 16 2) (w.extractLsb' 13 3) (w.extractLsb' 7 6) (w.extractLsb' 0 7))
  | 0x04 => some (.bi (w.extractLsb' 16 2) (w.extractLsb' 7 6))
  | 0x05 => some (.call (fOff w))
  | 0x06 => some (.ret)
  | 0x07 => some (.loop (w.extractLsb' 14 4))
  | 0x08 => some (.endl (w.extractLsb' 14 4))
  | 0x09 => some (.round (w.extractLsb' 16 2))
  | 0x0A => some (.exit)
  | 0x0B => some (.trap (w.extractLsb' 0 16))
  | 0x0C => some (.resume)
  | 0x10 => some (.halt)
  | 0x11 => some (.eret)
  | _ => none

/-- The instruction that a word's tag and OP name (R51-R54); none for a reserved OP. -/
def decodeOp (w : BitVec 32) : Option Instr :=
  if isKx w then some (.kx (tagOf w) (w.extractLsb' 0 22))
  else
    let op := (opOf w).toNat
    let r := if tagOf w == 0 then decodeA op w else if tagOf w == 1 then decodeX op w
      else if tagOf w == 2 then decodeM op w else decodeShared op w
    match r with
    | some i => if opBad i then none else some i
    | none => none

/-! ### The checks of R55 -/

/-- The checks of R55 that fail at decode, by name, with FAULT.INFO.FBIT where one field is at fault. -/
inductive Reject where
  | opcode
  | kxPlace
  | kxMissing
  | dep
  | field (bit : Nat)
  | operand (bit : Nat)
  | csr
  | align
  deriving DecidableEq, Repr

/-- FAULT.INFO.SUB of a rejection (R55). -/
def Reject.sub : Reject → BitVec 8
  | .opcode => 0x01
  | .field _ => 0x02
  | .operand _ => 0x03
  | .kxPlace => 0x04
  | .kxMissing => 0x05
  | .dep => 0x07
  | .align => 0x08
  | .csr => 0x0C

/-- FAULT.INFO.FBIT of a rejection: 0xFF where no single field is at fault (R55). -/
def Reject.fbit : Reject → BitVec 8
  | .opcode => 18
  | .field b => BitVec.ofNat 8 b
  | .operand b => BitVec.ofNat 8 b
  | .kxPlace => 0xFF
  | .kxMissing => 0xFF
  | .dep => 26
  | .align => 12
  | .csr => 0

/-- The highest offending field of check FIELD: reserved fields that are not zero, and reserved codes. -/
def fieldBad (i : Instr) (w : BitVec 32) : Option Nat :=
  let zs := (reservedFields i).filterMap fun f => if fld w.toNat f.1 f.2 = 0 then none else some f.1
  (zs ++ codeBad i).foldl (fun m b => some (max b (m.getD 0))) none

/-- Checks DEP to ALIGN of R55, in their order. -/
def checkFields (i : Instr) (w : BitVec 32) (dep : Bool) : Except Reject Instr :=
  if dep then .error .dep
  else match fieldBad i w with
    | some b => .error (.field b)
    | none => match aliasBad i with
      | b :: _ => .error (.operand b)
      | [] => if csrBad i then .error .csr else if alignBad i then .error .align else .ok i

/-- D of a shared word, and of a KX, must be zero (R48, R51). -/
def depBad (w : BitVec 32) : Bool := (tagOf w == 3 || isKx w) && dep w != 0

/-- Decode one word for itself: a rejection by name, or the instruction it holds. What R55 checks of the word's KX
(KX_PLACE, KX_MISSING, KX_PAYLOAD) and of the privilege is checked where the word acts (Machine/Ops.lean). -/
def decode (w : BitVec 32) : Except Reject Instr :=
  match decodeOp w with
  | none => .error .opcode
  | some i => checkFields i w (depBad w)

/-- CheckWord of R55 for a word that its own decode rejects, with the KX before it in view: the first check that fails. -/
def rejectWith (w : BitVec 32) (kx : Bool) (kxDep : Bool) : Option Reject :=
  if kx && isKx w then some .kxPlace
  else match decodeOp w with
    | none => some .opcode
    | some i =>
      if kx && kxUse i == .none then some .kxPlace
      else if !kx && (kxUse i).mandatory then some .kxMissing
      else match checkFields i w (depBad w || kxDep) with
        | .error r => some r
        | .ok _ => none

/-- The host's question (bit 0 is the least significant bit of the word): what the decoder reads from these bits. -/
def decodeTableWord (nbits w : Nat) : Option Instr :=
  if nbits ≤ 32 then
    match decode (BitVec.ofNat 32 w) with
    | .ok i => some i
    | .error _ => none
  else none

/-! ### The encoder -/

/-- A word from its tag, dependency field, OP and payload (R40). -/
def mk (e : BitVec 2) (t : BitVec 4) (op : BitVec 8) (p : BitVec 18) : BitVec 32 := e ++ t ++ op ++ p

/-- OP of a width-coded row (R53). -/
def opW (base : BitVec 6) (w : BitVec 2) : BitVec 8 := base ++ w

/-- Payload of format RRR (R42). -/
def rrr (d a b : BitVec 6) : BitVec 18 := d ++ a ++ b
/-- Payload of format RI. -/
def ri (d : BitVec 6) (i : BitVec 12) : BitVec 18 := d ++ i
/-- Payload of format MEM. -/
def mem (d : BitVec 6) (b : BitVec 5) (p : BitVec 3) (s : BitVec 4) : BitVec 18 := d ++ b ++ p ++ s
/-- Payload of format AT. -/
def atw (d : BitVec 6) (b o : BitVec 5) (w : BitVec 1) : BitVec 18 := d ++ b ++ o ++ w ++ (0 : BitVec 1)

/-- The word of an instruction, reserved fields zero; none for a step that no word stands for (R40, R42, R51-R54). -/
def encode : Instr → Option (BitVec 32)
  | .nop => some (mk 3 0 0x01 (0))
  | .b f => some (mk 3 0 0x02 (f))
  | .bc g c r f => some (mk 3 0 0x03 (g ++ c ++ r ++ f))
  | .bi g r => some (mk 3 0 0x04 (g ++ (0 : BitVec 3) ++ r ++ (0 : BitVec 7)))
  | .call f => some (mk 3 0 0x05 (f))
  | .ret => some (mk 3 0 0x06 (0))
  | .loop l => some (mk 3 0 0x07 (l ++ (0 : BitVec 14)))
  | .endl l => some (mk 3 0 0x08 (l ++ (0 : BitVec 14)))
  | .round s => some (mk 3 0 0x09 (s ++ (0 : BitVec 16)))
  | .exit => some (mk 3 0 0x0A (0))
  | .trap c => some (mk 3 0 0x0B ((0 : BitVec 2) ++ c))
  | .resume => some (mk 3 0 0x0C (0))
  | .halt => some (mk 3 0 0x10 (0))
  | .eret => some (mk 3 0 0x11 (0))
  | .kx e p => some (e ++ (0 : BitVec 4) ++ (15 : BitVec 4) ++ p)
  | .aNop t => some (mk 0 t 0x01 (0))
  | .aAdd t d a b => some (mk 0 t 0x10 (rrr d a b))
  | .aSub t d a b => some (mk 0 t 0x11 (rrr d a b))
  | .aAnd t d a b => some (mk 0 t 0x12 (rrr d a b))
  | .aOr t d a b => some (mk 0 t 0x13 (rrr d a b))
  | .aXor t d a b => some (mk 0 t 0x14 (rrr d a b))
  | .aAndn t d a b => some (mk 0 t 0x15 (rrr d a b))
  | .aShl t d a b => some (mk 0 t 0x16 (rrr d a b))
  | .aShr t d a b => some (mk 0 t 0x17 (rrr d a b))
  | .aSar t d a b => some (mk 0 t 0x18 (rrr d a b))
  | .aMul t d a b => some (mk 0 t 0x19 (rrr d a b))
  | .aMulh t d a b => some (mk 0 t 0x1A (rrr d a b))
  | .aMulhu t d a b => some (mk 0 t 0x1B (rrr d a b))
  | .aMin t d a b => some (mk 0 t 0x1C (rrr d a b))
  | .aMax t d a b => some (mk 0 t 0x1D (rrr d a b))
  | .aMinu t d a b => some (mk 0 t 0x1E (rrr d a b))
  | .aMaxu t d a b => some (mk 0 t 0x1F (rrr d a b))
  | .aSlt t d a b => some (mk 0 t 0x20 (rrr d a b))
  | .aSltu t d a b => some (mk 0 t 0x21 (rrr d a b))
  | .aSeq t d a b => some (mk 0 t 0x22 (rrr d a b))
  | .aAddi t d a i => some (mk 0 t 0x28 (rrr d a i))
  | .aAndi t d a i => some (mk 0 t 0x29 (rrr d a i))
  | .aOri t d a i => some (mk 0 t 0x2A (rrr d a i))
  | .aXori t d a i => some (mk 0 t 0x2B (rrr d a i))
  | .aShli t d a i => some (mk 0 t 0x2C (rrr d a i))
  | .aShri t d a i => some (mk 0 t 0x2D (rrr d a i))
  | .aSari t d a i => some (mk 0 t 0x2E (rrr d a i))
  | .aLi t d i => some (mk 0 t 0x2F (ri d i))
  | .aLihi t d i => some (mk 0 t 0x30 (ri d i))
  | .aLdB t d b p s => some (mk 0 t 0x40 (mem d b p s))
  | .aLdH t d b p s => some (mk 0 t 0x41 (mem d b p s))
  | .aLdW t d b p s => some (mk 0 t 0x42 (mem d b p s))
  | .aLdD t d b p s => some (mk 0 t 0x43 (mem d b p s))
  | .aLdsB t d b p s => some (mk 0 t 0x44 (mem d b p s))
  | .aLdsH t d b p s => some (mk 0 t 0x45 (mem d b p s))
  | .aLdsW t d b p s => some (mk 0 t 0x46 (mem d b p s))
  | .aLdv t d b p s => some (mk 0 t 0x47 (mem d b p s))
  | .aStB t d b p s => some (mk 0 t 0x48 (mem d b p s))
  | .aStH t d b p s => some (mk 0 t 0x49 (mem d b p s))
  | .aStW t d b p s => some (mk 0 t 0x4A (mem d b p s))
  | .aStD t d b p s => some (mk 0 t 0x4B (mem d b p s))
  | .aStv t d b p s => some (mk 0 t 0x4C (mem d b p s))
  | .aLdvc t d b x s => some (mk 0 t 0x4D (mem d b x s))
  | .aGath t d b p s => some (mk 0 t 0x4E (mem d b p s))
  | .aScat t b p s => some (mk 0 t 0x4F ((0 : BitVec 6) ++ b ++ p ++ s))
  | .aSto t d b p s => some (mk 0 t 0x50 (mem d b p s))
  | .aAadd t d b o w => some (mk 0 t 0x58 (atw d b o w))
  | .aAand t d b o w => some (mk 0 t 0x59 (atw d b o w))
  | .aAor t d b o w => some (mk 0 t 0x5A (atw d b o w))
  | .aAxor t d b o w => some (mk 0 t 0x5B (atw d b o w))
  | .aAmin t d b o w => some (mk 0 t 0x5C (atw d b o w))
  | .aAmax t d b o w => some (mk 0 t 0x5D (atw d b o w))
  | .aAminu t d b o w => some (mk 0 t 0x5E (atw d b o w))
  | .aAmaxu t d b o w => some (mk 0 t 0x5F (atw d b o w))
  | .aAxchg t d b o w => some (mk 0 t 0x60 (atw d b o w))
  | .aAcas t d b o w => some (mk 0 t 0x61 (atw d b o w))
  | .aAfadd t d b o w => some (mk 0 t 0x62 (atw d b o w))
  | .aAspc t d a => some (mk 0 t 0x68 (rrr d a 0))
  | .aAcvt t d a i => some (mk 0 t 0x69 (rrr d a i))
  | .aCpy t c r => some (mk 0 t 0x70 (c ++ (0 : BitVec 3) ++ r ++ (0 : BitVec 7)))
  | .aDrain t c => some (mk 0 t 0x71 (c ++ (0 : BitVec 15)))
  | .aTrick t m => some (mk 0 t 0x72 ((0 : BitVec 5) ++ m))
  | .aColl t r => some (mk 0 t 0x73 ((0 : BitVec 6) ++ r ++ (0 : BitVec 7)))
  | .aSwap t r => some (mk 0 t 0x74 ((0 : BitVec 6) ++ r ++ (0 : BitVec 7)))
  | .aLaunch t r q => some (mk 0 t 0x75 ((0 : BitVec 6) ++ r ++ (0 : BitVec 3) ++ q))
  | .aSfence t s m => some (mk 0 t 0x78 (s ++ m))
  | .aFlagset t f i => some (mk 0 t 0x79 (ri f i))
  | .aFlagadd t f i => some (mk 0 t 0x7A (ri f i))
  | .aFlagwait t f i => some (mk 0 t 0x7B (ri f i))
  | .aRfence t => some (mk 0 t 0x7C (0))
  | .aQpush t a b => some (mk 0 t 0x80 ((0 : BitVec 6) ++ a ++ b))
  | .aEvpop t d => some (mk 0 t 0x81 (d ++ (0 : BitVec 12)))
  | .aEvpeek t d => some (mk 0 t 0x82 (d ++ (0 : BitVec 12)))
  | .aWnext t d => some (mk 0 t 0x83 (d ++ (0 : BitVec 12)))
  | .aCsrr t d c => some (mk 0 t 0x90 (ri d c))
  | .aCsrw t d c => some (mk 0 t 0x91 (ri d c))
  | .aTlbi t k a b => some (mk 0 t 0x92 (rrr k a b))
  | .aRemap t a => some (mk 0 t 0x93 ((0 : BitVec 6) ++ a ++ (0 : BitVec 6)))
  | .aLqbind t k a b => some (mk 0 t 0x94 (rrr k a b))
  | .xNop t => some (mk 1 t 0x01 (0))
  | .xXrmode t m => some (mk 1 t 0x0E ((0 : BitVec 15) ++ m))
  | .xXflags t d c => some (mk 1 t 0x0F (d ++ (0 : BitVec 11) ++ c))
  | .xAdd t d a b => some (mk 1 t 0x10 (rrr d a b))
  | .xSub t d a b => some (mk 1 t 0x11 (rrr d a b))
  | .xAnd t d a b => some (mk 1 t 0x12 (rrr d a b))
  | .xOr t d a b => some (mk 1 t 0x13 (rrr d a b))
  | .xXor t d a b => some (mk 1 t 0x14 (rrr d a b))
  | .xAndn t d a b => some (mk 1 t 0x15 (rrr d a b))
  | .xShl t d a b => some (mk 1 t 0x16 (rrr d a b))
  | .xShr t d a b => some (mk 1 t 0x17 (rrr d a b))
  | .xSar t d a b => some (mk 1 t 0x18 (rrr d a b))
  | .xMul t d a b => some (mk 1 t 0x19 (rrr d a b))
  | .xMulh t d a b => some (mk 1 t 0x1A (rrr d a b))
  | .xMulhu t d a b => some (mk 1 t 0x1B (rrr d a b))
  | .xMin t d a b => some (mk 1 t 0x1C (rrr d a b))
  | .xMax t d a b => some (mk 1 t 0x1D (rrr d a b))
  | .xMinu t d a b => some (mk 1 t 0x1E (rrr d a b))
  | .xMaxu t d a b => some (mk 1 t 0x1F (rrr d a b))
  | .xSlt t d a b => some (mk 1 t 0x20 (rrr d a b))
  | .xSltu t d a b => some (mk 1 t 0x21 (rrr d a b))
  | .xSeq t d a b => some (mk 1 t 0x22 (rrr d a b))
  | .xAddi t d a i => some (mk 1 t 0x28 (rrr d a i))
  | .xAndi t d a i => some (mk 1 t 0x29 (rrr d a i))
  | .xOri t d a i => some (mk 1 t 0x2A (rrr d a i))
  | .xXori t d a i => some (mk 1 t 0x2B (rrr d a i))
  | .xShli t d a i => some (mk 1 t 0x2C (rrr d a i))
  | .xShri t d a i => some (mk 1 t 0x2D (rrr d a i))
  | .xSari t d a i => some (mk 1 t 0x2E (rrr d a i))
  | .xLi t d i => some (mk 1 t 0x2F (ri d i))
  | .xLihi t d i => some (mk 1 t 0x30 (ri d i))
  | .xKand t d a b => some (mk 1 t 0x31 (rrr d a b))
  | .xKor t d a b => some (mk 1 t 0x32 (rrr d a b))
  | .xKnot t d a => some (mk 1 t 0x33 (rrr d a 0))
  | .xKmovs t d a c => some (mk 1 t 0x34 (d ++ a ++ (0 : BitVec 2) ++ c))
  | .xKmovk t d a c => some (mk 1 t 0x35 (d ++ a ++ (0 : BitVec 2) ++ c))
  | .xFrcp t d a => some (mk 1 t 0x36 (rrr d a 0))
  | .xFrsq t d a => some (mk 1 t 0x37 (rrr d a 0))
  | .xFadd t d a b => some (mk 1 t 0x38 (rrr d a b))
  | .xFsub t d a b => some (mk 1 t 0x39 (rrr d a b))
  | .xFmul t d a b => some (mk 1 t 0x3A (rrr d a b))
  | .xFma t d a b => some (mk 1 t 0x3B (rrr d a b))
  | .xFmin t d a b => some (mk 1 t 0x3C (rrr d a b))
  | .xFmax t d a b => some (mk 1 t 0x3D (rrr d a b))
  | .xFcmp t d a b => some (mk 1 t 0x3E (rrr d a b))
  | .xFcvt t d a => some (mk 1 t 0x3F (rrr d a 0))
  | .xVadd t w d a b => some (mk 1 t (opW 0x10 w) (rrr d a b))
  | .xVsub t w d a b => some (mk 1 t (opW 0x11 w) (rrr d a b))
  | .xVand t d a b => some (mk 1 t 0x48 (rrr d a b))
  | .xVor t d a b => some (mk 1 t 0x49 (rrr d a b))
  | .xVxor t d a b => some (mk 1 t 0x4A (rrr d a b))
  | .xVandn t d a b => some (mk 1 t 0x4B (rrr d a b))
  | .xVlop3 t d a b => some (mk 1 t 0x4C (rrr d a b))
  | .xKpopc t d a => some (mk 1 t 0x4D (rrr d a 0))
  | .xVshl t w d a b => some (mk 1 t (opW 0x14 w) (rrr d a b))
  | .xVshr t w d a b => some (mk 1 t (opW 0x15 w) (rrr d a b))
  | .xVsar t w d a b => some (mk 1 t (opW 0x16 w) (rrr d a b))
  | .xVfun t d a b => some (mk 1 t 0x5C (rrr d a b))
  | .xVmul24 t d a b => some (mk 1 t 0x60 (rrr d a b))
  | .xVmul24u t d a b => some (mk 1 t 0x61 (rrr d a b))
  | .xVmad24 t d a b => some (mk 1 t 0x62 (rrr d a b))
  | .xVmul32 t d a b => some (mk 1 t 0x63 (rrr d a b))
  | .xVmulh t w d a b => some (mk 1 t (opW 0x19 w) (rrr d a b))
  | .xVmin t w d a b => some (mk 1 t (opW 0x1A w) (rrr d a b))
  | .xVmax t w d a b => some (mk 1 t (opW 0x1B w) (rrr d a b))
  | .xVminu t w d a b => some (mk 1 t (opW 0x1C w) (rrr d a b))
  | .xVmaxu t w d a b => some (mk 1 t (opW 0x1D w) (rrr d a b))
  | .xVabs t w d a => some (mk 1 t (opW 0x1E w) (rrr d a 0))
  | .xVpopc t w d a => some (mk 1 t (opW 0x1F w) (rrr d a 0))
  | .xVclz t w d a => some (mk 1 t (opW 0x20 w) (rrr d a 0))
  | .xVcmpeq t w d a b => some (mk 1 t (opW 0x21 w) (rrr d a b))
  | .xVcmplt t w d a b => some (mk 1 t (opW 0x22 w) (rrr d a b))
  | .xVcmpltu t w d a b => some (mk 1 t (opW 0x23 w) (rrr d a b))
  | .xVwadd t w d a b => some (mk 1 t (opW 0x24 w) (rrr d a b))
  | .xVwmul t w d a b => some (mk 1 t (opW 0x25 w) (rrr d a b))
  | .xVnarrow t w d a => some (mk 1 t (opW 0x26 w) (rrr d a 0))
  | .xVredadd t w d a => some (mk 1 t (opW 0x27 w) (rrr d a 0))
  | .xVsel t d a b => some (mk 1 t 0xA0 (rrr d a b))
  | .xVperm t d a b => some (mk 1 t 0xA1 (rrr d a b))
  | .xVmov t d a => some (mk 1 t 0xA2 (rrr d a 0))
  | .xVrot t w d a b => some (mk 1 t (opW 0x29 w) (rrr d a b))
  | .xVbcast t w d a => some (mk 1 t (opW 0x2A w) (rrr d a 0))
  | .xVext t w d a b => some (mk 1 t (opW 0x2B w) (rrr d a b))
  | .xVins t w d a b => some (mk 1 t (opW 0x2C w) (rrr d a b))
  | .xVfadd t f d a b => some (mk 1 t (opW 0x30 f) (rrr d a b))
  | .xVfsub t f d a b => some (mk 1 t (opW 0x31 f) (rrr d a b))
  | .xVfmul t f d a b => some (mk 1 t (opW 0x32 f) (rrr d a b))
  | .xVfma t f d a b => some (mk 1 t (opW 0x33 f) (rrr d a b))
  | .xVfmin t f d a b => some (mk 1 t (opW 0x34 f) (rrr d a b))
  | .xVfmax t f d a b => some (mk 1 t (opW 0x35 f) (rrr d a b))
  | .xVfcmp t f d a b => some (mk 1 t (opW 0x36 f) (rrr d a b))
  | .xVfcvt t d a => some (mk 1 t 0xDC (rrr d a 0))
  | .xVrcp t d a => some (mk 1 t 0xE0 (rrr d a 0))
  | .xVrsq t d a => some (mk 1 t 0xE1 (rrr d a 0))
  | .xVrcpstep t d a => some (mk 1 t 0xE2 (rrr d a 0))
  | .xVrsqstep t d a => some (mk 1 t 0xE3 (rrr d a 0))
  | .xVexp2 t d a => some (mk 1 t 0xE4 (rrr d a 0))
  | .xVlog2 t d a => some (mk 1 t 0xE5 (rrr d a 0))
  | .xVqscale t d a b => some (mk 1 t 0xE6 (rrr d a b))
  | .xVqpack t d a b => some (mk 1 t 0xE7 (rrr d a b))
  | .xVqunpk t d a b => some (mk 1 t 0xE8 (rrr d a b))
  | .xVfredadd t d a => some (mk 1 t 0xE9 (rrr d a 0))
  | .xVfabs t d a => some (mk 1 t 0xEA (rrr d a 0))
  | .xVfneg t d a => some (mk 1 t 0xEB (rrr d a 0))
  | .mNop t => some (mk 2 t 0x01 (0))
  | .mMset t d i => some (mk 2 t 0x10 (ri d i))
  | .mMadd t d a b => some (mk 2 t 0x11 (rrr d a b))
  | .mMpop t d => some (mk 2 t 0x12 (d ++ (0 : BitVec 12)))
  | .mMlc t d l => some (mk 2 t 0x13 (d ++ (0 : BitVec 8) ++ l))
  | .mMhand t n => some (mk 2 t 0x20 ((0 : BitVec 14) ++ n))
  | .mMrels t => some (mk 2 t 0x21 (0))
  | .mMshape t d a b => some (mk 2 t 0x22 (rrr d a b))
  | .mMfmt t s => some (mk 2 t 0x23 ((0 : BitVec 10) ++ s))
  | .mMfmtl t l => some (mk 2 t 0x24 (l ++ (0 : BitVec 14)))
  | .mMrmode t m s => some (mk 2 t 0x25 (m ++ (0 : BitVec 3) ++ s ++ (0 : BitVec 6)))
  | .mMmul t c a b f => some (mk 2 t 0x30 (c ++ a ++ b ++ f))
  | .mMmulk t c a b f => some (mk 2 t 0x31 (c ++ a ++ b ++ f))
  | .mMdrain t c a => some (mk 2 t 0x32 (c ++ a ++ (0 : BitVec 8)))
  | .mMldacc t c a => some (mk 2 t 0x33 (c ++ a ++ (0 : BitVec 8)))
  | .mMclr t c => some (mk 2 t 0x34 (c ++ (0 : BitVec 15)))
  | .mMfence t => some (mk 2 t 0x35 (0))
  | .mMfeed t a b => some (mk 2 t 0x36 ((0 : BitVec 3) ++ a ++ b ++ (0 : BitVec 1)))
  | .mTempo t => some (mk 2 t 0x40 (0))
  | .mTcut t a => some (mk 2 t 0x41 ((0 : BitVec 17) ++ a))
  | .mTlook t d a b => some (mk 2 t 0x42 (rrr d a b))
  | .mTstat t d s => some (mk 2 t 0x43 (d ++ (0 : BitVec 8) ++ s))
  | _ => none

end Sys2Proof
end

