-- ==== Sys2Proof/Config.lean ====
section
/-! DEFINITION. What an implementation fixes and the values the spec leaves open. A free value is an opaque constant
applied to the counter that the step advances (State.free, log 11): nothing can be proved of its value. -/
namespace Sys2Proof.Config

/-- A byte whose value the spec leaves open (log 11). -/
opaque freeByte : Nat → Byte

/-- SHA-384, and whether an RSASSA-PSS and an SLH-DSA signature over a digest verify under a public key (R390, R391): standard
functions that the spec names and does not lay down, so that nothing is claimed of their values (log 37). -/
opaque sha384 : List Byte → BitVec 384
opaque rsaOk : List Byte → List Byte → BitVec 384 → Bool
opaque slhOk : List Byte → List Byte → BitVec 384 → Bool

/-- The number of cores of a CB-DX4-2C (R2). -/
def cores : Nat := 1024
/-- The number of tables, of clusters and of ports (R4, R297). -/
def tables : Nat := 64
def clusters : Nat := 16
def ports : Nat := 22

end Sys2Proof.Config
end

