-- ==== Sys2Proof/Machine/Basics.lean ====
section
/-! DEFINITION. Accessors of the node's parts, why a word does not finish (Stop), the fault codes, and the reads and
writes of registers, data queues and token counters that every meaning goes through. -/
namespace Sys2Proof

/-- FAULT.CODE of each fault (R122). -/
def FaultCode.num : FaultCode → BitVec 8
  | .illegal => 0x01
  | .privilege => 0x02
  | .trapped => 0x03
  | .space => 0x10
  | .bounds => 0x11
  | .gap => 0x12
  | .planeAbsent => 0x13
  | .permission => 0x14
  | .dataPoison => 0x20
  | .expansion => 0x21
  | .tempoMiss => 0x30
  | .link => 0x40
  | .ownerMismatch => 0x41

end Sys2Proof

namespace Sys2Proof.Machine

/-- What a step answers. -/
abbrev Out := Host.Outcome State Fault Refusal

/-! ### Parts of the node -/

def getCore (s : State) (c : Nat) : Core := sget s.cores c Core.zero

def setCore (s : State) (c : Nat) (k : Core) : State := { s with cores := sset s.cores c k Core.zero }

def modCore (s : State) (c : Nat) (f : Core → Core) : State := setCore s c (f (getCore s c))

def Core.bank (k : Core) (b : Bool) : Bank := if b then k.bank1 else k.bank0

def Core.setBank (k : Core) (b : Bool) (v : Bank) : Core := if b then { k with bank1 := v } else { k with bank0 := v }

/-- The context of the bank is stopped or being restored: what it has queued for the array is saved (R356), and the queue holds only what
the other bank has put in. -/
def Bank.still (x : Bank) : Bool := x.st == .stopped || x.st == .restoring

/-- The matrix commands that a bank has queued, oldest first (R264, R345). -/
def Core.cmdsOf (k : Core) (b : Bool) : List Cmd := if b then k.cmds1 else k.cmds

def Core.setCmds (k : Core) (b : Bool) (l : List Cmd) : Core := if b then { k with cmds1 := l } else { k with cmds := l }

/-- The entries of the matrix command queue. -/
def Core.inQueue (k : Core) : List Cmd := (if k.bank0.still then [] else k.cmds) ++ if k.bank1.still then [] else k.cmds1

def Core.queued (k : Core) : Nat := k.inQueue.length

/-- The entry of bank `b` that stands at the head of the queue. -/
def Core.head (k : Core) (b : Bool) : Option Cmd :=
  match k.cmdsOf b with
  | m :: _ => if !(k.bank b).still && k.inQueue.all (fun j => decide (m.id ≤ j.id)) then some m else none
  | [] => none

/-- The oldest entry of bank `b` leaves the queue. -/
def Core.dropHead (k : Core) (b : Bool) : Core := k.setCmds b (k.cmdsOf b).tail

def getBank (s : State) (c : Nat) (b : Bool) : Bank := (getCore s c).bank b

def setBank (s : State) (c : Nat) (b : Bool) (v : Bank) : State := setCore s c ((getCore s c).setBank b v)

def modBank (s : State) (c : Nat) (b : Bool) (f : Bank → Bank) : State := setBank s c b (f (getBank s c b))

/-- The bank whose context runs or last ran (R347: STAT.ACTIVE). -/
def curBank (s : State) (c : Nat) : Bank := getBank s c (getCore s c).active

def modCur (s : State) (c : Nat) (f : Bank → Bank) : State := modBank s c (getCore s c).active f

def getTable (s : State) (t : Nat) : Table := sget s.tables t Table.zero

def setTable (s : State) (t : Nat) (v : Table) : State := { s with tables := sset s.tables t v Table.zero }

def modTable (s : State) (t : Nat) (f : Table → Table) : State := setTable s t (f (getTable s t))

def getCluster (s : State) (i : Nat) : Cluster := sget s.clusters i Cluster.zero

def setCluster (s : State) (i : Nat) (v : Cluster) : State := { s with clusters := sset s.clusters i v Cluster.zero }

def getPort (s : State) (d : Nat) : Port := sget s.fabric.ports d Port.zero

def setPort (s : State) (d : Nat) (v : Port) : State :=
  { s with fabric := { s.fabric with ports := sset s.fabric.ports d v Port.zero } }

def modPort (s : State) (d : Nat) (f : Port → Port) : State := setPort s d (f (getPort s d))

def getLq (s : State) (q : Nat) : LaunchQueue := sget s.shoe.lq q LaunchQueue.zero

def setLq (s : State) (q : Nat) (v : LaunchQueue) : State :=
  { s with shoe := { s.shoe with lq := sset s.shoe.lq q v LaunchQueue.zero } }

def modLq (s : State) (q : Nat) (f : LaunchQueue → LaunchQueue) : State := setLq s q (f (getLq s q))

def getLaunch (s : State) (slot : Nat) : Option Launch := sget s.shoe.launches slot none

def setLaunch (s : State) (slot : Nat) (l : Option Launch) : State :=
  { s with shoe := { s.shoe with launches := sset s.shoe.launches slot l none } }

/-- The table of a core (R187). -/
def tableOf (c : Nat) : Nat := c / 16
/-- The cluster of a core (R187). -/
def clusterOf (c : Nat) : Nat := c / 64

/-- A host write that takes effect now, or, before the node is ready, once it is (R402). -/
def hostWrite (s : State) (blk : Block) (off : Nat) (v : Nat) (r : State) : State :=
  if s.disc.ready then r
  else { s with mgmt := { s.mgmt with deferred := s.mgmt.deferred ++ [(blk, BitVec.ofNat 20 off, BitVec.ofNat 64 v)] } }

/-- A fresh id. -/
def fresh (s : State) : Nat × State := (s.seq, { s with seq := s.seq + 1 })

/-- A value the spec leaves open, of up to 512 bits (log 11). -/
def freeValue (s : State) (bits : Nat) : Nat × State :=
  let n := (bits + 7) / 8
  (low bits (ofBytes (tab (fun i => Config.freeByte i) s.free n)), { s with free := s.free + n })

/-! ### Walks (R227) -/

/-- A walk for this page and context. -/
def Walk.is (w : Walk) (c bank : Nat) (t : Tenant) (page : Nat) : Bool :=
  w.core == c && w.bank == bank && w.tenant == t && w.vpage.toNat == page

/-- What joined a walk stands still: the engine is at the same word, or the access is in flight. -/
def Bank.stands (b : Bank) : Waiter → Bool
  | .word e n | .fetch e n => b.issue.steps.get e == n
  | .access id => b.inflight.any fun x => x.id == id
  | .job _ => false

/-- The deliveries of walks to words, accesses and jobs of bank `b` that still stand. -/
def Core.deliveries (k : Core) (b : Bool) : List Walked :=
  ((k.bank b).walked.filter fun r => (k.bank b).stands r.to_) ++
    k.jobs.flatMap fun j => if j.view.bank == b then j.walked else []

/-! ### Why a word does not finish -/

/-- A word that does not finish: it stalls; it stalls at the walk of a virtual page (R227); it stalls but leaves a request
behind (R107); or it faults (R122). -/
inductive Stop where
  | stall
  | walk (page : Nat)
  | hold (s : State)
  | fault (code : FaultCode) (addr : Word) (plane : BitVec 3) (suit : BitVec 4) (info : Word)

/-- A computation of a word's effect. -/
abbrev Act (α : Type) := Except Stop α

def stall {α : Type} : Act α := .error .stall

/-- The class of a fault code: service or program (R122). -/
def isService (code : BitVec 8) : Bool := code == 0x12 || code == 0x13 || code == 0x20

/-- FAULT.INFO (R125). -/
def faultInfo (sub : Nat) (fbit : Nat := 0) (tcode : Nat := 0) (detail : Nat := 0) (async : Bool := false) : Word :=
  BitVec.ofNat 64 (low 8 sub + low 8 fbit * 2 ^ 8 + low 16 tcode * 2 ^ 16 + low 31 detail * 2 ^ 32 + b2n async * 2 ^ 63)

/-- FAULT.INFO of a recorded error when it is raised: its subcode and DETAIL, TCODE and ASYNC (R244, R307, R315). -/
def raisedInfo (r : FaultRec) (tcode : Nat) : Word := faultInfo (low 8 r.info.toNat) 0 tcode (fld r.info.toNat 32 31) true

/-- A fault that concerns no memory access. -/
def plainFault {α : Type} (code : FaultCode) (info : Word) : Act α := .error (.fault code 0 0 0 info)

/-- ILLEGAL with a subcode of R55. -/
def illegal {α : Type} (sub : Nat) : Act α := plainFault .illegal (faultInfo sub)

/-- ILLEGAL/VALUE. -/
def badValue {α : Type} : Act α := illegal 0x09

/-- Go on only if the condition holds; otherwise stop so. -/
def need (p : Bool) (otherwise : Act Unit) : Act Unit := if p then .ok () else otherwise

/-! ### Registers (R141-R143, R268) -/

/-- Register `r` of file a; a0 reads zero. -/
def Bank.ra (b : Bank) (r : Nat) : Word := if r = 0 then 0 else sget b.a r 0
/-- Register `r` of file s; s0 reads zero. -/
def Bank.rs (b : Bank) (r : Nat) : Word := if r = 0 then 0 else sget b.s r 0
/-- Register `r` of file m; m0 reads zero. -/
def Bank.rm (b : Bank) (r : Nat) : Word := if r = 0 then 0 else sget b.m r 0
def Bank.rv (b : Bank) (r : Nat) : Vec := sget b.v r 0
def Bank.rk (b : Bank) (r : Nat) : Mask := sget b.k r 0

/-- An issued access no longer writes register `r` of file a: a later word in program order writes it (R109). -/
def dropDest (r : BitVec 5) (x : Access) : Access := if x.dest = .areg r then { x with dest := .none } else x

/-- Write register `r` of file a; a write to a0 is discarded. -/
def Bank.wa (b : Bank) (r : Nat) (v : Word) : Bank :=
  if r = 0 then b
  else { b with a := sset b.a r v 0, inflight := b.inflight.map (dropDest (BitVec.ofNat 5 r)) }

/-- Write register `r` of file s; a write to s0 is discarded. -/
def Bank.ws (b : Bank) (r : Nat) (v : Word) : Bank := if r = 0 then b else { b with s := sset b.s r v 0 }
/-- Write register `r` of file m; a write to m0 is discarded. -/
def Bank.wm (b : Bank) (r : Nat) (v : Word) : Bank := if r = 0 then b else { b with m := sset b.m r v 0 }
def Bank.wv (b : Bank) (r : Nat) (v : Vec) : Bank := { b with v := sset b.v r v 0 }
def Bank.wk (b : Bank) (r : Nat) (v : Mask) : Bank := { b with k := sset b.k r v 0 }

/-- The register that an issued access has yet to write (R120). -/
def Bank.pendingA (b : Bank) (r : Nat) : Bool :=
  r != 0 && b.inflight.any fun x => x.dest == .areg (BitVec.ofNat 5 r)

/-- Read register `r` of file a as an operand: the A engine stalls while an earlier word still writes it (R120). -/
def Bank.useA (b : Bank) (r : Nat) : Act Word := if b.pendingA r then stall else .ok (b.ra r)

/-- Write an engine's own scalar register. -/
def Bank.wreg (b : Bank) (e : Engine) (r : Nat) (v : Word) : Bank :=
  match e with
  | .a => b.wa r v
  | .x => b.ws r v
  | .m => b.wm r v

/-- Read an engine's own scalar register (R112). -/
def Bank.useReg (b : Bank) (e : Engine) (r : Nat) : Act Word :=
  match e with
  | .a => b.useA r
  | .x => .ok (b.rs r)
  | .m => .ok (b.rm r)

/-! ### Data queues (R118, R119): 0-3 DQ, 4-5 SQ, 6 CQ -/

def queueDepth (q : Nat) : Nat := if q = 6 then 16 else 8

def Issue.queue (x : Issue) (q : Nat) : List QEntry := sget x.queues q []

def Issue.setQueue (x : Issue) (q : Nat) (l : List QEntry) : Issue := { x with queues := sset x.queues q l [] }

def Bank.queue (b : Bank) (q : Nat) : List QEntry := b.issue.queue q

def Bank.setQueue (b : Bank) (q : Nat) (l : List QEntry) : Bank := { b with issue := b.issue.setQueue q l }

/-- Pop the head entry: a stall while the queue holds no entry, or only one that is reserved ahead (R119). -/
def Bank.popQ (b : Bank) (q : Nat) : Act (Vec × Bank) :=
  match b.queue q with
  | e :: l => if e.ready then .ok (e.data, b.setQueue q l) else stall
  | [] => stall

/-- The entries at the head of a queue that issued words of the A engine have popped and still hold (R119). -/
def Bank.heldQ (b : Bank) (q : Nat) : Nat := (b.inflight.filter fun x => x.pops.contains q).length

/-- The entry that a word of the A engine pops next; it stays in its queue until the word completes (R119). -/
def Bank.peekQ (b : Bank) (q : Nat) : Act Vec :=
  match (b.queue q).drop (b.heldQ q) with
  | e :: _ => if e.ready then .ok e.data else stall
  | [] => stall

/-- Push an entry: a stall while no entry is free (R119). -/
def Bank.pushQ (b : Bank) (q : Nat) (vec : Bool) (v : Vec) : Act Bank :=
  if (b.queue q).length < queueDepth q then .ok (b.setQueue q (b.queue q ++ [⟨vec, v, true, 0⟩])) else stall

/-- Reserve an entry under `id` for a word that completes later (R119). -/
def Bank.reserveQ (b : Bank) (q : Nat) (vec : Bool) (id : Nat) : Act Bank :=
  if (b.queue q).length < queueDepth q then .ok (b.setQueue q (b.queue q ++ [⟨vec, 0, false, id⟩])) else stall

/-- Fill the entry reserved under `id`. -/
def Bank.fillQ (b : Bank) (q id : Nat) (v : Vec) : Bank :=
  b.setQueue q ((b.queue q).map fun e => if !e.ready && e.id == id then { e with data := v, ready := true } else e)

/-- The scalar reading of an entry: bytes 0-7 (R119). -/
def scalarOf (v : Vec) : Word := v.setWidth 64
/-- The scalar-kind entry of a value. -/
def vecOf (w : Word) : Vec := w.setWidth 4096

/-! ### Tokens (R115, R116): 0 A→X, 1 A→M, 2 X→A, 3 X→M, 4 M→A, 5 M→X -/

/-- The counters that WP and WS of D pop. -/
def tokPops (e : Engine) (t : BitVec 4) : List Nat :=
  let (wp, ws) := match e with
    | .a => (4, 2)
    | .x => (0, 5)
    | .m => (3, 1)
  (if t.getLsbD 3 then [wp] else []) ++ (if t.getLsbD 2 then [ws] else [])

/-- The counters that SP and SS of D push to. -/
def tokPushes (e : Engine) (t : BitVec 4) : List Nat :=
  let (sp, ss) := match e with
    | .a => (1, 0)
    | .x => (2, 3)
    | .m => (5, 4)
  (if t.getLsbD 1 then [sp] else []) ++ (if t.getLsbD 0 then [ss] else [])

def Bank.tok (b : Bank) (k : Nat) : BitVec 4 := sget b.issue.toks k 0

def Bank.setTok (b : Bank) (k : Nat) (v : BitVec 4) : Bank :=
  { b with issue := { b.issue with toks := sset b.issue.toks k v 0 } }

def Bank.popToks (b : Bank) (e : Engine) (t : BitVec 4) : Bank :=
  (tokPops e t).foldl (fun b k => b.setTok k (b.tok k - 1)) b

def Bank.pushToks (b : Bank) (e : Engine) (t : BitVec 4) : Bank :=
  (tokPushes e t).foldl (fun b k => b.setTok k (b.tok k + 1)) b

/-! ### Program counters and step counters (R108) -/

def Bank.pcOf (b : Bank) (e : Engine) : Word := b.pc.get e

/-- The payload of the KX that the engine has just acted on (R48). -/
def Bank.kxOf (b : Bank) (e : Engine) : Option (BitVec 22) := b.kx.get e

/-- The words that passing the current word counts: two for a KX pair (R108). -/
def Bank.pairLen (b : Bank) (e : Engine) : Nat := if (b.kxOf e).isSome then 2 else 1

/-- The offset of the word itself, past its KX. -/
def Bank.wordPc (b : Bank) (e : Engine) : Word := if (b.kxOf e).isSome then b.pcOf e + 4 else b.pcOf e

def Bank.setPc (b : Bank) (e : Engine) (v : Word) : Bank := { b with pc := b.pc.set v e }

def Bank.dropKx (b : Bank) (e : Engine) : Bank := { b with kx := b.kx.set none e }

def Bank.addStep (b : Bank) (e : Engine) (n : Nat) : Bank :=
  { b with issue := { b.issue with steps := b.issue.steps.set (b.issue.steps.get e + BitVec.ofNat 64 n) e } }

/-- The engine leaves its current word (and the KX before it) for `target`. -/
def Bank.jump (b : Bank) (e : Engine) (target : Word) : Bank :=
  (((b.addStep e (b.pairLen e)).setPc e target).dropKx e)

/-- The engine passes its current word. -/
def Bank.pass (b : Bank) (e : Engine) : Bank := b.jump e (b.wordPc e + 4)

/-- The slip limit: passing `n` words would put the engine too far ahead of the slowest (R110). -/
def Bank.slipBlocks (b : Bank) (e : Engine) (n : Nat) : Bool :=
  let st := b.issue.steps
  let least := min st.a.toNat (min st.x.toNat st.m.toNat)
  b.slipwin.toNat + least < (st.get e).toNat + n

/-- 4 × TEXTLEN of the context's kernel; 0 where no kernel is loaded. -/
def Bank.textEnd (b : Bank) : Nat :=
  match b.kern with
  | some k => 4 * k.textLen
  | none => 0

end Sys2Proof.Machine
end

