-- ==== Sys2Proof/Machine/Tiles.lean ====
section
/-! DEFINITION. Tile queues (R259-R263, R317): what a matrix command names (R274-R279), the places of a queue, pushing and
popping entries and their sequence numbers (R263, R321), and the elements of a container (R260). -/
namespace Sys2Proof.Machine

/-! ### The fields of a command record (R54, R274, R325) -/

def Cmd.op (m : Cmd) : Nat := fld m.word.toNat 18 8
def Cmd.acc (m : Cmd) : Nat := fld m.word.toNat 15 3
def Cmd.qa (m : Cmd) : Nat := fld m.word.toNat 8 7
def Cmd.qb (m : Cmd) : Nat := fld m.word.toNat 1 7
/-- Bit F: the command adds to its accumulator. -/
def Cmd.adds (m : Cmd) : Bool := m.word.getLsbD 0

/-- The outbound queue that a KX names for forwarding (R325). -/
def Cmd.fwd (m : Cmd) : Option Nat := m.kx.bind fun p => if p.getLsbD 7 then some (fld p.toNat 0 7) else none

def Cmd.isMul (m : Cmd) : Bool := m.op == 0x30 || m.op == 0x31

/-- The command needs the hand (R264). -/
def Cmd.needsHand (m : Cmd) : Bool := !(m.op == 0x21 || m.op == 0x25 || m.op == 0x35)

/-! ### Queues and their places (R259, R262, R317, R356) -/

def isInLink (q : Nat) : Bool := 32 ≤ q && q ≤ 53
def isOutLink (q : Nat) : Bool := 64 ≤ q && q ≤ 85
def isLink (q : Nat) : Bool := isInLink q || isOutLink q

/-- The port of a link queue. -/
def linkPort (q : Nat) : Nat := if q < 64 then q - 32 else q - 64

/-- The entries that a tile queue holds. -/
def tileDepth (q : Nat) : Nat := if q < 8 ∨ (12 ≤ q ∧ q < 16) ∨ isInLink q then 4 else 2

/-- The places of queue `q` that entries popped by a command under way still take, and the place that a drain under way has
reserved (R262, R356). -/
def Cmd.holds (m : Cmd) (q : Nat) : Nat := b2n (m.ea.isSome && m.qa == q) + b2n (m.eb.isSome && m.qb == q && q != 127)

/-- The places of queue `q` that entries popped by a command under way still take. -/
def Cmd.popped (m : Cmd) (q : Nat) : Nat := if m.op == 0x32 then 0 else m.holds q

/-- A command under way. -/
def Cmd.running (m : Cmd) : Bool := m.begun && !m.finished

/-! ### The parameters of a session (R280) -/

def Session.reg (z : Session) (n : Nat) : Nat := (sget z.par n 0).toNat
def Session.limit (z : Session) : Nat := fld (z.reg 2) 0 33
def Session.qa (z : Session) : Nat := fld (z.reg 3) 0 7
def Session.qb (z : Session) : Nat := fld (z.reg 3) 8 7
def Session.qd (z : Session) : Nat := fld (z.reg 4) 0 7
/-- The accumulator of group `j`. -/
def Session.accOf (z : Session) (j : Nat) : Nat := if j % 2 = 0 then fld (z.reg 5) 0 3 else fld (z.reg 5) 3 3
def Session.kt (z : Session) : Nat := fld (z.reg 6) 0 16
def Session.strict (z : Session) : Bool := bit (z.reg 7) 0
def Session.maxMiss (z : Session) : Nat := fld (z.reg 7) 8 8
def Session.fmask (z : Session) : Nat := fld (z.reg 8) 0 16

/-- Beat `c` ends its group (R282). -/
def Session.completes (z : Session) : Bool := z.c % z.kt == z.kt - 1

/-- The place in QD that a session has reserved for the drain of its latest group (R283). -/
def Session.reserves (z : Session) (q : Nat) : Nat :=
  b2n (z.qd == q && z.phase == .boundary && z.c != 0 && z.kt != 0 && z.c % z.kt == 0 && z.pushed < z.c / z.kt)

/-- The places of queue `q` that a core's commands and session take. -/
def Core.tilePlaces (k : Core) (q : Nat) : Nat :=
  (k.cmds.map fun m => m.holds q).sum +
    match k.session with
    | some z => z.reserves q
    | none => 0

/-- The places of queue `q` of table `t` that are taken though no entry stands in them. -/
def heldPlaces (s : State) (t q : Nat) : Nat := (tab (fun i => (getCore s (16 * t + i)).tilePlaces q) 0 16).sum

/-- The places of queue `q` of table `t` that popped entries still take. -/
def poppedPlaces (s : State) (t q : Nat) : Nat :=
  (tab (fun i => ((getCore s (16 * t + i)).cmds.map fun m => m.popped q).sum) 0 16).sum

/-- The entries of a queue that table `t` names, oldest first. -/
def tileQueue (s : State) (t q : Nat) : List TileEntry :=
  if isInLink q then (getPort s (linkPort q)).inq
  else if isOutLink q then (getPort s (linkPort q)).outq
  else sget (getTable s t).queues q []

def setTileQueue (s : State) (t q : Nat) (l : List TileEntry) : State :=
  if isInLink q then modPort s (linkPort q) fun p => { p with inq := l }
  else if isOutLink q then modPort s (linkPort q) fun p => { p with outq := l }
  else modTable s t fun x => { x with queues := sset x.queues q l [] }

/-- A free place in a queue. -/
def tileRoom (s : State) (t q : Nat) : Bool := (tileQueue s t q).length + heldPlaces s t q < tileDepth q

/-- The entry stands at the tail (R262). -/
def pushTile (s : State) (t q : Nat) (e : TileEntry) : State := setTileQueue s t q (tileQueue s t q ++ [e])

/-- Entries in a queue of table `t`, counting those popped by commands under way, which keep their places (R356). -/
def tileCount (s : State) (t q : Nat) : Nat := min (tileDepth q) ((tileQueue s t q).length + poppedPlaces s t q)

/-- The sequence number of the next entry that the array or the feed unit pushes, and the count after it (R263, R321). -/
def nextSeq (s : State) (t q : Nat) : BitVec 32 × State :=
  if isOutLink q then
    let n := (getPort s (linkPort q)).pushes
    (n, modPort s (linkPort q) fun p => { p with pushes := n + 1 })
  else
    let n := sget (getTable s t).pushes q 0
    (n, modTable s t fun x => { x with pushes := sset x.pushes q (n + 1) 0 })

/-- The first queue for which a session's beat is not ready, with its SUB (R283). -/
def notReady (s : State) (c : Nat) (z : Session) : Option (Nat × Nat) :=
  let n := fun q => (tileQueue s (tableOf c) q).length
  if n z.qa = 0 then some (1, z.qa)
  else if z.qb ≠ 127 ∧ n z.qb < (if z.qb = z.qa then 2 else 1) then some (2, z.qb)
  else if z.completes && !tileRoom s (tableOf c) z.qd then some (3, z.qd)
  else none

/-! ### The end of a session (R290, R291) -/

def putSession (s : State) (c : Nat) (z : Session) : State := modCore s c fun k => { k with session := some z }

/-- The CSRs of the holder's context: those of the bank, or, once it holds another context, what an abort left of them. -/
def tempoOf (s : State) (c : Nat) (z : Session) : TempoRegs :=
  if (getBank s c false).ctx == z.ctx then (getBank s c false).tempo else z.left

/-- Change the CSRs of the holder's context, while its bank holds no other context. -/
def modTempo (s : State) (c : Nat) (z : Session) (f : TempoRegs → TempoRegs) : State :=
  modBank s c false fun b => if b.ctx == z.ctx then { b with tempo := f b.tempo } else b

/-- The session begins to end with a cause. -/
def finishTempo (s : State) (c : Nat) (z : Session) (kind : Nat) : State :=
  modTempo (putSession s c { z with phase := .finishing (BitVec.ofNat 3 kind) }) c z fun r => { r with st := 3 }

/-- What ends a session while its beat waits after a miss does so at once, unless the beat has become ready before (R285). -/
def endWaiting (s : State) (c : Nat) (z : Session) (kind : Nat) : State :=
  if z.phase == .waiting && (notReady s c z).isSome then finishTempo s c z kind else putSession s c z

/-! ### Elements of a container (R260) -/

/-- `n` bytes of a container from offset `o`. -/
def tileNum (e : TileEntry) (o n : Nat) : Nat := ofBytes (tab (fun i => sget e.bytes i (0 : Byte)) o n)

/-- Put a number into `n` bytes of a container from offset `o`. -/
def putBytes (m : SMap Byte) (o n v : Nat) : SMap Byte :=
  (tab (fun i => i) 0 n).foldl (fun m i => sset m (o + i) (BitVec.ofNat 8 (v >>> (8 * i))) 0) m

/-- An NQ4 code, scale and superscale. -/
def tileCode (e : TileEntry) (r c : Nat) : Nat :=
  let b := (sget e.bytes (64 * c + r / 2) (0 : Byte)).toNat
  if r % 2 = 0 then b % 16 else b / 16
def tileScale (e : TileEntry) (c h : Nat) : Nat := tileNum e (8192 + 4 * c + 2 * h) 2
def tileSuper (e : TileEntry) : Nat := tileNum e 8704 4

end Sys2Proof.Machine
end

