-- ==== Sys2Proof/Machine/Csr.lean ====
section
/-! DEFINITION. The control and status registers: the value each one reads (R124, R163, R197, R216, R240, R258, R294,
R311, R318, R337, R344, R348), and the write of a snapshot image (R358, R360, R367). -/
namespace Sys2Proof.Machine

/-- A number as a 64-bit register value. -/
def w64 (n : Nat) : Word := BitVec.ofNat 64 n

/-- TOK (R125). -/
def tokWord (x : Issue) : Word :=
  let t := fun k => (sget x.toks k (0 : BitVec 4)).toNat
  w64 (t 0 + t 3 * 2 ^ 4 + t 4 * 2 ^ 8 + t 2 * 2 ^ 12 + t 5 * 2 ^ 16 + t 1 * 2 ^ 20)

/-- The counters that a TOK image holds. -/
def tokOf (v : Word) : SMap (BitVec 4) :=
  let f := fun lo => v.extractLsb' lo 4
  [(0, 0), (1, 20), (2, 12), (3, 4), (4, 8), (5, 16)].foldl (fun m p => sset m p.1 (f p.2) 0) []

def loopOf (x : Issue) (e : Engine) (l : Nat) : LoopState := sget (x.loops.get e) l LoopState.zero

def Issue.setLoop (x : Issue) (e : Engine) (l : Nat) (v : LoopState) : Issue :=
  { x with loops := x.loops.set (sset (x.loops.get e) l v LoopState.zero) e }

/-- The hand state of a core for its table (R253, R258): 0 not a member, 1 idle, 2 waiting, 3 holding. -/
def handState (s : State) (c : Nat) : Nat :=
  let t := getTable s (tableOf c)
  if t.holder = some c then 3 else if t.reqs.any (fun r => r.core == c) then 2
  else if (getCore s c).granted = 0 then 0 else 1

/-- MAT.STAT (R258). CQOCC counts the context's commands; accumulators are bank 0's (R345). -/
def matStat (s : State) (c : Nat) (b : Bool) : Word :=
  let k := getCore s c
  let m := (k.bank b).mat
  let ap := if b then 0 else k.apois.toNat
  w64 (handState s c + m.mode.toNat * 2 ^ 6 + b2n m.held * 2 ^ 11 + m.nacc.toNat * 2 ^ 12 + (k.cmdsOf b).length * 2 ^ 16 +
    k.hcount.toNat * 2 ^ 24 + ap * 2 ^ 40 + m.slot.toNat * 2 ^ 56)

/-- MAT.TQ of a table (R258). -/
def matTq (s : State) (t : Nat) : Word :=
  let n := fun q => tileCount s t q
  w64 (pack 3 (tab n 0 16) + pack 2 (tab n 16 8) * 2 ^ 48)

/-- The copy jobs, collectives and swaps that hold scheduler slots (R231, R240). -/
def copyStat (k : Core) : Word :=
  let err := pack 1 (tab (fun c => b2n (sget k.errs c none).isSome) 0 8)
  w64 (k.clamps.toNat + err * 2 ^ 8 + k.jobs.length * 2 ^ 16 + b2n k.cclamp * 2 ^ 23)

/-- LQd (R318). -/
def lqWord (s : State) (d : Nat) : Word :=
  let p := getPort s d
  w64 (p.job.toNat + p.tenant.toNat * 2 ^ 16 + p.table.toNat * 2 ^ 38 + b2n p.bound * 2 ^ 44 + b2n p.round * 2 ^ 45 +
    b2n p.lost * 2 ^ 46 + p.outq.length * 2 ^ 47 + tileCount s p.table.toNat (32 + d) * 2 ^ 49 + p.credit.toNat * 2 ^ 52 +
    p.mism.toNat * 2 ^ 56)

/-- A context waits on a service fault, stopped or not (R348, R352). -/
def Bank.svcWaits (x : Bank) : Bool := x.st == .serviceWait || (x.st == .stopped && x.svcPend)

/-- CTX.STAT (R348). -/
def ctxStat (k : Core) (b : Bool) : Word :=
  let x := k.bank b
  w64 (b2n b + b2n x.priv * 2 + b2n (k.bank (!b)).svcWaits * 4 + x.tenant.toNat * 2 ^ 16)

/-- ROUND.STAT (R344). A round ends a computation step, and the next one a communication step. -/
def roundStat (r : Rounds) : Word :=
  w64 (r.count.toNat + r.count.toNat % 2 * 2 ^ 32 + b2n r.waiting * 2 ^ 33 + r.scope.toNat * 2 ^ 34)

/-- The CSR images that a bank shows of one issue state (R362). -/
def issueCsr (x : Issue) (n : Nat) : Option Word :=
  if n = 0x011 then some x.steps.a else if n = 0x012 then some x.steps.x else if n = 0x013 then some x.steps.m
  else if n = 0x014 then some (tokWord x)
  else if 0x020 ≤ n ∧ n ≤ 0x02F then some (w64 (loopOf x .a (n - 0x020)).lc.toNat)
  else none

/-- A CSR below 0x100 of the context in bank `b` of core `c`, whose issue state is `x`. -/
def csrValue (s : State) (c : Nat) (b : Bool) (x : Issue) (n : Nat) : Word :=
  let k := getCore s c
  let v := k.bank b
  match issueCsr x n with
  | some w => w
  | none =>
    match n with
    | 0x010 => w64 v.slipwin.toNat
    | 0x040 => w64 v.fault.code.toNat
    | 0x041 => w64 v.fault.engine.toNat
    | 0x042 => v.fault.pc
    | 0x043 => v.fault.addr
    | 0x044 => w64 v.fault.plane.toNat
    | 0x045 => w64 v.fault.suit.toNat
    | 0x046 => v.fault.info
    | 0x048 => w64 (b2n v.trapActive + b2n v.trapSkip * 2)
    | 0x049 => v.rpc.a
    | 0x04A => v.rpc.x
    | 0x04B => v.rpc.m
    | 0x050 => ctxStat k b
    | 0x060 => w64 v.xrm.toNat
    | 0x061 => w64 v.xseed.toNat
    | 0x062 => w64 v.xflags.toNat
    | 0x070 => w64 c
    | 0x071 => w64 v.chipGrant.toNat
    | 0x072 => v.privBase
    | 0x073 => v.privSize
    | 0x074 => s.fabric.winBase
    | 0x075 => s.fabric.winSize
    | 0x076 => w64 s.fabric.label.toNat
    | 0x077 =>
      let m := sget s.near c Near.zero
      w64 (m.live.toNat + m.ilv.toNat * 2 ^ 16)
    | 0x080 => v.xlat.root
    | 0x081 => v.xlat.psdt
    | 0x082 => v.xlat.psdn
    | 0x083 => v.xlat.view
    | 0x084 => w64 (b2n v.clamp)
    | 0x090 => copyStat k
    | 0x0A0 => w64 v.handlen.toNat
    | 0x0A1 => matStat s c b
    | 0x0A2 => matTq s (tableOf c)
    | 0x0A3 => w64 (v.mat.shapeM.toNat + v.mat.shapeN.toNat * 2 ^ 8 + v.mat.shapeK.toNat * 2 ^ 16)
    | 0x0A4 => w64 (v.mat.seed.toNat + v.mat.mode.toNat * 2 ^ 32 + v.mat.heldFmt.toNat * 2 ^ 40)
    | 0x0B0 => w64 v.tempo.beat.toNat
    | 0x0B1 => w64 v.tempo.miss.toNat
    | 0x0B2 => w64 (b2n v.tempo.policy + v.tempo.maxMiss.toNat * 2 ^ 8 + v.tempo.consec.toNat * 2 ^ 16)
    | 0x0B3 => w64 v.tempo.looka.toNat
    | 0x0B4 => w64 v.tempo.lookb.toNat
    | 0x0B5 => w64 v.tempo.lookd.toNat
    | 0x0B6 => w64 (v.tempo.st.toNat + v.tempo.cause.toNat * 2 ^ 4 + b2n v.tempo.pvalid * 2 ^ 8 +
        v.tempo.pacc.toNat * 2 ^ 9 + v.tempo.kprog.toNat * 2 ^ 16 + v.tempo.lost.toNat * 2 ^ 32)
    | 0x0F0 => roundStat v.round
    | n =>
      if 0x0C0 ≤ n ∧ n ≤ 0x0C3 then w64 (sget k.pathcnt (n - 0x0C0) 0).toNat
      else if 0x0D0 ≤ n ∧ n ≤ 0x0E5 then lqWord s (n - 0x0D0)
      else 0

/-- FLAGf as the context reads it (R336). -/
def flagCsr (s : State) (c : Nat) (tenant : Tenant) (f : Nat) : Word :=
  let v := sget (getCluster s (clusterOf c)).flags f Flag.zero
  if v.valid && v.tag == tenant then w64 v.val.toNat else 0

/-- What A.CSRR reads (R367). -/
def csrRead (s : State) (c : Nat) (b : Bool) (n : Nat) : Word :=
  let v := getBank s c b
  if 0x100 ≤ n then flagCsr s c v.tenant (n - 0x100) else csrValue s c b v.issue n

/-- Whether some field of a CSR is RW-P or RO-P (R196, R215, R367). -/
def csrPrivileged (n : Nat) : Bool :=
  n == 0x071 || n == 0x074 || n == 0x075 || (0x080 ≤ n && n ≤ 0x083)

/-- Whether a CSR has a field that A.CSRW writes (R124, R162, R196, R215, R240, R257, R367). -/
def csrWritable (n : Nat) : Bool :=
  n == 0x010 || (0x048 ≤ n && n ≤ 0x04B) || n == 0x061 || n == 0x071 || n == 0x074 || n == 0x075 ||
  (0x080 ≤ n && n ≤ 0x084) || n == 0x090 || n == 0x0A0

/-- A snapshot image write to the part of the CSRs that belongs to one issue state (R362). -/
def issueCsrPut (x : Issue) (n : Nat) (v : Word) : Issue :=
  if n = 0x011 then { x with steps := x.steps.set v .a }
  else if n = 0x012 then { x with steps := x.steps.set v .x }
  else if n = 0x013 then { x with steps := x.steps.set v .m }
  else if n = 0x014 then { x with toks := tokOf v }
  else if 0x020 ≤ n ∧ n ≤ 0x02F then
    x.setLoop .a (n - 0x020) { loopOf x .a (n - 0x020) with lc := v.setWidth 32 }
  else x

/-- ACTIVE and SKIP of TRAP.CTL as an image write sets them: while ACTIVE = 0 the trap shadow is empty, also of the writes that wait for
RUN (R362). -/
def Bank.setActive (x : Bank) (on skip : Bool) : Bank :=
  if on then { x with trapActive := true, trapSkip := skip }
  else { x with trapActive := false, trapSkip := skip, shadow := Issue.zero, staged := x.staged.filter fun p => p.1 < 0x10000 }

/-- A snapshot image write to a context CSR: every field is written, RO fields included; the live ones ignore it (R360,
R367). A MODE of 6 or 7 that reaches XRM in this way stays there, and words round under it as under SR (DESIGN CHOICE, log 53). -/
def csrImagePut (k : Core) (b : Bool) (n : Nat) (v : Word) : Core :=
  let x := k.bank b
  let f := fun lo w => v.extractLsb' lo w
  let put := fun y => k.setBank b y
  match n with
  | 0x010 => put { x with slipwin := f 0 13 }
  | 0x040 => put { x with fault := { x.fault with code := f 0 8 } }
  | 0x041 => put { x with fault := { x.fault with engine := f 0 2 } }
  | 0x042 => put { x with fault := { x.fault with pc := v } }
  | 0x043 => put { x with fault := { x.fault with addr := v } }
  | 0x044 => put { x with fault := { x.fault with plane := f 0 3 } }
  | 0x045 => put { x with fault := { x.fault with suit := f 0 4 } }
  | 0x046 => put { x with fault := { x.fault with info := v } }
  | 0x048 => put (x.setActive (v.getLsbD 0) (v.getLsbD 1))
  | 0x049 => put { x with rpc := x.rpc.set v .a }
  | 0x04A => put { x with rpc := x.rpc.set v .x }
  | 0x04B => put { x with rpc := x.rpc.set v .m }
  | 0x050 => put { x with tenant := f 16 16, priv := v.getLsbD 1 }
  | 0x060 => put { x with xrm := f 0 3 }
  | 0x061 => put { x with xseed := f 0 32 }
  | 0x062 => put { x with xflags := f 0 5 }
  | 0x071 => put { x with chipGrant := f 0 10 &&& 0x33F }
  | 0x072 => put { x with privBase := v &&& 0x0000FFFFFFFFF000 }
  | 0x073 => put { x with privSize := v &&& 0x1FFFFFFFF }
  | 0x080 => put { x with xlat := { x.xlat with root := v &&& 0xFFFFFFF000 } }
  | 0x081 => put { x with xlat := { x.xlat with psdt := v &&& 0xFFFFFFFFC0 } }
  | 0x082 => put { x with xlat := { x.xlat with psdn := v &&& 0x1FFFF } }
  | 0x083 => put { x with xlat := { x.xlat with view := v &&& 3 } }
  | 0x084 => put { x with clamp := v.getLsbD 0 }
  | 0x0A0 => put { x with handlen := f 0 9 }
  | 0x0A1 =>
    let m := { x.mat with slot := f 56 8, nacc := f 12 4, member := (f 12 4 != 0), held := v.getLsbD 11, mode := f 6 3 }
    let k := k.setBank b { x with mat := m }
    if b then k else { k with apois := f 40 8, hcount := f 24 9 }
  | 0x0A3 => put { x with mat := { x.mat with shapeM := f 0 8, shapeN := f 8 8, shapeK := f 16 8 } }
  | 0x0A4 => put { x with mat := { x.mat with seed := f 0 32, mode := f 32 3, heldFmt := f 40 4 } }
  | 0x0B0 => put { x with tempo := { x.tempo with beat := f 0 33 } }
  | 0x0B1 => put { x with tempo := { x.tempo with miss := f 0 32 } }
  | 0x0B2 => put { x with tempo := { x.tempo with policy := v.getLsbD 0, maxMiss := f 8 8, consec := f 16 8 } }
  | 0x0B3 => put { x with tempo := { x.tempo with looka := f 0 8 } }
  | 0x0B4 => put { x with tempo := { x.tempo with lookb := f 0 8 } }
  | 0x0B5 => put { x with tempo := { x.tempo with lookd := f 0 8 } }
  | 0x0B6 =>
    let t := { x.tempo with st := f 0 2, cause := f 4 3, pvalid := v.getLsbD 8, pacc := f 9 3, kprog := f 16 16 }
    put { x with tempo := { t with lost := f 32 16 } }
  | 0x0F0 => put { x with round := { count := f 0 32, waiting := v.getLsbD 33, scope := f 34 2 } }
  | n => put { x with issue := issueCsrPut x.issue n v }

end Sys2Proof.Machine
end

