-- ==== Sys2Proof/Machine/Snapshot.lean ====
section
/-! DEFINITION. The snapshot window of a context bank (R358-R362): each 64-bit register it reads, and the writes it
takes. -/
namespace Sys2Proof.Machine

/-- Entry `i` of a list, or what stands for none. -/
def nth {α : Type} : List α → Nat → α → α
  | [], _, d => d
  | x :: _, 0, _ => x
  | _ :: l, i + 1, d => nth l i d

/-- Whether the window shows the trap shadow (R362). -/
def Bank.showsShadow (x : Bank) : Bool := x.shsel && x.st != .running

/-- The issue state that the window shows: empty while SHSEL = 1 and no handler is active (R362). -/
def Bank.view (x : Bank) : Issue :=
  if x.showsShadow then (if x.trapActive then x.shadow else Issue.zero) else x.issue

/-- APEND of a fault code (R359). -/
def apendCode (code : BitVec 8) : Nat :=
  if code = 0x30 then 1 else if code = 0x40 then 2 else if code = 0x41 then 3 else 4

/-- SNAP.HDR of the context that a bank of core `c` holds, with `n` accumulators (R359). -/
def Bank.liveHdr (x : Bank) (c n : Nat) : Word :=
  let ap := match x.due with
    | [] => 0
    | r :: _ => apendCode r.code
  w64 (0x0103 + b2n x.shsel * 2 ^ 26 + b2n x.svcPend * 2 ^ 27 + ap * 2 ^ 28 + b2n x.priv * 2 ^ 31 +
    n * 2 ^ 32 + c * 2 ^ 38 + x.tenant.toNat * 2 ^ 48)

/-- The fields of SNAP.HDR that are state of their own: TENANT, PRIV, SVCPEND and SHSEL. -/
def hdrOwn : Word := 0xFFFF00008C000000

/-- SNAP.HDR as it reads: the staged header of an empty bank; of a stopped or restoring one the header as written, with the
fields that its context holds (R359, R360). -/
def Bank.snapHdr (x : Bank) (c n : Nat) : Word :=
  match x.st with
  | .empty => x.hdrw
  | .stopped | .restoring => merge x.hdr (x.liveHdr c n) hdrOwn
  | _ => x.liveHdr c n

/-- The accumulators that the context of a bank holds: the array is bank 0's (R345). -/
def Core.accsOf (k : Core) (b : Bool) : Nat := if b then 0 else k.granted.toNat

/-- The four 64-bit words of a command record (R359). -/
def cmdWord (m : Cmd) (i : Nat) : Word :=
  match i with
  | 0 => w64 (m.word.toNat + (m.kx.getD 0).toNat * 2 ^ 32 + b2n m.kx.isSome * 2 ^ 54 + b2n (!m.stale.isEmpty) * 2 ^ 55)
  | 1 => w64 (m.shapeM.toNat + m.shapeN.toNat * 2 ^ 8 + m.shapeK.toNat * 2 ^ 16 + m.slot.toNat * 2 ^ 24 +
      m.fa.toNat * 2 ^ 32 + m.fb.toNat * 2 ^ 36 + m.fo.toNat * 2 ^ 40 + b2n m.sat * 2 ^ 44 + m.mode.toNat * 2 ^ 45)
  | 2 => w64 m.seed.toNat
  | _ => 0

/-- SNAP.MCUR of the oldest record (R359). -/
def mcurWord (m : Cmd) : Word := w64 (b2n m.begun + b2n m.fwdDone * 2 + m.gnext.toNat * 2 ^ 8)

/-- SNAP.TSES of a session (R359). -/
def tsesWord (z : Session) (held : Nat) : Word :=
  let wait := z.phase == .waiting
  w64 (b2n wait + z.remain.toNat * 2 + z.ptr.toNat * 2 ^ 28 + min held 16 * 2 ^ 32 + b2n z.cut.isSome * 2 ^ 37 +
    b2n (z.cut.getD false) * 2 ^ 38)

/-- Word `j` of an entry of a vector queue. -/
def entryWord (l : List QEntry) (i j : Nat) : Word :=
  (((nth l i ⟨false, 0, true, 0⟩).data) >>> (64 * j)).setWidth 64

/-- Queue `j`'s status word (R358). -/
def qstWord (l : List QEntry) : Word :=
  w64 (l.length + pack 1 ((l.take 8).map fun e => b2n e.vec) * 2 ^ 8)

/-- Registers of the window that belong to one issue state, by offset within the bank (R358). -/
def snapIssue (x : Issue) (off : Nat) : Word :=
  if off < 0x400 then
    let e := (off - 0x100) / 0x100
    let l := loopOf x (if e = 0 then .a else if e = 1 then .x else .m) (off % 0x100 / 16)
    if off % 16 < 8 then w64 (l.lc.toNat + l.trip.toNat * 2 ^ 32)
    else w64 (low 32 l.body.toNat + b2n l.active * 2 ^ 32)
  else if off < 0x700 then
    let e := (off - 0x400) / 0x100
    let l := (x.rstk.get (if e = 0 then .a else if e = 1 then .x else .m)).reverse
    let o := off % 0x100
    if o < 0x80 then nth l (o / 8) 0 else if o = 0x80 then w64 l.length else 0
  else if off < 0x800 then 0
  else if off < 0xE00 then
    let l := sget x.oqs ((off - 0x800) / 0x100) []
    let o := off % 0x100
    if o < 0x80 then w64 ((nth l (o / 4) 0).toNat + (nth l (o / 4 + 1) 0).toNat * 2 ^ 32)
    else if o = 0x80 then w64 l.length else 0
  else if 0x1A00 ≤ off ∧ off < 0x1A80 then entryWord (x.queue 6) ((off - 0x1A00) / 8) 0
  else if 0x1A80 ≤ off ∧ off < 0x1AB8 then qstWord (x.queue ((off - 0x1A80) / 8))
  else if 0x2000 ≤ off ∧ off < 0x8000 then
    entryWord (x.queue ((off - 0x2000) / 0x1000)) (off % 0x1000 / 512) (off % 512 / 8)
  else 0

/-- Whether an offset belongs to the parts that SHSEL selects (R362), the CSR images apart. -/
def snapSelected (off : Nat) : Bool :=
  (0x100 ≤ off && off < 0xE00) || (0x1A00 ≤ off && off < 0x1AB8) || (0x2000 ≤ off && off < 0x8000)

/-- The session that the window shows: the one of the core, or the last one while its events are held (R357). -/
def Core.shownSession (k : Core) : Option Session :=
  k.session.or (if k.heldEvents.isEmpty then none else k.lastSession)

/-- Registers of the window about the array, of bank `b`. A context in bank 1 has no command under way and no session (R345, R358). -/
def snapMatrix (k : Core) (b : Bool) (off : Nat) : Word :=
  if 0x1B00 ≤ off ∧ off < 0x1D00 then
    match (k.cmdsOf b).drop ((off - 0x1B00) / 32) with
    | m :: _ => cmdWord m (off % 32 / 8)
    | [] => 0
  else if off = 0x1D08 then w64 (k.cmdsOf b).length
  else if b then 0
  else if off = 0x1D00 then
    match k.cmds with
    | m :: _ => mcurWord m
    | [] => 0
  else
    match k.shownSession with
    | none => 0
    | some z =>
      if 0x1D40 ≤ off ∧ off < 0x1D80 then sget z.par ((off - 0x1D40) / 8 + 1) 0
      else if off = 0x1D80 then tsesWord z k.heldEvents.length
      else if off = 0x1D88 then w64 (low 32 z.na + low 32 z.nb * 2 ^ 32)
      else if off = 0x1D90 then w64 z.nd
      else if 0x1E00 ≤ off ∧ off < 0x1E80 then (nth k.heldEvents ((off - 0x1E00) / 8) ⟨0, 0, none, 0⟩).word
      else 0

/-- The register at offset `off`, a multiple of 8, without the writes still staged. -/
def snapLive (s : State) (c : Nat) (b : Bool) (off : Nat) : Word :=
  let k := getCore s c
  let x := k.bank b
  if off = 0 then x.snapHdr c (k.accsOf b)
  else if off = 8 then x.pc.a
  else if off = 16 then x.pc.x
  else if off = 24 then x.pc.m
  else if snapSelected off then snapIssue x.view off
  else if 0x1000 ≤ off ∧ off < 0x1800 then csrValue s c b x.view ((off - 0x1000) / 8)
  else if 0x1800 ≤ off ∧ off < 0x1A00 then nth x.evq ((off - 0x1800) / 8) 0
  else if off = 0x1AB8 then w64 x.evq.length
  else snapMatrix k b off

/-- The key of a staged write: the trap shadow's parts are kept apart (R362). -/
def stageKey (x : Bank) (off : Nat) : Nat := if x.showsShadow && snapSelected off then off + 0x10000 else off

/-- The offset shows a part of the trap shadow, which is empty: it reads 0 and ignores writes (R362). -/
def Bank.showsNone (x : Bank) (off : Nat) : Bool := x.showsShadow && snapSelected off && !x.trapActive

/-- The fields of a context's CSR `n` that show the core, the other bank or another field: an image write reaches what the window shows of
them, and no more (log 53). -/
def imageMask (b : Bool) (n : Nat) : Word :=
  match n with
  | 0x050 => 5
  | 0x0A1 => if b then 0x0000FF01FF1F0003 else 0x1F0003
  | 0x0F0 => 0x100000000
  | _ => 0

/-- The offset is that of a CSR image. -/
def isImage (off : Nat) : Bool := 0x1000 ≤ off && off < 0x1800

/-- The 64-bit register at offset `off`, a multiple of 8, of bank `b`'s part of the window. -/
def snapGet (s : State) (c : Nat) (b : Bool) (off : Nat) : Word :=
  let x := getBank s c b
  match if x.showsNone off then none else sget (x.staged.map fun p => (p.1, some p.2)) (stageKey x off) none with
  | some v => if isImage off then merge (snapLive s c b off) v (imageMask b ((off - 0x1000) / 8)) else v
  | none => snapLive s c b off

/-- Write the live image of the loop state (R358). -/
def snapLoopPut (x : Issue) (off : Nat) (v : Word) : Issue :=
  let e : Engine := if (off - 0x100) / 0x100 = 0 then .a else if (off - 0x100) / 0x100 = 1 then .x else .m
  let n := off % 0x100 / 16
  let l := loopOf x e n
  if off % 16 < 8 then x.setLoop e n { l with lc := v.extractLsb' 0 32, trip := v.extractLsb' 32 32 }
  else x.setLoop e n { l with body := (v.extractLsb' 0 32).setWidth 64, active := v.getLsbD 32 }

/-- Apply a change to the issue state that the window shows. -/
def Bank.putView (x : Bank) (f : Issue → Issue) : Bank :=
  if x.showsShadow then (if x.trapActive then { x with shadow := f x.shadow } else x) else { x with issue := f x.issue }

/-- A header write: every field but the reserved ones (R359, R360). -/
def Bank.putHdr (x : Bank) (v : Word) : Bank :=
  let v := v &&& 0xFFFFFFCFFC00FFFF
  if x.st == .empty then { x with hdrw := v }
  else
    { x with hdr := v, hdrw := v, tenant := v.extractLsb' 48 16, priv := v.getLsbD 31, svcPend := v.getLsbD 27, shsel := v.getLsbD 26 }

/-- The bits of a register of the window that a write reaches: reserved bits and offsets without a register ignore it
(R358-R360). -/
def snapMask (off : Nat) : Word :=
  if off < 0x700 then (if off % 0x100 < 0x80 then 0xFFFFFFFFFFFFFFFF else if off % 0x100 = 0x80 then 0x1F else 0)
  else if off < 0x800 then 0
  else if off < 0xE00 then (if off % 0x100 < 0x80 then 0xFFFFFFFFFFFFFFFF else if off % 0x100 = 0x80 then 0x3F else 0)
  else if off < 0x1800 then 0
  else if off < 0x1A80 then 0xFFFFFFFFFFFFFFFF
  else if off < 0x1AC0 then 0xFF7F
  else if off < 0x1B00 then 0
  else if off < 0x1D00 then
    (match off % 32 / 8 with
     | 0 => 0x00FFFFFFFFFFFFFF
     | 1 => 0x0000FFFFFFFFFFFF
     | 2 => 0xFFFFFFFF
     | _ => 0)
  else if off = 0x1D00 then 0xFF03
  else if off = 0x1D08 then 0x1F
  else if 0x1D40 ≤ off ∧ off < 0x1D80 then 0xFFFFFFFFFFFFFFFF
  else if off = 0x1D80 then 0x7FF1FFFFFF
  else if off = 0x1D88 then 0xFFFFFFFFFFFFFFFF
  else if off = 0x1D90 then 0xFFFFFFFF
  else if 0x1E00 ≤ off ∧ off < 0x1E80 then 0xFFFFFFFFFFFFFFFF
  else if 0x2000 ≤ off ∧ off < 0x8000 then 0xFFFFFFFFFFFFFFFF
  else 0

/-- Whether the bank takes writes to its snapshot (R360). -/
def Bank.takesSnap (x : Bank) (off : Nat) : Bool :=
  x.st == .stopped || x.st == .restoring || (x.st == .empty && off == 0)

/-- A write to register `off` of the window waits there for RUN. -/
def Bank.stage (x : Bank) (off : Nat) (v : Word) : Bank := { x with staged := sput x.staged (stageKey x off) v }

/-- Write the image of CSR `n`. -/
def putImage (k : Core) (b : Bool) (n : Nat) (v : Word) : Core :=
  let k := csrImagePut k b n v
  if imageMask b n = 0 then k else k.setBank b ((k.bank b).stage (0x1000 + 8 * n) v)

/-- Write the 64-bit register at offset `off`, a multiple of 8 (R360). -/
def snapPut (k : Core) (b : Bool) (off : Nat) (v : Word) : Core :=
  let x := k.bank b
  if !x.takesSnap off then k
  else if off = 0 then k.setBank b (x.putHdr v)
  else if off = 8 then k.setBank b (x.setPc .a v)
  else if off = 16 then k.setBank b (x.setPc .x v)
  else if off = 24 then k.setBank b (x.setPc .m v)
  else if 0x100 ≤ off ∧ off < 0x400 then k.setBank b (x.putView fun i => snapLoopPut i off v)
  else if 0x1000 ≤ off ∧ off < 0x1800 then
    let n := (off - 0x1000) / 8
    if (issueCsr x.issue n).isSome then k.setBank b (x.putView fun i => issueCsrPut i n v) else putImage k b n v
  else if 0x400 ≤ off ∧ off < 0x8000 then
    if x.showsNone off then k
    else if snapMask off = 0 then k
    else k.setBank b (x.stage off (v &&& snapMask off))
  else k

end Sys2Proof.Machine
end

