-- ==== Sys2Proof/Machine/Store.lean ====
section
/-! DEFINITION. The storage of the node: bytes by location, backed and retired ranges (R198, R200), poison marks (R308),
and the windows of the CHIP aperture (R192). -/
namespace Sys2Proof.Machine

/-! ### Bytes by location (R189) -/

/-- A byte of storage; one that nothing has written reads 0 (log 3). -/
def rdByte (s : State) (loc : Nat) : Byte := sget s.mem loc 0

/-- Write one byte of storage. -/
def wrByte (s : State) (loc : Nat) (v : Byte) : State := { s with mem := sset s.mem loc v 0 }

/-- Write bytes from `loc` on. -/
def wrBytes (s : State) (loc : Nat) : List Byte → State
  | [] => s
  | v :: l => wrBytes (wrByte s loc v) (loc + 1) l

/-- The `n` bytes from `loc` on. -/
def rdBytes (s : State) (loc n : Nat) : List Byte := tab (rdByte s) loc n

/-- The canonical form of memory: addresses strictly rise and no entry reads as an unlisted one. -/
def Memory.wf (m : List Host.Cell) : Bool := swf m 0 (0 : Byte)

/-- The little-endian number in the `n` bytes from `loc` on. -/
def rdNum (s : State) (loc n : Nat) : Nat := ofBytes (rdBytes s loc n)

/-- `bits` bits from bit `bit` of byte `loc` on (R220). -/
def rdBits (s : State) (loc bit bits : Nat) : Nat := low bits (rdNum s loc ((bit + bits + 7) / 8) >>> bit)

/-- Write `bits` bits from bit `bit` of byte `loc` on; no other bit changes. -/
def wrBits (s : State) (loc bit bits v : Nat) : State :=
  if bits = 0 then s
  else
    let n := (bit + bits + 7) / 8
    let old := rdNum s loc n
    let new := low bit old + low bits v <<< bit + old >>> (bit + bits) <<< (bit + bits)
    wrBytes s loc (bytesOf new n)

/-- The first location of the scratchpads: physical addresses are below it (R191, R198). -/
def spadBase : Nat := 2 ^ 40

/-- The location of offset `o` of core `c`'s scratchpad. -/
def spadLoc (c o : Nat) : Nat := spadBase + c * 2 ^ 19 + o

/-! ### Backed addresses and banks (R198-R200) -/

def nearMap (s : State) (ch : Nat) : Near := sget s.near ch Near.zero

/-- Whether a physical address is backed (R198). -/
def backed (s : State) (pa : Nat) : Bool :=
  if pa < 2 ^ 37 then pa % 2 ^ 27 < ones 16 (nearMap s (pa / 2 ^ 27)).ilv.toNat * 2 ^ 23
  else pa - 2 ^ 37 < s.disc.far.toNat && pa < 0xA000000000

/-- The `n`-th set bit of a mask, counting from bit `i`. -/
def nthSet (mask : Nat) : Nat → Nat → Nat → Option Nat
  | 0, _, _ => none
  | f + 1, i, n => if bit mask i then (if n = 0 then some i else nthSet mask f (i + 1) (n - 1)) else nthSet mask f (i + 1) n

/-- NearPlace of R200: the bank that holds channel offset `o`. -/
def nearBank (ilv : BitVec 16) (o : Nat) : Option Nat :=
  let l := ones 16 ilv.toNat
  if l = 0 then none else nthSet ilv.toNat 16 0 (o / 4096 % l)

/-- Whether the granule of a physical address lies on a bank with ILV = 1 and LIVE = 0 (R200). -/
def retired (s : State) (pa : Nat) : Bool :=
  if pa < 2 ^ 37 then
    let m := nearMap s (pa / 2 ^ 27)
    match nearBank m.ilv (pa % 2 ^ 27) with
    | some b => !bit m.live.toNat b
    | none => false
  else false

/-- Whether the 32-byte sector of a location is poisoned (R308). -/
def poisoned (s : State) (loc : Nat) : Bool := sget s.poison (loc / 32) false

def setPoison (s : State) (loc : Nat) (p : Bool) : State := { s with poison := sset s.poison (loc / 32) p false }

/-! ### Tile containers (R260) -/

/-- The size of a container in bytes; 0 for a code no container has. -/
def containerSize (fmt : BitVec 4) : Nat :=
  match fmt.toNat with
  | 0 => 65536
  | 1 | 2 => 32768
  | 3 | 4 => 16384
  | 5 => 8736
  | _ => 0

/-! ### The CHIP aperture (R192) -/

/-- The last offset of a window kind; none for a reserved kind. -/
def chipLast (kind : Nat) : Option Nat :=
  match kind with
  | 0 => some 0x7FFFF
  | 1 => some 0x63FF
  | 2 => some 0x27F
  | 3 => some 0x7FFFF
  | 4 => some 0xFFFF
  | 5 => some 0x7FFF
  | _ => none

/-- The context bank that a CHIP access selects (R193). -/
def chipBank (k : Core) (kind off : Nat) : Bool :=
  match kind with
  | 1 | 2 => bit off 34
  | 0 => !bit k.spmask.toNat (off / 32768) && bit k.spmask.toNat (16 + off / 32768)
  | 4 => bit off 15
  | _ => false

/-- Element `e` (128 r + c) of local accumulator `j`. -/
def Core.acc (k : Core) (j e : Nat) : BitVec 32 := sget k.accs (j * 16384 + e) 0

def Core.setAcc (k : Core) (j e : Nat) (v : BitVec 32) : Core := { k with accs := sset k.accs (j * 16384 + e) v 0 }

/-- The format of the held tile and its bytes while HELD = 1 (R192, R260). -/
def heldByte (k : Core) (o : Nat) : Byte :=
  if k.bank0.mat.held && o < containerSize k.bank0.mat.heldFmt then
    match k.heldTile with
    | some e => sget e.bytes o 0
    | none => 0
  else 0

/-- Write a byte of the held tile (R192). -/
def heldPut (k : Core) (o : Nat) (v : Byte) : Core :=
  if k.bank0.mat.held && o < containerSize k.bank0.mat.heldFmt then
    let e := k.heldTile.getD ⟨k.bank0.tenant, 0, 0, false, 128, 128, k.bank0.mat.heldFmt, []⟩
    { k with heldTile := some { e with bytes := sset e.bytes o v 0 } }
  else k

/-- The 64-bit word at offset `off`, a multiple of 8, of a window of core `c`; kinds 1 to 5. -/
def chipWord (s : State) (c kind off : Nat) : Word :=
  let k := getCore s c
  let x := k.bank (chipBank k kind off)
  let o := off % 2 ^ 34
  match kind with
  | 1 =>
    if o < 0x6000 then ((x.rv (o / 512)) >>> (o % 512 * 8)).setWidth 64
    else ((x.rk ((o - 0x6000) / 128)) >>> ((o - 0x6000) % 128 * 8)).setWidth 64
  | 2 => if o < 0x100 then x.ra (o / 8) else if o < 0x200 then x.rs (o / 8 - 32) else x.rm (o / 8 - 64)
  | 3 =>
    let j := o / 0x10000
    let e := o % 0x10000 / 4
    if j < k.granted.toNat then (k.acc j (e + 1)) ++ (k.acc j e) else 0
  | 4 => snapGet s c (bit off 15) (off % 0x8000)
  | 5 => w64 (ofBytes (tab (heldByte k) o 8))
  | _ => 0

/-- A register with the 64 bits from bit `lo` on replaced. -/
def put64 {n : Nat} (r : BitVec n) (lo : Nat) (v : Word) : BitVec n :=
  merge r ((v.setWidth n) <<< lo) ((BitVec.ofNat n (2 ^ 64 - 1)) <<< lo)

/-- Write the 64-bit word at offset `off`, a multiple of 8, of a window; kinds 1 to 5. -/
def chipPut (k : Core) (kind off : Nat) (v : Word) : Core :=
  let b := chipBank k kind off
  let x := k.bank b
  let o := off % 2 ^ 34
  match kind with
  | 1 =>
    if o < 0x6000 then k.setBank b (x.wv (o / 512) (put64 (x.rv (o / 512)) (o % 512 * 8) v))
    else
      let i := (o - 0x6000) / 128
      k.setBank b (x.wk i (put64 (x.rk i) ((o - 0x6000) % 128 * 8) v))
  | 2 =>
    if o < 0x100 then k.setBank b (x.wa (o / 8) v)
    else if o < 0x200 then k.setBank b (x.ws (o / 8 - 32) v)
    else k.setBank b (x.wm (o / 8 - 64) v)
  | 3 =>
    let j := o / 0x10000
    let e := o % 0x10000 / 4
    if j < k.granted.toNat then (k.setAcc j e (v.setWidth 32)).setAcc j (e + 1) (v.extractLsb' 32 32) else k
  | 4 => snapPut k b (off % 0x8000) v
  | 5 => (tab (fun i => i) 0 8).foldl (fun k i => heldPut k (o + i) (v.extractLsb' (8 * i) 8)) k
  | _ => k

/-- The `n` bytes at offset `off` of a window, as a number. -/
def chipRead (s : State) (c kind off n : Nat) : Nat :=
  if n ≤ 8 then low (8 * n) ((chipWord s c kind (off / 8 * 8)).toNat >>> (off % 8 * 8))
  else pack 64 (tab (fun i => (chipWord s c kind (off + 8 * i)).toNat) 0 (n / 8))

/-- Write `n` bytes at offset `off` of a window. -/
def chipWrite (s : State) (c kind off n v : Nat) : State :=
  if n ≤ 8 then
    let w := (chipWord s c kind (off / 8 * 8)).toNat
    let sh := off % 8 * 8
    let new := low sh w + low (8 * n) v <<< sh + w >>> (sh + 8 * n) <<< (sh + 8 * n)
    modCore s c fun k => chipPut k kind (off / 8 * 8) (w64 new)
  else
    modCore s c fun k => (tab (fun i => i) 0 (n / 8)).foldl (fun k i => chipPut k kind (off + 8 * i) (w64 (elem v 64 i))) k

/-! ### Places -/

/-- The bits that a place holds; clamped bits read zero (R224). -/
def rdPlace (s : State) (p : Place) : Nat :=
  match p.tgt with
  | .mem loc b => low p.keep (rdBits s loc b p.bits)
  | .chip c kind off b => low p.keep (chipRead s c kind off ((b + p.bits + 7) / 8) >>> b)
  | .node _ _ => 0

/-- Write a place; the bits from `keep` on keep their value (R224). A write of a whole sector clears its poison (R308). -/
def wrPlace (s : State) (p : Place) (v : Nat) : State :=
  match p.tgt with
  | .mem loc b =>
    let s := wrBits s loc b p.keep v
    if p.keep = 256 ∧ loc % 32 = 0 ∧ b = 0 then setPoison s loc false else s
  | .chip c kind off b =>
    let n := (b + p.bits + 7) / 8
    let old := chipRead s c kind off n
    chipWrite s c kind off n (low b old + low p.bits v <<< b + old >>> (b + p.bits) <<< (b + p.bits))
  | .node _ _ => s

end Sys2Proof.Machine
end

