-- ==== Sys2Proof/Machine/Translate.lean ====
section
/-! DEFINITION. Generic addresses: apertures (R187), page tables, plane sets and frames (R212-R225), Resolve (R188) and
the checks of the sectors an access names (R200, R308). -/
namespace Sys2Proof.Machine

/-- The view of the context in bank `b` of core `c`. -/
def viewOf (s : State) (c : Nat) (b : Bool) : View :=
  let x := getBank s c b
  ⟨c, b, x.tenant, x.priv, x.xlat, x.privBase, x.privSize, x.chipGrant, true⟩

/-- Why an address does not resolve: the frame is being exchanged (R229); a walk of its virtual page is asked for (R227); or a
fault, at an address of its own if given. -/
inductive XErr where
  | wait
  | walk (page : Nat)
  | fault (code : FaultCode) (info : Word) (addr : Option Word)
  deriving DecidableEq, Repr

abbrev X (α : Type) := Except XErr α

def xfault {α : Type} (code : FaultCode) (info : Word) : X α := .error (.fault code info none)

/-- GAP (R225). -/
def gap {α : Type} (detail level : Nat) : X α := xfault .gap (faultInfo 0 0 level detail)

/-- An access of the device found: where its data lies, how many addresses its data spans and how many addresses from its
own on it covers (R188), whether R224 clamped it, and what translated it. -/
structure Found where
  places : List Place
  span : Nat
  past : Nat
  clamped : Bool
  uses : List Used
  deriving DecidableEq, Repr

/-- Read `n` bytes of a page table, PSD or frame table; `what` goes to TCODE of its faults (R225, R308). -/
def readStruct (s : State) (pa n what : Nat) : X Nat :=
  if !backed s pa then gap 1 what
  else if poisoned s pa || poisoned s (pa + n - 1) || retired s pa then
    xfault .dataPoison (faultInfo 1 0 what (if retired s pa then 1 else 3))
  else .ok (rdNum s pa n)

/-! ### Page tables (R217, R218) -/

/-- The address bits below a leaf of a level. -/
def leafShift (level : Nat) : Nat := 12 + 9 * (level - 1)

/-- Whether a valid entry is malformed by itself (R218). -/
def entryBad (level e : Nat) : Bool :=
  if bit e 1 then
    level == 4 || fld e 5 7 != 0 ||
      (!bit e 2 && (fld e 48 16 != 0 || fld e 40 8 != 0 || fld e 12 (leafShift level - 12) != 0))
  else level == 1 || fld e 48 16 != 0 || fld e 40 8 != 0 || fld e 2 10 != 0

/-! ### Plane sets (R213, R214) -/

def psdPosCount (d : Nat) : Nat := fld d 0 48
def psdPlanes (d : Nat) : Nat := fld d 48 4
def psdAttr (d n : Nat) : Nat := fld d (128 + 16 * n) 16
def psdFtb (d n : Nat) : Nat := fld d (256 + 32 * n) 32

/-- A view code is reserved at 10 (R214). -/
def attrBad (a : Nat) : Bool :=
  fld a 14 2 != 0 || bit a 5 || 4 < fld a 0 3 || (tab (fun v => fld a (6 + 2 * v) 2) 0 4).contains 2

/-- A malformed PSD (R214). -/
def psdBad (d : Nat) : Bool :=
  fld d 56 8 != 1 || fld d 52 4 != 0 || fld d 64 64 != 0 || psdPlanes d == 0 || 8 < psdPlanes d || psdPosCount d == 0 ||
  (tab (fun n => if n < psdPlanes d then attrBad (psdAttr d n) else psdAttr d n != 0 || psdFtb d n != 0) 0 8).contains true

/-- The width of a plane's elements (R214). -/
def planeWidth (a : Nat) : Nat :=
  match fld a 0 3 with
  | 0 => 1
  | 1 => 4
  | 2 => 8
  | 3 => 16
  | _ => 32

def ofX (n : Nat) : BitVec 512 := BitVec.ofNat 512 n

/-- What a read of a walk comes to: the next one, or the end with the level of the leaf, the leaf and its PSD. -/
abbrev ReadOn := Reading ⊕ (Nat × Nat × Nat)

/-- A well-formed leaf `e` of level `n` has been found: its PSD comes next, if it has one (R218). -/
def leafFound (v : View) (n e : Nat) : X ReadOn :=
  if !bit e 2 then .ok (.inr (n, e, 0))
  else if v.xlat.psdn.toNat ≤ fld e 48 16 then gap 3 n
  else .ok (.inl ⟨5, 0, w64 e, BitVec.ofNat 2 n⟩)

/-- The next read of a walk: an entry of a page table, or the PSD of a position leaf (R217, R218, R223, R226). -/
def readOn (s : State) (v : View) (va : Nat) (r : Reading) : X ReadOn := do
  let n := r.level.toNat
  if n = 5 then
    let d ← readStruct s (v.xlat.psdt.toNat / 64 * 64 + 64 * fld r.leaf.toNat 48 16) 64 5
    if psdBad d then gap 3 r.leafLevel.toNat else .ok (.inr (r.leafLevel.toNat, r.leaf.toNat, d))
  else
    let table := if n = 4 then v.xlat.root.toNat / 4096 * 4096 else r.table.toNat
    let e ← readStruct s (table + 8 * fld va (leafShift n) 9) 8 n
    if !bit e 0 then gap 0 n
    else if entryBad n e then gap 2 n
    else if bit e 1 then leafFound v n e
    else .ok (.inl ⟨r.level - 1, w64 (fld e 12 28 * 4096), 0, 0⟩)

/-- A walk that has read nothing. -/
def Reading.start : Reading := ⟨4, 0, 0, 0⟩

/-- At most `n` further reads of a walk. -/
def walkFrom (s : State) (v : View) (va : Nat) : Nat → Reading → X (Nat × Nat × Nat)
  | 0, _ => gap 2 1
  | n + 1, r => do
    match ← readOn s v va r with
    | .inl r => walkFrom s v va n r
    | .inr x => .ok x

/-- The leaf of a virtual address with its PSD (0 for a byte leaf), read from memory (R217, R218, R223). -/
def walkMem (s : State) (v : View) (va : Nat) : X (Nat × Nat × Nat) := walkFrom s v va 5 Reading.start

/-- A cached leaf serves only its own context (R226). -/
def tlbHit (v : View) (va : Nat) (t : TlbEntry) : Bool :=
  t.tenant == v.tenant && t.bank == b2n v.bank && va / 2 ^ leafShift t.level.toNat == t.vbase.toNat / 2 ^ leafShift t.level.toNat

/-- A leaf found with its level, its PSD, and the number of the walk that delivered it (R365). -/
structure LeafAt where
  level : Nat
  leaf : Nat
  psd : Nat
  walk : Option Nat

/-- The walks in flight of a cluster (R226). -/
def walkSlots : Nat := 128

/-- A miss of a context (R227): what has been delivered to the one that looks up; or a walk of the page is asked for, where one is in
flight, no walker is free, or a walk of it has delivered to something (`walkAnswer`); else it walks at once (log 7). -/
def missed (s : State) (v : View) (va : Nat) : X LeafAt :=
  let page := va / 4096
  let k := getCore s v.core
  let walks := (getCluster s (clusterOf v.core)).walks
  match (k.bank v.bank).given.find? fun r => r.page.toNat == page with
  | some ⟨_, _, .fault code info⟩ => xfault code info
  | some ⟨_, _, .leaf level leaf psd n⟩ => .ok ⟨level.toNat, leaf.toNat, psd.toNat, some n⟩
  | none =>
    if walks.any (fun w => w.is v.core (b2n v.bank) v.tenant page) || walkSlots ≤ walks.length ||
        (k.deliveries v.bank).any (fun r => r.page.toNat == page) then .error (.walk page)
    else (walkMem s v va).map fun r => ⟨r.1, r.2.1, r.2.2, none⟩

/-- Walk of R223: a cached leaf of the context if one covers the address, else the tables (R226, log 7). -/
def walk (s : State) (v : View) (va : Nat) : X LeafAt :=
  if v.cached then
    match ((getCore s v.core).tlb ++ (getTable s (tableOf v.core)).tlb).find? (tlbHit v va) with
    | some t => .ok ⟨t.level.toNat, t.leaf.toNat, t.psd.toNat, none⟩
    | none => missed s v va
  else (walkMem s v va).map fun r => ⟨r.1, r.2.1, r.2.2, none⟩

/-- The physical address of the entry of frame `f` of plane `p` (R220). -/
def frameTablePa (psd p f : Nat) : Nat := psdFtb psd p * 256 + 8 * f

/-- FrameEntry of R223: through the plane-frame cache (R226), with the physical address that it was read from. -/
def frameEntry (s : State) (v : View) (psdid p ftb f : Nat) : X (Nat × Nat) :=
  let hit := fun (e : PfcEntry) =>
    e.tenant == v.tenant && e.bank == b2n v.bank && e.psdid.toNat == psdid && e.plane.toNat == p && e.frame.toNat == f
  match if v.cached then (getTable s (tableOf v.core)).pfc.find? hit else none with
  | some e => .ok (e.fte.toNat, e.pa)
  | none => (readStruct s (ftb * 256 + 8 * f) 8 0).map fun e => (e, ftb * 256 + 8 * f)

/-- The physical address of frame `f` of plane `p`, whose width is `w`, and that of its entry (R221, R223, R229). -/
def frameOf (s : State) (v : View) (psdid psd p w f : Nat) : X (Nat × Nat) := do
  let (e, pa) ← frameEntry s v psdid p (psdFtb psd p) f
  if bit e 2 then .error .wait
  else if !bit e 0 then xfault .planeAbsent (faultInfo 3 0 psdid f)
  else
    let frame := fld e 6 34 * 64
    if fld e 40 24 ≠ 0 ∨ fld e 4 2 ≠ 0 ∨ frame % (512 * w) ≠ 0 then gap 1 0
    else if !(backed s frame && backed s (frame + 512 * w - 1)) then gap 1 0
    else .ok (frame, pa)

/-! ### Translate (R222-R224) -/

/-- The base of the page that a leaf maps. -/
def LeafAt.base (r : LeafAt) (va : Nat) : Nat := va / 2 ^ leafShift r.level * 2 ^ leafShift r.level

/-- What an access at `va` through this leaf records. -/
def LeafAt.used (r : LeafAt) (va : Nat) : Used :=
  .leaf (BitVec.ofNat 48 (r.base va)) (BitVec.ofNat 2 r.level)
    (if bit r.leaf 2 then some (BitVec.ofNat 16 (fld r.leaf 48 16)) else none) r.walk

/-- Align(n) of R188. -/
def alignOf (n : Nat) : Nat := if n ≤ 8 then n else 32

/-- Consecutive bits of storage as places of at most one 32-byte sector each. -/
def sectors (loc b bits keep : Nat) : List Place :=
  if bits ≤ 256 then [⟨.mem loc b, bits, keep⟩]
  else tab (fun i => ⟨.mem (loc + 32 * i) 0, 256, min 256 (keep - 256 * i)⟩) 0 (bits / 256)

/-- PERMISSION (R225). -/
def permission {α : Type} (wr : Bool) (v : View) (plane : Bool) : X α :=
  xfault .permission (faultInfo (if wr then 2 else 1) 0 (v.xlat.view.toNat % 4) (b2n plane))

/-- Permission of a leaf and, in a position region, of the plane's view code (R223, R225). Where both deny the access the leaf is
reported (DESIGN CHOICE, log 43). -/
def permitted (v : View) (leaf : Nat) (code : Option Nat) (rd wr : Bool) : X Unit :=
  if wr && !bit leaf 4 then permission true v false
  else if wr && code.getD 3 != 3 then permission true v true
  else if rd && !bit leaf 3 then permission false v false
  else if rd && code.getD 3 == 0 then permission false v true
  else .ok ()

/-- Translate of R223. `lane` marks a GATH or SCAT lane, which covers one element (R222). -/
def translate (s : State) (v : View) (va p n : Nat) (rd wr lane : Bool) : X Found := do
  let r ← walk s v va
  let (leaf, psd, base) := (r.leaf, r.psd, r.base va)
  if !bit leaf 2 then
    if p ≠ 0 then xfault .planeAbsent (faultInfo 1)
    else if va % alignOf n ≠ 0 then xfault .illegal (faultInfo 9)
    else
      permitted v leaf none rd wr
      let pa := fld leaf 12 28 * 4096 + (va - base)
      if backed s pa && backed s (pa + n - 1) then
        .ok ⟨sectors pa 0 (8 * n) (8 * n), n, n, false, [r.used va]⟩
      else gap 1 0
  else
    let psdid := fld leaf 48 16
    if psdPlanes psd ≤ p then xfault .planeAbsent (faultInfo 2 0 psdid)
    else
      let a := psdAttr psd p
      let w := planeWidth a
      let g := if bit a 3 then 64 else 1
      let pos := 4096 * fld leaf 12 36 + (va - base)
      let c := if lane then 1 else 8 * n / w
      let u := pos / g
      if !lane && 8 * n < w then xfault .illegal (faultInfo 9)
      else if u % c ≠ 0 then xfault .illegal (faultInfo 9)
      else if psdPosCount psd ≤ pos then xfault .bounds (faultInfo 0 0 psdid pos)
      else
        permitted v leaf (some (fld a (6 + 2 * (v.xlat.view.toNat % 4)) 2)) rd wr
        let (frame, pa) ← frameOf s v psdid psd p w (u / 4096)
        let keep := min c ((psdPosCount psd + g - 1) / g - u)
        let b := u % 4096 * w
        .ok ⟨sectors (frame + b / 8) (b % 8) (c * w) (keep * w), c * g, c * g - pos % g, keep < c,
          [r.used va, .frame (BitVec.ofNat 16 psdid) pa]⟩

/-! ### Generic addresses (R187) -/

inductive Aperture where
  | global
  | priv
  | spad
  | clus
  | chip
  | node
  | malformed
  deriving DecidableEq, Repr

/-- The aperture of an address; an unassigned bit set makes it malformed (R187). -/
def aperture (x : Word) : Aperture :=
  let n := x.toNat
  if fld n 62 2 = 3 then .node
  else
    match fld n 56 8 with
    | 0x00 => if fld n 48 8 = 0 then .global else .malformed
    | 0x80 => if fld n 32 24 = 0 then .priv else .malformed
    | 0x81 => if fld n 48 8 = 0 ∧ fld n 19 19 = 0 then .spad else .malformed
    | 0x82 => if fld n 46 10 = 0 ∧ fld n 19 21 = 0 then .clus else .malformed
    | 0x83 => if fld n 48 8 = 0 then .chip else .malformed
    | _ => .malformed

/-- The ASPC code (R187, R209). -/
def Aperture.code : Aperture → Nat
  | .global => 0
  | .priv => 1
  | .spad => 2
  | .clus => 3
  | .chip => 4
  | .node => 5
  | .malformed => 15

/-- SPACE with its subcode, the ASPC code and the core named (R188). -/
def spaceFault {α : Type} (sub : Nat) (ap : Aperture) (core : Nat) (addr : Option Word := none) : X α :=
  .error (.fault .space (w64 (sub + ap.code * 2 ^ 32 + core * 2 ^ 36)) addr)

/-- Whether R193 allows the view a CHIP access of a kind to a core. -/
def chipAllowed (s : State) (v : View) (core kind off : Nat) (wr : Bool) : Bool :=
  let k := getCore s core
  let x := k.bank (chipBank k kind off)
  v.priv ||
    (v.grant.getLsbD kind && (!wr || v.grant.getLsbD 8) && (clusterOf core == clusterOf v.core || v.grant.getLsbD 9) &&
      x.st != .empty && x.tenant == v.tenant)

/-- Chip of R188: the windows of R192 and the grants of R193. -/
def resolveChip (s : State) (v : View) (x : Nat) (n : Nat) (wr : Bool) : X Found :=
  let core := fld x 38 10
  let kind := fld x 35 3
  let off := fld x 0 34
  match chipLast kind with
  | none => spaceFault 1 .chip core
  | some last =>
    if last < off + n - 1 ∨ (bit x 34 ∧ kind ≠ 1 ∧ kind ≠ 2) then spaceFault 1 .chip core
    else if !chipAllowed s v core kind (fld x 0 35) wr then spaceFault 3 .chip core
    else if kind = 0 then .ok ⟨sectors (spadLoc core off) 0 (8 * n) (8 * n), n, n, false, []⟩
    else .ok ⟨[⟨.chip core kind (fld x 0 35) 0, 8 * n, 8 * n⟩], n, n, false, []⟩

/-- A window of the GLOBAL space: PRIV, or this node's own NODE addresses (R188, R190, R195). -/
def resolveWindow (s : State) (v : View) (ap : Aperture) (base size off p n : Nat) (endAddr : Word) (rd wr lane : Bool) :
    X Found := do
  if size ≤ off then spaceFault 3 ap 0
  else
    let t ← translate s v ((base + off) % 2 ^ 48) p n rd wr lane
    if size < off + t.past then spaceFault 3 ap 0 (some endAddr) else .ok t

/-- The scratchpad banks that a context may use (R345, R346). -/
def spadMask (s : State) (c : Nat) (b : Bool) : Nat := fld (getCore s c).spmask.toNat (if b then 16 else 0) 16

/-- Whether every scratchpad bank from offset `off` to `off + n - 1` satisfies `p`. -/
def spadBanks (off n : Nat) (p : Nat → Bool) : Bool :=
  (tab p (off / 32768) ((off + n - 1) / 32768 + 1 - off / 32768)).all id

/-- SPAD and CLUS accesses (R188, R191, R345). -/
def resolveSpad (s : State) (v : View) (ap : Aperture) (core off n : Nat) : X Found :=
  if 0x80000 < off + n then spaceFault 1 ap core
  else if ap = .spad ∧ core ≠ v.core then spaceFault 2 ap core
  else if ap = .clus ∧ !spadBanks off n (fun b => sget (getCore s core).spadOwner b none == some v.tenant) then
    spaceFault 3 ap core
  else if core = v.core ∧ !spadBanks off n (fun b => bit (spadMask s v.core v.bank) b) then spaceFault 3 ap core
  else .ok ⟨sectors (spadLoc core off) 0 (8 * n) (8 * n), n, n, false, []⟩

/-- Resolve of R188 for `n` bytes (or one lane) at `x` in plane `p`. A NODE address of another node resolves to that
node's window (R195). -/
def resolve (s : State) (v : View) (x : Word) (p n : Nat) (rd wr lane : Bool) : X Found :=
  let a := x.toNat
  match aperture x with
  | .malformed => spaceFault 1 .malformed 0
  | .global => translate s v (fld a 0 48) p n rd wr lane
  | .priv =>
    resolveWindow s v .priv v.privBase.toNat v.privSize.toNat (fld a 0 32) p n (0x8000000000000000 + v.privSize) rd wr lane
  | .node =>
    if fld a 40 22 = s.fabric.label.toNat then
      resolveWindow s v .node s.fabric.winBase.toNat s.fabric.winSize.toNat (fld a 0 40) p n
        (w64 (3 * 2 ^ 62 + fld a 40 22 * 2 ^ 40 + s.fabric.winSize.toNat)) rd wr lane
    else .ok ⟨[⟨.node (BitVec.ofNat 22 (fld a 40 22)) (BitVec.ofNat 40 (fld a 0 40)), 8 * n, 8 * n⟩], n, n, false, []⟩
  | ap =>
    if a % alignOf n ≠ 0 then xfault .illegal (faultInfo 9)
    else
      let core := if ap = .clus then 64 * clusterOf v.core + fld a 40 6 else fld a 38 10
      if p ≠ 0 then spaceFault 1 ap core
      else if ap = .chip then resolveChip s v a n wr
      else resolveSpad s v ap core (fld a 0 19) n

/-- A fault of address resolution as the word's fault: FAULT.ADDR, FAULT.PLANE and FAULT.SUIT (R188). -/
def liftX {α : Type} (x : Word) (p : BitVec 3) (su : BitVec 4) : X α → Act α
  | .ok a => .ok a
  | .error .wait => stall
  | .error (.walk page) => .error (.walk page)
  | .error (.fault code info addr) => .error (.fault code (addr.getD x) p su info)

/-- The address in this node's GLOBAL space that a generic address leads to; none where it leads elsewhere. -/
def globalVa (s : State) (v : View) (x : Word) : Option Nat :=
  let a := x.toNat
  match aperture x with
  | .global => some (fld a 0 48)
  | .priv => if fld a 0 32 < v.privSize.toNat then some ((v.privBase.toNat + fld a 0 32) % 2 ^ 48) else none
  | .node =>
    if fld a 40 22 = s.fabric.label.toNat ∧ fld a 0 40 < s.fabric.winSize.toNat then
      some ((s.fabric.winBase.toNat + fld a 0 40) % 2 ^ 48)
    else none
  | _ => none

/-- The leaf and the PSD of an address of this node's GLOBAL space; none elsewhere or where the walk faults. -/
def leafAt (s : State) (v : View) (x : Word) : Option (Nat × Nat) :=
  (globalVa s v x).bind fun va => match walk s v va with
    | .ok r => some (r.leaf, r.psd)
    | .error _ => none

/-- Whether an address lies in a position region of this node (R212). -/
def inPosition (s : State) (v : View) (x : Word) : Bool :=
  match leafAt s v x with
  | some (leaf, _) => bit leaf 2
  | none => false

/-- Whether an address lies in a position region of this node, once the walk of its page has ended; one that the walk faults at
does not (R212, R227). -/
def regionOf (s : State) (v : View) (x : Word) : X Bool :=
  match globalVa s v x with
  | none => .ok false
  | some va =>
    match walk s v va with
    | .ok r => .ok (bit r.leaf 2)
    | .error (.fault _ _ _) => .ok false
    | .error e => .error e

/-- In a position region an atomic of `n` bytes needs plane 0 to be exactly that wide (R334). -/
def atomicFits (s : State) (v : View) (x : Word) (n : Nat) : Bool :=
  match leafAt s v x with
  | some (leaf, psd) => !bit leaf 2 || planeWidth (psdAttr psd 0) == 8 * n
  | none => true

/-- Whether a NODE address names another node (R195). -/
def isRemote (s : State) (x : Word) : Bool := aperture x = .node && fld x.toNat 40 22 != s.fabric.label.toNat

/-! ### The state of the sectors an access names (R200, R308) -/

/-- DETAIL of the DATA_POISON fault that a place raises: a retired bank, or a poisoned sector that is read or written
only in part; none where the access may proceed. -/
def placeFault (s : State) (rd wr : Bool) (p : Place) : Option Nat :=
  match p.tgt with
  | .mem loc b =>
    if p.keep = 0 then none
    else if loc < spadBase ∧ retired s loc then some 1
    else if poisoned s loc && (rd || (wr && !(p.keep == 256 && b == 0 && loc % 32 == 0))) then some 0
    else none
  | .chip c kind off _ =>
    if kind = 3 ∧ rd ∧ (getCore s c).apois.getLsbD (off / 0x10000) then some 0 else none
  | .node _ _ => none

/-- The first place of a list that raises DATA_POISON, with its number. -/
def firstBad (s : State) (rd wr : Bool) : List Place → Nat → Option (Nat × Nat)
  | [], _ => none
  | p :: l, i =>
    match placeFault s rd wr p with
    | some d => some (i, d)
    | none => firstBad s rd wr l (i + 1)

end Sys2Proof.Machine
end

