-- ==== Sys2Proof/Machine/Number.lean ====
section
/-! DEFINITION. Number formats (R58-R68), rounding (R69-R77), the order of sums (R79, R80) and the arithmetic helpers of
R167, R170, R171, R175-R177. -/
namespace Sys2Proof.Machine

/-! ### Exact values -/

/-- What Decode returns (R63): NaN, ±Inf, ±0, or the nonzero value ± num / den × 2^exp. -/
inductive Val where
  | nan
  | inf (neg : Bool)
  | zero (neg : Bool)
  | fin (neg : Bool) (num den : Nat) (exp : Int)
  deriving DecidableEq, Repr

namespace Val

def neg : Val → Val
  | .nan => .nan
  | .inf s => .inf !s
  | .zero s => .zero !s
  | .fin s n d e => .fin (!s) n d e

def isNan : Val → Bool
  | .nan => true
  | _ => false

def isZero : Val → Bool
  | .zero _ => true
  | _ => false

def isInf : Val → Bool
  | .inf _ => true
  | _ => false

/-- The sign of a value that is not NaN. -/
def sign : Val → Bool
  | .nan => false
  | .inf s | .zero s => s
  | .fin s _ _ _ => s

def abs : Val → Val
  | .nan => .nan
  | .inf _ => .inf false
  | .zero _ => .zero false
  | .fin _ n d e => .fin false n d e

/-- An integer as a value; 0 is +0. -/
def ofInt (z : Int) : Val := if z = 0 then .zero false else .fin (z < 0) z.natAbs 1 0

/-- An integer times 2^e. -/
def scaled (z : Int) (e : Int) : Val := if z = 0 then .zero false else .fin (z < 0) z.natAbs 1 e

end Val

/-- The integer n × 2^k, for k ≥ 0. -/
def up2 (n : Nat) (k : Int) : Nat := n <<< k.toNat

/-- floor(log2 (n / d × 2^e)) for n, d > 0. -/
def floorLog2 (n d : Nat) (e : Int) : Int :=
  let l : Int := (n.log2 : Int) - d.log2
  let below := if 0 ≤ l then n < up2 d l else up2 n (-l) < d
  (if below then l - 1 else l) + e

/-- (n / d × 2^e) / 2^q as a numerator and a denominator. -/
def ratio (n d : Nat) (e q : Int) : Nat × Nat := if q ≤ e then (up2 n (e - q), d) else (n, up2 d (q - e))

/-- The exact product; 0 × Inf is NaN. -/
def vmul : Val → Val → Val
  | .nan, _ | _, .nan => .nan
  | .inf _, .zero _ | .zero _, .inf _ => .nan
  | .inf s, y => .inf (s != y.sign)
  | x, .inf t => .inf (x.sign != t)
  | .zero s, y => .zero (s != y.sign)
  | x, .zero t => .zero (x.sign != t)
  | .fin s n d e, .fin t m c f => .fin (s != t) (n * m) (d * c) (e + f)

/-- The exact sum; opposite infinities give NaN. A zero sum of nonzero values, or of zeros of both signs, is `.zero z`. -/
def vadd (z : Bool) : Val → Val → Val
  | .nan, _ | _, .nan => .nan
  | .inf s, .inf t => if s = t then .inf s else .nan
  | .inf s, _ => .inf s
  | _, .inf t => .inf t
  | .zero s, .zero t => .zero (if s = t then s else z)
  | .zero _, y => y
  | x, .zero _ => x
  | .fin s n d e, .fin t m c f =>
    let g := min e f
    let a : Int := up2 (n * c) (e - g)
    let b : Int := up2 (m * d) (f - g)
    let r := (if s then -a else a) + (if t then -b else b)
    if r = 0 then .zero z else .fin (r < 0) r.natAbs (d * c) g

/-- The exact quotient of a finite value by a nonzero finite one. -/
def vdiv : Val → Val → Val
  | .fin s n d e, .fin t m c f => .fin (s != t) (n * c) (d * m) (e - f)
  | .zero s, y => .zero (s != y.sign)
  | _, _ => .nan

/-! ### Formats (R45, R58-R61) -/

/-- Whether a code names a floating format. -/
def isFloat (f : Nat) : Bool := f < 5

/-- The width of a format in bits. -/
def fmtWidth (f : Nat) : Nat :=
  match f with
  | 0 | 10 | 13 => 32
  | 1 | 2 | 6 | 9 | 12 => 16
  | 3 | 4 | 8 | 11 => 8
  | _ => 4

/-- Whether an integer format is signed. -/
def fmtSigned (f : Nat) : Bool := f == 8 || f == 9 || f == 10 || f == 14

/-- m of R59; for S12, R72. -/
def fracBits (f : Nat) : Nat :=
  match f with
  | 0 => 23
  | 1 => 7
  | 2 => 10
  | 3 => 3
  | 4 => 2
  | _ => 8

/-- The width of the exponent field. -/
def expBits (f : Nat) : Nat :=
  match f with
  | 0 | 1 => 8
  | 2 | 4 => 5
  | _ => 4

/-- emin of R59; for S12, R72. -/
def emin (f : Nat) : Int :=
  match f with
  | 0 | 1 => -126
  | 3 => -6
  | _ => -14

/-- The encoding of the largest finite value. -/
def maxEnc (f : Nat) : Nat :=
  match f with
  | 0 => 0x7F7FFFFF
  | 1 => 0x7F7F
  | 2 => 0x7BFF
  | 3 => 0x7E
  | 4 => 0x7B
  | _ => 0xFFE

def infEnc (f : Nat) : Nat := maxEnc f + 1

/-- The canonical NaN (R61). -/
def canonNan (f : Nat) : Nat :=
  match f with
  | 0 => 0x7FC00000
  | 1 => 0x7FC0
  | 2 => 0x7E00
  | 3 => 0x7F
  | _ => 0x7E

/-- The encoding with its sign. -/
def withSign (f : Nat) (neg : Bool) (e : Nat) : Nat := e + b2n neg * 2 ^ (fmtWidth f - 1)

/-- Decode of R63 for the floating formats (R60). -/
def decodeF (f b : Nat) : Val :=
  let m := fracBits f
  let neg := bit b (fmtWidth f - 1)
  let x := fld b 0 (fmtWidth f - 1)
  let e := x / 2 ^ m
  let fr := x % 2 ^ m
  if f = 3 ∧ x = 0x7F then .nan
  else if f ≠ 3 ∧ e = 2 ^ expBits f - 1 then (if fr = 0 then .inf neg else .nan)
  else if x = 0 then .zero neg
  else if e = 0 then .fin neg fr 1 (emin f - m)
  else .fin neg (2 ^ m + fr) 1 (emin f - m + (e - 1 : Nat))

/-- S12Value (R65). -/
def s12Value (c : Nat) : Val :=
  let e := fld c 8 4
  let m := fld c 0 8
  if fld c 12 4 ≠ 0 ∨ fld c 0 12 = 0xFFF then .nan
  else if e = 0 then .scaled m (-22)
  else .fin false (256 + m) 1 ((e : Int) - 23)

/-- Decode of R63. NQ4 codes have no value of their own. -/
def decode_ (f b : Nat) : Val :=
  if isFloat f then decodeF f b
  else if f = 6 then s12Value b
  else if fmtSigned f then .ofInt (sx (fmtWidth f) b) else .ofInt b

/-! ### Flags of R74, at their places in XFLAGS -/

def flNX : Nat := 1
def flUF : Nat := 2
def flOF : Nat := 4
def flDZ : Nat := 8
def flNV : Nat := 16

/-! ### Rounding (R69-R73, R75-R77) -/

/-- SRHash (R75). -/
def srHash (seed idx : BitVec 32) : BitVec 32 :=
  let h := seed ^^^ (idx * 0x9E3779B9#32)
  let h := h ^^^ (h >>> 16)
  let h := h * 0x85EBCA6B#32
  let h := h ^^^ (h >>> 13)
  let h := h * 0xC2B2AE35#32
  h ^^^ (h >>> 16)

/-- How a rounding is to be done: its mode (R46), the sat argument, the seed and index of SR, and the format that the
value comes from in a conversion (R77). -/
structure RMode where
  mode : Nat
  sat : Bool
  seed : BitVec 32
  idx : Nat
  src : Option Nat

/-- Round to nearest even, as GroupSum and unpacking do. -/
def RMode.rne : RMode := ⟨0, false, 0, 0, none⟩

/-- RoundsUp of R70: `r / d` is fr, `n` the integer below, `neg` the sign, `k` of R77. -/
def roundsUp (m : RMode) (neg : Bool) (r d n k : Nat) : Bool :=
  if r = 0 then false
  else
    match m.mode with
    | 0 => d < 2 * r || (2 * r == d && n % 2 == 1)
    | 1 => false
    | 2 => neg
    | 3 => !neg
    | 4 => d ≤ 2 * r
    | _ => 2 ^ k ≤ r * 2 ^ k / d + (srHash m.seed (BitVec.ofNat 32 m.idx)).toNat >>> (32 - k)

/-- The exponent of the spacing of a format at a magnitude whose floor(log2) is `l`. -/
def spacing (f : Nat) (l : Int) : Int := if isFloat f ∨ f = 6 then max l (emin f) - fracBits f else 0

/-- k of R77 for target spacing 2^q. -/
def kBits (m : RMode) (l q : Int) : Nat :=
  match m.src with
  | none => 16
  | some f => min 16 (q - spacing f l).toNat

/-- The result of R71 on overflow. -/
def overflow (f : Nat) (m : RMode) (neg : Bool) : Nat × Nat :=
  let e :=
    if f = 6 then (if m.sat then 0xFFE else 0xFFF)
    else if m.sat then withSign f neg (maxEnc f)
    else if f = 3 then canonNan 3
    else
      match m.mode with
      | 1 => withSign f neg (maxEnc f)
      | 2 => if neg then withSign f true (infEnc f) else maxEnc f
      | 3 => if neg then withSign f true (maxEnc f) else infEnc f
      | _ => withSign f neg (infEnc f)
  (e, flOF + flNX)

/-- InfTo (R72). -/
def infTo (f : Nat) (sat neg : Bool) : Nat × Nat :=
  if f = 3 then (if sat then (withSign 3 neg 0x7E, 0) else (0x7F, flNV))
  else (withSign f neg (if sat then maxEnc f else infEnc f), 0)

/-- IntTo (R73). NX needs x itself to lie within the range of the target: |x| rounded up to an integer is `up`. -/
def intTo (f : Nat) (m : RMode) (x : Val) : Nat × Nat :=
  let w := fmtWidth f
  let lo : Int := if fmtSigned f then -(2 ^ (w - 1) : Nat) else 0
  let hi : Int := (if fmtSigned f then (2 ^ (w - 1) : Nat) else (2 ^ w : Nat)) - 1
  match x with
  | .nan => (0, flNV)
  | .inf s => (wrapI w (if s then lo else hi), flNV)
  | .zero _ => (0, 0)
  | .fin s n d e =>
    let (p, q) := ratio n d e 0
    let t := p / q
    let r := p % q
    let y := if roundsUp m s r q t (kBits m (floorLog2 n d e) 0) then t + 1 else t
    let z : Int := if s then -y else y
    let up : Int := if r = 0 then t else t + 1
    if z < lo then (wrapI w lo, flNV) else if hi < z then (wrapI w hi, flNV)
    else (wrapI w z, if r = 0 ∨ (if s then -lo else hi) < up then 0 else flNX)

/-- RoundTo (R70): the encoding and the flags raised. -/
def roundTo (f : Nat) (m : RMode) (x : Val) : Nat × Nat :=
  if !(isFloat f || f = 6) then intTo f m x
  else
    match x with
    | .nan => (if f = 6 then 0xFFF else canonNan f, 0)
    | .inf s => if f = 6 then (0xFFF, 0) else infTo f m.sat s
    | .zero s => (if f = 6 then 0 else withSign f s 0, 0)
    | .fin s n d e =>
      if f = 6 ∧ s then (0xFFF, 0)
      else
        let l := floorLog2 n d e
        let q := spacing f l
        let (a, b) := ratio n d e q
        let t := a / b
        let r := a % b
        let y := if roundsUp m s r b t (kBits m l q) then t + 1 else t
        let enc := (q - (emin f - fracBits f)).toNat * 2 ^ fracBits f + y
        let fl := if r = 0 then 0 else if l < emin f then flNX + flUF else flNX
        if maxEnc f < enc then overflow f m s else (if f = 6 then enc else withSign f s enc, fl)

/-- Conversion of an element between two formats (R73, R180). An infinity that is converted to its own format with SAT = 1 saturates, as R72
says of every rounding, though R180 calls that conversion the identity (DESIGN CHOICE, log 53). -/
def convert (src dst : Nat) (m : RMode) (b : Nat) : Nat × Nat :=
  if !isFloat src && !isFloat dst then
    let z := if fmtSigned src then sx (fmtWidth src) b else (b : Int)
    let w := fmtWidth dst
    (wrapI w (if m.sat then (if fmtSigned dst then satS w z else satU w z) else z), 0)
  else roundTo dst { m with src := some src } (decode_ src b)

/-! ### NQ4 (R64, R66-R68) -/

/-- Level (R64). -/
def level (c : Nat) : Int :=
  nth [-256, -178, -134, -101, -73, -47, -23, 0, 20, 41, 63, 86, 112, 144, 185, 256] c (0 : Int)

/-- A valid superscale is +0 or positive and finite (R66). -/
def superOk (s : Nat) : Bool := s ≤ 0x7F7FFFFF

/-- NQ4Value (R67). -/
def nq4Value (c sc super : Nat) : Val :=
  let v := s12Value sc
  if v.isNan || !superOk super then .nan
  else
    match vmul (vmul (.scaled (level c) (-8)) v) (decodeF 0 super) with
    | .zero _ => .zero false
    | x => x

/-- The code whose level is nearest to t = n / d; on a tie, the one of smaller magnitude (R68). -/
def nearestLevel (n : Int) (d : Nat) : Nat :=
  let dist := fun c => (level c * d - n).natAbs
  (tab (fun c => c) 1 15).foldl (fun best c =>
    if dist c < dist best ∨ (dist c = dist best ∧ (level c).natAbs < (level best).natAbs) then c else best) 0

/-- NQ4Code (R68); none is NaNBlock. -/
def nq4Code (x b : Val) (sat : Bool) : Option Nat :=
  match x with
  | .nan => none
  | .inf s => if sat then some (if s then 0 else 15) else none
  | .zero _ => some 7
  | .fin s n d e =>
    match b with
    | .fin _ m c f =>
      let (p, q) := ratio (256 * n * c) (d * m) (e - f) 0
      some (nearestLevel (if s then -(p : Int) else p) q)
    | _ => if sat then some (if s then 0 else 15) else none

/-! ### Sums (R79, R80) -/

/-- A product truncated to a multiple of 2^q, in units of 2^q, with its sign. -/
def truncUnit (q : Int) : Val → Int
  | .fin s n d e =>
    let (a, b) := ratio n d e q
    let t : Int := a / b
    if s then -t else t
  | _ => 0

/-- The largest floor(log2) of the nonzero products. -/
def maxLog2 : List Val → Option Int
  | [] => none
  | .fin _ n d e :: l =>
    match maxLog2 l with
    | none => some (floorLog2 n d e)
    | some m => some (max m (floorLog2 n d e))
  | _ :: l => maxLog2 l

def sumInt : List Int → Int
  | [] => 0
  | x :: l => x + sumInt l

/-- GroupSum (R79) of the exact products; `bs` is S12Value × superscale, or 1. The result is an FP32 encoding. -/
def groupSum (p : List Val) (bs : Val) : Nat :=
  if bs.isNan || p.any Val.isNan then canonNan 0
  else if p.any (· == .inf false) && p.any (· == .inf true) then canonNan 0
  else if p.any Val.isInf then
    (if bs.isZero then canonNan 0 else withSign 0 (p.any (· == .inf true)) (infEnc 0))
  else
    match maxLog2 p with
    | none => 0
    | some e =>
      let q := e - 62
      let s := sumInt (p.map (truncUnit q))
      if s = 0 then 0
      else if bs.isZero then withSign 0 (s < 0) 0
      else (roundTo 0 .rne (vmul (.scaled s q) bs)).1

/-- The accumulator update of R79: an IEEE addition rounded to nearest even. -/
def accAdd (acc g : Nat) : Nat := (roundTo 0 .rne (vadd false (decodeF 0 acc) (decodeF 0 g))).1

/-- One level of TreeSum (R80): the left half added to the right half, lane by lane. -/
def treeLevel {α : Type} (add : Nat → α → α → α) : Nat → List α → List α → List α
  | i, x :: l, y :: r => add i x y :: treeLevel add (i + 1) l r
  | _, _, _ => []

/-- TreeSum (R80) over 2^k lanes; `add j i` adds at level j and left lane i. -/
def treeSum {α : Type} (add : Nat → Nat → α → α → α) : Nat → Nat → List α → List α
  | 0, _, l => l
  | k + 1, j, l => treeSum add k (j + 1) (treeLevel (add j) 0 (l.take (2 ^ k)) (l.drop (2 ^ k)))

/-! ### Arithmetic (R167, R170, R171, R174, R178) -/

inductive FOp where
  | add
  | sub
  | mul
  | fma
  deriving DecidableEq, Repr

/-- The sum of R167 and its zero rule: a zero sum is −0 only under RDN or from two zeros of that sign. -/
def vsum (mode : Nat) (x y : Val) : Val := vadd (mode == 2) x y

/-- FArith (R167) on encodings of format `f`. -/
def fArith (op : FOp) (f : Nat) (m : RMode) (a b c : Nat) : Nat × Nat :=
  let x := decodeF f a
  let y := decodeF f b
  let z := decodeF f c
  if x.isNan || y.isNan || (op == .fma && z.isNan) then (canonNan f, 0)
  else
    let r := match op with
      | .add => vsum m.mode x y
      | .sub => vsum m.mode x y.neg
      | .mul => vmul x y
      | .fma => match vmul x y with
        | .nan => .nan
        | p => vsum m.mode p z
    if r.isNan then (canonNan f, flNV) else roundTo f { m with sat := false, src := none } r

/-- An order key of a number's encoding; the two zeros differ by `zeros`. -/
def orderKey (f : Nat) (zeros : Int) (b : Nat) : Int :=
  let x := fld b 0 (fmtWidth f - 1)
  if bit b (fmtWidth f - 1) then -(x : Int) - zeros else x

/-- FMIN and FMAX (R171). -/
def fMinMax (max : Bool) (f a b : Nat) : Nat :=
  if (decodeF f a).isNan || (decodeF f b).isNan then canonNan f
  else if (orderKey f 1 a < orderKey f 1 b) != max then a else b

/-- FCMP (R170): whether condition `c` holds, and the flags. -/
def fCompare (f c a b : Nat) : Bool × Nat :=
  let un := (decodeF f a).isNan || (decodeF f b).isNan
  let x := orderKey f 0 a
  let y := orderKey f 0 b
  let nv := if un then flNV else 0
  match c with
  | 0 => (!un && x == y, 0)
  | 1 => (un || x != y, 0)
  | 2 => (!un && x < y, nv)
  | 3 => (!un && x ≤ y, nv)
  | 4 => (!un && y < x, nv)
  | 5 => (!un && y ≤ x, nv)
  | 6 => (un, 0)
  | _ => (!un, 0)

/-- VFABS and VFNEG of an FP32 lane (R174). -/
def fSignOp (neg : Bool) (b : Nat) : Nat :=
  if (decodeF 0 b).isNan then canonNan 0
  else if neg then (if bit b 31 then b - 2 ^ 31 else b + 2 ^ 31) else fld b 0 31

/-- Step of R178. -/
def fStep (sqrt : Bool) (m : RMode) (ea ed : Nat) : Nat × Nat :=
  let a := decodeF 0 ea
  let d := decodeF 0 ed
  if a.isNan || d.isNan then (canonNan 0, 0)
  else if (d.isInf && a.isZero) || (d.isZero && a.isInf) then (ed, 0)
  else
    let inner := if sqrt then vadd false (.fin false 3 2 0) (vmul (vmul (vmul (.fin true 1 2 0) a) d) d)
      else vadd false (.fin false 2 1 0) (vmul a d).neg
    let r := vmul d inner
    if r.isNan then (canonNan 0, flNV) else roundTo 0 { m with sat := false, src := none } r

/-! ### Special functions (R175-R177) -/

/-- The rounding of Approx (R175): `t` whole units of 2^(max(l, -126) - 13); `c` compares the rest with a half (0 none,
1 below, 2 a half, 3 above). -/
def approxRound (neg : Bool) (l : Int) (t c : Nat) : Nat × Nat :=
  let z := if c = 3 ∨ (c = 2 ∧ t % 2 = 1) then t + 1 else t
  let fl := if c = 0 then 0 else if l < -126 then flNX + flUF else flNX
  let enc := (max l (-126) + 126).toNat * 2 ^ 23 + z * 2 ^ 10
  if enc ≤ 0x7F7FFFFF then (withSign 0 neg enc, fl) else (withSign 0 neg (infEnc 0), flOF + flNX)

/-- How a rest `r / d` compares with a half. -/
def restCode (r d : Nat) : Nat := if r = 0 then 0 else if 2 * r < d then 1 else if 2 * r = d then 2 else 3

/-- Approx (R175). -/
def approx : Val → Nat × Nat
  | .nan => (canonNan 0, 0)
  | .inf s => (withSign 0 s (infEnc 0), 0)
  | .zero s => (withSign 0 s 0, 0)
  | .fin s n d e =>
    let l := floorLog2 n d e
    let (a, b) := ratio n d e (max l (-126) - 13)
    approxRound s l (a / b) (restCode (a % b) b)

/-- VRCP (R176). -/
def fRcp (b : Nat) : Nat × Nat :=
  match decodeF 0 b with
  | .nan => (canonNan 0, 0)
  | .inf s => (withSign 0 s 0, 0)
  | .zero s => (withSign 0 s (infEnc 0), flDZ)
  | .fin s n d e => approx (.fin s d n (-e))

/-- The integer square root, bit by bit from bit `k - 1`. -/
def isqrt (n : Nat) : Nat → Nat → Nat
  | 0, r => r
  | k + 1, r => isqrt n k (if (r + 2 ^ k) * (r + 2 ^ k) ≤ n then r + 2 ^ k else r)

/-- Approx(1/√x) for x = n / d × 2^e > 0: with y² = 1/x the units and the comparison with a half are exact. -/
def approxRsqrt (n d : Nat) (e : Int) : Nat × Nat :=
  let l := floorLog2 d n (-e) / 2
  let (a, b) := ratio d n (-e) (2 * (max l (-126) - 13))
  let t := isqrt (a / b) 20 0
  let c := if t * t * b = a then 0 else if 4 * a < (2 * t + 1) * (2 * t + 1) * b then 1
    else if 4 * a = (2 * t + 1) * (2 * t + 1) * b then 2 else 3
  approxRound false l t c

/-- VRSQ (R176). -/
def fRsq (b : Nat) : Nat × Nat :=
  match decodeF 0 b with
  | .nan => (canonNan 0, 0)
  | .inf false => (0, 0)
  | .inf true => (canonNan 0, flNV)
  | .zero s => (withSign 0 s (infEnc 0), flDZ)
  | .fin true _ _ _ => (canonNan 0, flNV)
  | .fin false n d e => approxRsqrt n d e

/-- Bits after the binary point in the fixed-point work of VEXP2 and VLOG2 (log 13). -/
def fixBits : Nat := 128

/-- Σ y^(2i+1) / (2i+1) over `k` terms: `p` is the power, `o` the odd number; y² in fixed point is `sq`. -/
def atanhSum (sq : Nat) : Nat → Nat → Nat → Nat
  | 0, _, _ => 0
  | k + 1, p, o => p / o + atanhSum sq k ((p * sq) >>> fixBits) (o + 2)

/-- 2 atanh(num / den) in fixed point: the natural logarithm of (den + num) / (den − num). -/
def fixLn (num den : Nat) : Nat :=
  let y := (num <<< fixBits) / den
  2 * atanhSum ((y * y) >>> fixBits) 48 y 1

/-- ln 2 in fixed point. -/
def fixLn2 : Nat := fixLn 1 3

/-- Σ x^i / i! over `k` terms from term `i`: `t` is the current term. -/
def expSum (x : Nat) : Nat → Nat → Nat → Nat
  | 0, _, _ => 0
  | k + 1, t, i => t + expSum x k (((t * x) >>> fixBits) / i) (i + 1)

/-- VEXP2 (R177). A power that is not a whole number is irrational, so its fixed-point value carries a sticky bit. -/
def fExp2 (b : Nat) : Nat × Nat :=
  match decodeF 0 b with
  | .nan => (canonNan 0, 0)
  | .inf s => (if s then 0 else infEnc 0, 0)
  | .zero _ => (0x3F800000, 0)
  | .fin s n d e =>
    let (a, c) := ratio n d e 0
    let whole := a / c
    if !s && 128 ≤ whole then (infEnc 0, flOF + flNX)
    else if s && 141 ≤ whole then (0, flUF + flNX)
    else
      let r := a % c
      if r = 0 then approx (.fin false 1 1 (if s then -(whole : Int) else whole))
      else
        let fr := if s then c - r else r
        let k : Int := if s then -(whole : Int) - 1 else whole
        let x := ((fr <<< fixBits) / c * fixLn2) >>> fixBits
        let y := expSum x 48 (1 <<< fixBits) 1
        approx (.fin false (2 * y + 1) 1 (k - fixBits - 1))

/-- VLOG2 (R177): exact for powers of two, otherwise irrational. -/
def fLog2 (b : Nat) : Nat × Nat :=
  match decodeF 0 b with
  | .nan => (canonNan 0, 0)
  | .inf s => if s then (canonNan 0, flNV) else (infEnc 0, 0)
  | .zero _ => (withSign 0 true (infEnc 0), flDZ)
  | .fin true _ _ _ => (canonNan 0, flNV)
  | .fin false n _ e =>
    let k := n.log2
    let w : Int := (k : Int) + e
    if n = 2 ^ k then approx (.ofInt w)
    else
      let f := ((fixLn (n - 2 ^ k) (n + 2 ^ k)) <<< fixBits) / fixLn2
      approx (.scaled (2 * (w * (2 ^ fixBits : Nat) + f) + 1) (-(fixBits : Int) - 1))

end Sys2Proof.Machine
end

