-- ==== Sys2Proof/Machine/Access.lean ====
section
/-! DEFINITION. How an issued access performs (R203): its places one by one, the orders that hold it back (R203, R211,
R338), the new value of an atomic (R332, R333), and its completion (R117). -/
namespace Sys2Proof.Machine

/-! ### Flag cells (R336) -/

def flagCell (s : State) (cl f : Nat) : Flag := sget (getCluster s cl).flags f Flag.zero

/-- A.FLAGWAIT in this bank waits for a value of cell `f` that `v` has reached: its wait is over (R339). -/
def Bank.flagMet (b : Bank) (f : Nat) (v : BitVec 32) : Bank :=
  match b.wait with
  | .flag g w false => if g.toNat = f ∧ w.toNat ≤ v.toNat then { b with wait := .flag g w true } else b
  | _ => b

/-- A cell takes a value; the waits of its cluster that it satisfies end (R339). -/
def setFlag (s : State) (cl f : Nat) (v : Flag) : State :=
  let k := getCluster s cl
  let met := fun (p : Nat × Core) =>
    if clusterOf p.1 = cl then (p.1, { p.2 with bank0 := p.2.bank0.flagMet f v.val, bank1 := p.2.bank1.flagMet f v.val }) else p
  { setCluster s cl { k with flags := sset k.flags f v Flag.zero } with cores := s.cores.map met }

/-- The cell as tenant `t` acts on it: a cell of no tenant, or of another one, is taken over at 0. -/
def Flag.owned (v : Flag) (t : Tenant) : Flag := if v.valid && v.tag == t then v else ⟨0, t, true⟩

/-- FLAGSET and FLAGADD at the cell, which their word has taken over. -/
def flagWrite (s : State) (cl f : Nat) (t : Tenant) (set : Bool) (v : BitVec 32) : State :=
  let x := (flagCell s cl f).owned t
  setFlag s cl f { x with val := if set then v else x.val + v }

/-! ### Atomics (R332, R333) -/

/-- AFADD: FP32, or two BF16 halves when `wide`. -/
def afadd (wide : Bool) (o y : Nat) : Nat :=
  if wide then
    pack 16 [(fArith .add 1 .rne (elem o 16 0) (elem y 16 0) 0).1, (fArith .add 1 .rne (elem o 16 1) (elem y 16 1) 0).1]
  else (fArith .add 0 .rne o y 0).1

/-- The new value of an atomic of `w` bits on the old value `o`; none where it makes no store. -/
def atomicNew (op : Nat) (wide : Bool) (w o y swap : Nat) : Option Nat :=
  let y := low w y
  match op with
  | 0x58 => some (low w (o + y))
  | 0x59 => some (o &&& y)
  | 0x5A => some (o ||| y)
  | 0x5B => some (o ^^^ y)
  | 0x5C => some (if sx w y < sx w o then y else o)
  | 0x5D => some (if sx w o < sx w y then y else o)
  | 0x5E => some (min o y)
  | 0x5F => some (max o y)
  | 0x60 => some y
  | 0x61 => if o = y then some (low w swap) else none
  | _ => some (afadd wide o y)

/-- The bytes that an atomic reads and writes. -/
def atomicSize (op : Nat) (wide : Bool) : Nat := if op = 0x62 ∨ !wide then 4 else 8

/-! ### Performing -/

/-- The bits of the places before place `j`. -/
def bitsBefore : List Place → Nat → Nat
  | _, 0 => 0
  | [], _ => 0
  | p :: l, j + 1 => p.bits + bitsBefore l j

def placeAt (x : Access) (j : Nat) : Place := nth x.places j ⟨.mem 0 0, 0, 0⟩

/-- The data that an access stores to place `j`. -/
def storeData (x : Access) (j : Nat) : Nat :=
  let n := (placeAt x j).bits
  match x.op with
  | .scatter => low n (elem x.data.toNat 32 j)
  | _ => low n (x.data.toNat >>> bitsBefore x.places j)

/-- Whether a higher lane that names the same location has already been stored (R208). -/
def laneBeaten (x : Access) (j : Nat) : Bool :=
  (tab (fun i => i) (j + 1) (x.places.length - (j + 1))).any fun i =>
    (placeAt x i).tgt == (placeAt x j).tgt && !x.todo.contains i

/-- Perform place `j` of an access of core `c`, tenant `t`. -/
def performPlace (s : State) (c : Nat) (t : Tenant) (x : Access) (j : Nat) : State × Access :=
  let p := placeAt x j
  let y := { x with todo := x.todo.filter (· != j) }
  match x.op with
  | .load _ | .loadVec | .gather | .expand _ => (s, { y with got := sset x.got j (rdPlace s p) 0 })
  | .record _ _ => if x.todo.contains j then (s, { y with got := sset x.got j (rdPlace s p) 0 }) else (s, y)
  | .store | .sto => (wrPlace s p (storeData x j), y)
  | .scatter => (if laneBeaten x j then s else wrPlace s p (storeData x j), y)
  | .atomic op w v z =>
    let o := rdPlace s p
    let s := match atomicNew op.toNat w p.bits o v.toNat z.toNat with
      | some n => wrPlace s p n
      | none => s
    (s, { y with got := sset x.got j o 0 })
  | .release set f v _ => (flagWrite s (clusterOf c) f.toNat t set v, y)
  | .fence _ | .find _ _ => (s, y)

/-- What was read, place after place. -/
def gotBits (x : Access) : List Place → Nat → Nat
  | [], _ => 0
  | p :: l, j => low p.bits (sget x.got j 0) + gotBits x l (j + 1) <<< p.bits

/-- What a completed access leaves in its destination. -/
def Access.value (x : Access) : Nat :=
  match x.op with
  | .load signed => let v := gotBits x x.places 0
    if signed then wrapI 64 (sx (bitsBefore x.places x.places.length) v) else v
  | .gather => pack 32 (tab (fun j => sget x.got j 0) 0 128)
  | _ => gotBits x x.places 0

/-- The access leaves: its destination, the entries it held and its tokens (R116, R117, R119). An earlier load of its
register writes it no more (R109). -/
def completeAccess (b : Bank) (x : Access) : Bank :=
  let older := (b.inflight.takeWhile fun (y : Access) => y.id != x.id).map fun y =>
    match x.dest with
    | .areg d => dropDest d y
    | _ => y
  let b := { b with inflight := older ++ (b.inflight.dropWhile fun (y : Access) => y.id != x.id).drop 1 }
  let b := x.pops.foldl (fun b q => b.setQueue q (b.queue q).tail) b
  let b := match x.dest with
    | .none => b
    | .areg d => { b with a := sset b.a d.toNat (w64 x.value) 0 }
    | .queue q id => b.fillQ q id (BitVec.ofNat 4096 x.value)
  b.pushToks .a (x.push.setWidth 4)

/-! ### Order (R203, R211, R310, R338) -/

/-- The node that a place lies on: none for this one. -/
def Place.node (p : Place) : Option Label :=
  match p.tgt with
  | .node l _ => some l
  | _ => none

/-- The nodes that an access touches. -/
def Access.nodes (x : Access) : List (Option Label) := x.places.map Place.node

/-- Some of the access lies on another node. -/
def Access.remote (x : Access) : Bool := x.places.any fun p => p.node.isSome

/-- A place of the access on this node that has not performed. -/
def Access.nextPlace (x : Access) : Nat := (x.todo.find? fun j => (placeAt x j).node.isNone).getD 0

/-- The lanes of the access are still to be found, on nodes that are not known yet (R207). -/
def Access.finding (x : Access) : Bool :=
  match x.op with
  | .find _ _ => true
  | _ => false

/-- The nodes on which a later access of the same suit is still ahead of this one: this node while a place here has not
performed, another one while a packet to it has not been sent, since its stream keeps the order (R203, R304, R307). -/
def Access.ahead (x : Access) : List (Option Label) :=
  match x.op with
  | .expand _ | .find _ _ => x.nodes
  | _ => (x.todo.filterMap fun j => if (placeAt x j).node.isNone then some none else none) ++ x.unsent.map fun p => some p.2.dst

/-- Whether the earlier access `y` holds the later one `x` back. The record of A.LAUNCH comes after every earlier access, in every
suit (R106). -/
def holdsBack (y x : Access) : Bool :=
  match y.op, x.op with
  | _, .record _ _ => true
  | .fence _, .fence _ => false
  | .fence _, .release _ _ _ _ => false
  | .fence m, _ => m.getLsbD x.suit.toNat
  | .release _ _ _ _, _ => false
  | _, .fence m => m.getLsbD y.suit.toNat
  | _, .release _ _ _ m => m.getLsbD y.suit.toNat
  | _, .sto => y.finding || y.ahead.any fun n => x.nodes.contains n
  | _, _ => y.suit == x.suit && (y.finding || y.ahead.any fun n => x.nodes.contains n)

/-- Entry `k` of the accesses in flight may perform. -/
def Bank.mayPerform (b : Bank) (k : Nat) (x : Access) : Bool := !(b.inflight.take k).any fun y => holdsBack y x

/-- The frame-table entries that an access was translated through. -/
def usedEntries : List Used → List Nat
  | [] => []
  | .frame _ pa :: l => pa :: usedEntries l
  | .leaf _ _ _ _ :: l => usedEntries l

/-- The near-tier channel of a place (R198). -/
def Place.channel (p : Place) : Option Nat :=
  match p.tgt with
  | .mem loc _ => if loc < 2 ^ 37 ∧ p.keep ≠ 0 then some (loc / 2 ^ 27) else none
  | _ => none

/-- A REMAP that waits holds back what was accepted after it and touches its channel (R366). -/
def remapWaits (s : State) (id : Nat) (touches : Nat → Bool) : Bool :=
  s.cores.any fun p =>
    match (p.2.bank p.2.active).wait with
    | .remap ch mark => mark != 0 && decide (mark ≤ id) && touches ch
    | _ => false

/-- A REMAP holds the access `id` to these places back. -/
def remapHolds (s : State) (id : Nat) (ps : List Place) : Bool := remapWaits s id fun ch => ps.any fun q => q.channel == some ch

/-- Some byte of the ranges lies in channel `ch`. -/
def rangesTouch (ch : Nat) (l : List (Nat × Nat)) : Bool :=
  l.any fun r => decide (r.1 < 2 ^ 27 * (ch + 1)) && decide (2 ^ 27 * ch < r.1 + r.2)

/-- A CHIP write of an accumulator element waits while a multiplication over the element stands between two of its groups, so
that the final value is that of one of the two orders (R266). -/
def accBusy (s : State) (p : Place) : Bool :=
  match p.tgt with
  | .chip c 3 off _ =>
    let k := getCore s c
    let e := off % 2 ^ 16 / 4
    !k.bank0.still && k.cmds.any fun m =>
      m.running && m.isMul && m.gnext != 0 && m.acc == off / 2 ^ 16 && decide (e / 128 < m.shapeM.toNat) &&
        decide (e % 128 < m.shapeN.toNat)
  | _ => false

/-- The access writes storage. -/
def Access.writes (x : Access) : Bool :=
  match x.op with
  | .store | .sto | .scatter => true
  | _ => false

/-! ### Accesses whose outcome is not known yet (R123, R206) -/

/-- An access that may still turn out to fault: one that another node performs, a compressed block whose header has not been
read, one whose lanes are still to be found, or one that a REMAP held back as it issued (R366). -/
def Access.open_ (x : Access) : Bool :=
  match x.op with
  | .expand _ | .find _ _ => true
  | _ => x.remote || !x.late.isEmpty

def Access.isAtomic (x : Access) : Bool :=
  match x.op with
  | .atomic _ _ _ _ => true
  | _ => false

def failed : Response → Bool
  | .fault _ => true
  | _ => false

/-- Some answer is a fault. -/
def Access.failing (x : Access) : Bool := x.resps.any fun p => failed p.2

/-- The A engine has issued nothing after the access, so that its word can still fault (R123). -/
def Bank.lastIssued (b : Bank) (x : Access) : Bool :=
  match x.op with
  | .record _ true => b.pcOf .a == x.origin.pc
  | _ => (b.inflight.getLast?.map fun y => y.id) == some x.id &&
      b.issue.steps.a == x.origin.step + w64 x.origin.words && b.pcOf .a == x.origin.pc + w64 (4 * x.origin.words)

/-- The bank before the word of the access issued (R116, R119, R204). -/
def Bank.unissue (b : Bank) (x : Access) : Bank :=
  let b := { b with inflight := b.inflight.filter (fun y => y.id != x.id), wait := .none }
  match x.op with
  | .record _ true => b
  | _ =>
    let b := { b with issue := { b.issue with steps := b.issue.steps.set x.origin.step .a } }
    let b := match x.dest with
      | .queue q id => b.setQueue q ((b.queue q).filter fun e => e.ready || e.id != id)
      | _ => b
    let b := (b.setPc .a x.origin.pc).dropKx .a
    (tokPops .a x.origin.toks).foldl (fun b k => b.setTok k (b.tok k + 1)) b

/-- Whether every word that the bank's engines have issued has completed (R123). -/
def Bank.drained (b : Bank) : Bool := b.inflight.isEmpty

/-! ### Tokens of accesses in flight (R116) -/

/-- Pushes to counter `k` by words that have issued and not completed: only A's memory words are such. -/
def Bank.tokDue (b : Bank) (k : Nat) : Nat :=
  (b.inflight.filter fun x => (tokPushes .a (x.push.setWidth 4)).contains k).length

/-- Pops of counter `k` that words of A take back if their accesses turn out to fault: until they complete no push fills their
place. -/
def Bank.tokHeld (b : Bank) (k : Nat) : Nat :=
  (b.inflight.filter fun x =>
    (x.open_ || x.isAtomic) && (tokPops .a x.origin.toks).contains k).length

/-- Whether a word's waits and pushes let it issue. -/
def Bank.tokReady (b : Bank) (e : Engine) (t : BitVec 4) : Bool :=
  (tokPops e t).all (fun k => 1 ≤ b.tok k) &&
    (tokPushes e t).all (fun k => (b.tok k).toNat + b.tokDue k + b.tokHeld k < 15)

end Sys2Proof.Machine
end

