-- ==== Sys2Proof/Machine/Lookup.lean ====
section
/-! DEFINITION. Walks as what looks addresses up meets them (R226, R227, R365): joining a walk, the end of one and its delivery,
the filling of the TLBs, and the look-up itself, which goes on until every walk that it meets has delivered to it or one has to
wait for a walker. -/
namespace Sys2Proof.Machine

/-! ### Joining (R227) -/

/-- One more access joins the walk; one that waits for it already joins it once. -/
def Walk.joinedBy (w : Walk) (by_ : Option Waiter) : Walk :=
  match by_ with
  | some x =>
    if w.waiters.contains x then w
    else { w with joined := if w.joined = 255 then 255 else w.joined + 1, waiters := w.waiters ++ [x] }
  | none => { w with joined := if w.joined = 255 then 255 else w.joined + 1 }

/-- A miss of the context in bank `bank` of core `c` joins the walk for its page, or begins one behind those that have come before
it (R227). -/
def joinWalk (s : State) (c : Nat) (bank : Bool) (page : Nat) (by_ : Option Waiter) : State :=
  let t := (getBank s c bank).tenant
  let k := getCluster s (clusterOf c)
  if k.walks.any fun w => w.is c (b2n bank) t page then
    setCluster s (clusterOf c) { k with walks := k.walks.map fun w => if w.is c (b2n bank) t page then w.joinedBy by_ else w }
  else
    let (id, s) := fresh s
    setCluster s (clusterOf c) { k with walks := k.walks ++
      [⟨id, c, b2n bank, t, BitVec.ofNat 36 page, ⟨4, 0, 0, 0⟩, 0, by_.toList, false⟩] }

/-! ### The end of a walk (R226, R227) -/

/-- The newest `n` entries of a cache with `e` added: the oldest one leaves a full cache (log 7). -/
def cacheAdd {α : Type} (n : Nat) (l : List α) (e : α) : List α := if l.length < n then l ++ [e] else l.drop 1 ++ [e]

/-- A leaf of a context enters its micro-TLB and the table TLB. -/
def cacheLeaf (s : State) (c bank : Nat) (v : View) (va level leaf psd : Nat) : State :=
  let base := va / 2 ^ leafShift level * 2 ^ leafShift level
  let e : TlbEntry := ⟨v.tenant, bank, BitVec.ofNat 48 base, BitVec.ofNat 2 level, w64 leaf, BitVec.ofNat 512 psd⟩
  let s := modCore s c fun k => { k with tlb := cacheAdd 64 k.tlb e }
  modTable s (tableOf c) fun t => if t.tlb.any (tlbHit v va) then t else { t with tlb := cacheAdd 2048 t.tlb e }

/-- The context of a walk is there: else the walk ends at once, and nothing of it is cached. -/
def Walk.live (s : State) (w : Walk) : Bool :=
  let b := getBank s w.core (w.bank == 1)
  b.tenant == w.tenant && b.st != .empty && !(getCore s w.core).gated

/-- What a walk that found `r` delivers; none where it found nothing. -/
def Walk.delivers (w : Walk) : X (Nat × Nat × Nat) → Option Delivered
  | .ok (level, leaf, psd) => some (.leaf (BitVec.ofNat 2 level) (w64 leaf) (BitVec.ofNat 512 psd) w.id)
  | .error (.fault code info _) => some (.fault code info)
  | .error _ => none

/-- A walk leaves the walker; its leaf is cached unless a shoot-down has overtaken it (R226, R365). -/
def endWalk (s : State) (v : View) (w : Walk) (r : X (Nat × Nat × Nat)) : State :=
  let k := getCluster s (clusterOf w.core)
  let s' := setCluster s (clusterOf w.core) { k with walks := k.walks.filter fun x => x.id != w.id }
  match r with
  | .ok (level, leaf, psd) =>
    if w.stale || !w.live s then s' else cacheLeaf s' w.core w.bank v (4096 * w.vpage.toNat) level leaf psd
  | .error _ => s'

/-- A delivery is kept for what joined the walk, while it stands. -/
def deliverTo (s : State) (c : Nat) (b : Bool) (r : Walked) : State :=
  match r.to_ with
  | .job id => modCore s c fun k => { k with jobs := k.jobs.map fun j => if j.id == id then { j with walked := j.walked ++ [r] } else j }
  | w => modBank s c b fun x => if x.stands w then { x with walked := (x.walked.filter fun y => x.stands y.to_) ++ [r] } else x

/-- A walk delivers to all that joined it (R227). -/
def walkDelivers (s : State) (w : Walk) (d : Delivered) : State :=
  w.waiters.foldl (fun s x => deliverTo s w.core (w.bank == 1) ⟨x, w.vpage, d⟩) s

/-! ### Looking up (R227) -/

/-- What has been delivered for a page to what looks up; a fetch takes it, since it keeps no access in flight. -/
def takeDelivery (s : State) (v : View) (who : Waiter) (page : Nat) : Option (Walked × State) :=
  (((getCore s v.core).deliveries v.bank).find? fun r => r.to_ == who && r.page.toNat == page).map fun r =>
    (r, match who with
      | .fetch _ _ => modBank s v.core v.bank fun b => { b with walked := b.walked.filter (· != r) }
      | _ => s)

/-- A walk in flight that `who` joins makes its remaining reads and delivers to all that have joined it (R227, log 7). -/
def finishWalk (s : State) (v : View) (who : Waiter) (w : Walk) : Option (Walked × State) :=
  let r := walkFrom s v (4096 * w.vpage.toNat) 5 w.at_
  (w.delivers r).map fun d =>
    let others := w.waiters.filter (· != who)
    (⟨who, w.vpage, d⟩, walkDelivers (endWalk s v w r) { w with waiters := match who with
      | .fetch _ _ => others
      | _ => others ++ [who] } d)

/-- The answer to what asks for a walk of a page: what has been delivered to it; what a walk of the page in flight finds, which it
joins; or what it finds itself where a walker is free. None while it has to wait for a walker (R227). -/
def walkAnswer (s : State) (v : View) (who : Waiter) (page : Nat) : Option (Walked × State) :=
  let walks := (getCluster s (clusterOf v.core)).walks
  match takeDelivery s v who page with
  | some r => some r
  | none =>
    match (walks.take walkSlots).find? fun w => w.is v.core (b2n v.bank) v.tenant page with
    | some w => finishWalk s v who w
    | none =>
      if walkSlots ≤ walks.length || walks.any (fun w => w.is v.core (b2n v.bank) v.tenant page) then none
      else
        let (id, s) := fresh s
        finishWalk s v who ⟨id, v.core, b2n v.bank, v.tenant, BitVec.ofNat 36 page, Reading.start, 0, [], false⟩

/-- `s` as what looks up sees it, with what has been delivered to it. -/
def givenIn (s : State) (v : View) (l : List Walked) : State := modBank s v.core v.bank fun b => { b with given := l }

/-- The state that an outcome holds keeps nothing of what was given. -/
def ungiven (v : View) (r : Act State) : Act State :=
  match r with
  | .ok s => .ok (givenIn s v [])
  | .error (.hold s) => .error (.hold (givenIn s v []))
  | r => r

/-- At most `n` further walks that `f` asks for are answered, from that of `page` on: the state after them, and what `f` comes to. -/
def lookOn {α : Type} (v : View) (who : Waiter) (f : State → Act α) : Nat → State → List Walked → Nat → State × Act α
  | 0, s, _, page => (s, .error (.walk page))
  | n + 1, s, l, page =>
    match walkAnswer s v who page with
    | none => (s, .error (.walk page))
    | some (r, s) =>
      match f (givenIn s v (r :: l)) with
      | .error (.walk page) => lookOn v who f n s (r :: l) page
      | o => (s, o)

/-- The walks that a look-up can meet. -/
def walksToMeet (s : State) (v : View) : Nat :=
  (getCluster s (clusterOf v.core)).walks.length + ((getCore s v.core).deliveries v.bank).length

/-- What `f` comes to for `who`, and the state with the walks ended that it met: it waits only for a walker (R120, R227). -/
def lookUp {α : Type} (s : State) (v : View) (who : Waiter) (f : State → Act α) : State × Act α :=
  match f s with
  | .error (.walk page) => lookOn v who f (walksToMeet s v) s [] page
  | r => (s, r)

/-- A look-up whose outcome is a state. -/
def lookUpState (s : State) (v : View) (who : Waiter) (f : State → Act State) : State × Act State :=
  match f s with
  | .error (.walk page) =>
    let (s, r) := lookOn v who f (walksToMeet s v) s [] page
    (s, ungiven v r)
  | r => (s, r)

end Sys2Proof.Machine
end

