-- ==== Sys2Proof/Machine/Ops.lean ====
section
/-! DEFINITION. The operations that many instructions and events share: the fault mailbox (R386-R388), switching banks
(R351), giving up the hand (R256), aborting a kernel (R128), taking a fault (R123, R126, R349), and how a word issues
(R55, R108, R110, R116, R123). -/
namespace Sys2Proof.Machine

/-! ### The fault mailbox (R386-R388) -/

/-- A message with the fields of R386. -/
def mboxMsg (fr : FaultRec) (head : BitVec 32) (check : BitVec 8) (queue : BitVec 4) (core : BitVec 10) (bank : Bool)
    (label : Label) (port : BitVec 5) (sub kind : BitVec 8) : BitVec 512 :=
  fr.addr ++ fr.info ++ fr.pc.setWidth 32 ++ fr.code ++ fr.engine ++ fr.plane ++ fr.suit ++ (0 : BitVec 207) ++ head ++
    check ++ queue ++ core ++ BitVec.ofBool bank ++ label ++ port ++ (0 : BitVec 30) ++ sub ++ kind

/-- Whether no slot of the ring is free (R388). -/
def Mailbox.full (m : Mailbox) : Bool := !m.en || (m.tail - m.head).toNat == 2 ^ m.log2.toNat

/-- The write of one message, TAIL and the interrupt. -/
def Mailbox.put (m : Mailbox) (msg : BitVec 512) : Mailbox :=
  { m with ring := sset m.ring (m.tail.toNat % 2 ^ m.log2.toNat) msg 0, tail := m.tail + 1, msix := m.msix + 1 }

/-- Post a message: a SERVICE message is held while no slot is free, any other is dropped and counted (R388). A bank has one
SERVICE message at a time: the new one takes the place of one that is still held for the same core and bank (log 50). -/
def Mailbox.post (m : Mailbox) (service : Bool) (msg : BitVec 512) : Mailbox :=
  if m.full || !m.held.isEmpty then
    (if service then { m with held := m.held.filter (fun o => o.extractLsb' 73 11 != msg.extractLsb' 73 11) ++ [msg] }
     else { m with lost := if m.lost = 0xFFFF then m.lost else m.lost + 1 })
  else m.put msg

def post (s : State) (service : Bool) (msg : BitVec 512) : State := { s with mbox := s.mbox.post service msg }

/-- The source queue and HEAD index of a launch (R386). -/
def launchQh (s : State) (slot : Option Nat) : BitVec 4 × BitVec 32 :=
  match slot with
  | none => (0, 0)
  | some n => match getLaunch s n with
    | none => (0, 0)
    | some l => (l.queue, l.head)

/-- A message about a core's fault: kinds 1 SERVICE and 3 ABORT (R387). -/
def postFault (s : State) (kind : BitVec 8) (fr : FaultRec) (c : Nat) (bank : Bool) (slot : Option Nat) : State :=
  let (q, h) := launchQh s slot
  post s (kind == 1) (mboxMsg fr h 0 q (BitVec.ofNat 10 c) bank s.fabric.label 0 0 kind)

/-- A message without a fault record. -/
def postPlain (s : State) (kind sub : BitVec 8) (addr : Word) (check : BitVec 8) (queue : BitVec 4) (head : BitVec 32)
    (core : BitVec 10) (port : BitVec 5) : State :=
  post s false (mboxMsg { FaultRec.zero with addr := addr } head check queue core false s.fabric.label port sub kind)

/-! ### Hands (R253-R256) -/

/-- An M.MRELS takes effect: the core leaves the hand and its list; its accumulators and held tile go (R256). Their owner tag changes only
with the next grant (R372). -/
def releaseHand (s : State) (c : Nat) : State :=
  let s := modTable s (tableOf c) fun t =>
    { t with holder := if t.holder = some c then none else t.holder, reqs := t.reqs.filter (fun r => r.core != c) }
  modCore s c fun k => { k with granted := 0, accs := [], apois := 0, heldTile := none }

/-- A matrix command record of context `ctx` with nothing captured (R264, R359). -/
def Cmd.blank (id ctx : Nat) (word : BitVec 32) : Cmd where
  id := id
  ctx := ctx
  word := word
  kx := none
  stale := []
  slot := 0
  shapeM := 0
  shapeN := 0
  shapeK := 0
  fa := 0
  fb := 0
  fo := 0
  sat := false
  mode := 0
  seed := 0
  begun := false
  gnext := 0
  fwdDone := false
  ea := none
  eb := none
  finished := false

/-- The session has started (R285). -/
def Session.begun (z : Session) : Bool := z.phase != .queued

/-- What an abort leaves of a core's matrix side: commands that have begun and a running session go on, and an M.MRELS
follows them (R128). -/
def giveUpArray (s : State) (c : Nat) : State :=
  let k := getCore s c
  let keep := k.cmds.filter fun m => m.begun
  let ses := k.session.bind fun z => if z.begun then some { z with kill := true, left := k.bank0.tempo } else none
  if keep.isEmpty then releaseHand (setCore s c { k with cmds := [], session := none }) c
  else
    let (id, s) := fresh s
    let s := modCore s c fun k => { k with cmds := keep ++ [Cmd.blank id k.bank0.ctx 0x80840000], session := ses }
    match ses with
    | some z => endWaiting s c z 5
    | none => s

/-! ### Banks (R347, R351) -/

/-- The issue state that a release discards: queues, outcome queues, token counters, loop state and return stacks; the
step counters stay (R370). -/
def Issue.released (x : Issue) : Issue := { Issue.zero with steps := x.steps }

/-- The bank has waited on a service fault, and the latest has been answered or waits still: in its present context, or in one
before it (R352). -/
def Bank.answered (x : Bank) : Bool := x.svcSeen || x.svcPast

/-- A bank without a context. Registers, owner tag and CSRs keep what the context left in them (R370, log 29), and so does
whether the latest service fault here has been answered (R352), and the header last written (R361). -/
def Bank.emptied (x : Bank) : Bank :=
  { Bank.zero with
    a := x.a, s := x.s, m := x.m, v := x.v, k := x.k, owner := x.owner
    pc := x.pc, issue := x.issue.released, slipwin := x.slipwin, handlen := x.handlen, fault := x.fault, rpc := x.rpc
    xrm := x.xrm, xseed := x.xseed, xflags := x.xflags, chipGrant := x.chipGrant, privBase := x.privBase
    privSize := x.privSize, xlat := x.xlat, clamp := x.clamp, tempo := x.tempo
    mat := { x.mat with member := false, nacc := 0, held := false }
    round := { x.round with waiting := false }
    svcSeen := x.svcSeen && !(x.st == .stopped && x.svcPend)
    svcPast := x.svcPast && !(x.st == .stopped && x.svcPend)
    hdrw := x.hdrw
    ctx := x.ctx }

/-- A bank gives up its context; what bank 1 has queued goes with it. -/
def emptyBank (s : State) (c : Nat) (b : Bool) : State :=
  modCore s c fun k =>
    let k := if b then { k with cmds1 := [] } else k
    k.setBank b (k.bank b).emptied

/-- The running context has given up the core: the other bank runs if it is ready (R351). -/
def switchBank (s : State) (c : Nat) : State :=
  modCore s c fun k =>
    let o := !k.active
    if (k.bank o).st == .ready then { k.setBank o { k.bank o with st := .running } with active := o } else k

/-- A context becomes runnable (R351): bank 0 takes the core from bank 1; bank 1 waits while bank 0 runs. -/
def makeRunnable (s : State) (c : Nat) (b : Bool) : State :=
  let k := getCore s c
  if (k.bank (!b)).st == .running then
    if b then setBank s c b { k.bank b with st := .ready }
    else
      let s := modBank s c true fun x => { x with st := .ready, pend := none, wait := .none, walked := [], kx := Three.all none }
      modCore s c fun k => { k.setBank false { k.bank false with st := .running } with active := false }
  else setCore s c { k.setBank b { k.bank b with st := .running } with active := b }

/-- Bank `b` gives up its context and empties (R128, R361, R370). -/
def vacate (s : State) (c : Nat) (b : Bool) : State :=
  let s := emptyBank s c b
  if (getCore s c).active == b then switchBank s c else s

/-! ### Aborting a kernel (R128) -/

/-- Stop the context in bank `b` for an abort: queued commands go, the hand is given up, and the bank empties, once every
issued word has completed (R123). -/
def stopForAbort (s : State) (c : Nat) (b : Bool) : State :=
  let s := if b then s else giveUpArray s c
  if (getBank s c b).drained then vacate s c b
  else modBank s c b fun x => { x with pend := some ⟨FaultRec.zero, none, true⟩, launch := none, kx := Three.all none }

/-- Whether core `c` runs the launch in `slot`. -/
def runsLaunch (s : State) (slot c : Nat) : Bool :=
  let x := getBank s c false
  x.launch == some slot && x.st != .empty

def abortCores (s : State) (slot : Nat) : List Nat → State
  | [] => s
  | c :: l => abortCores (if runsLaunch s slot c then stopForAbort s c false else s) slot l

/-- Abort the kernel of the context in bank `b` of core `c`, whose fault record is `fr`: post it, stop every core of the
launch, and end the launch without a bump. -/
def abortKernel (s : State) (c : Nat) (b : Bool) (fr : FaultRec) : State :=
  let slot := (getBank s c b).launch
  let s := postFault s 3 fr c false slot
  match slot with
  | none => stopForAbort s c b
  | some n =>
    let cores := match getLaunch s n with
      | some l => l.started
      | none => []
    setLaunch (stopForAbort (abortCores s n (cores.filter (· != c))) c b) n none

/-- The place in the order of dispatch of the launch whose context bank 0 of core `c` holds. -/
def launchOrder (s : State) (c : Nat) : Option Nat :=
  ((getBank s c false).launch.bind (getLaunch s)).map fun l => l.order

/-- The target core's first bank holds a context of the launch that raised the event (R288). -/
def HeldEvent.arrives (e : HeldEvent) (s : State) : Bool :=
  (getBank s e.target false).st != .empty && e.launch.isSome && launchOrder s e.target == e.launch

/-! ### Taking a fault (R123, R126, R349) -/

/-- The words that engines still have to pass without effect (R127, log 30). -/
def Bank.owes (x : Bank) : Three (Option Word) :=
  let one := fun e => if x.skip.get e then some (x.pc.get e) else none
  ⟨one .a, one .x, one .m⟩

/-- EnterHandler of R126: `rpc` are the resume offsets. -/
def Bank.enterHandler (x : Bank) (fr : FaultRec) (rpc : Three Word) (trapOff : Nat) : Bank :=
  { x with
    rpc := rpc
    shadow := x.issue
    issue := Issue.zero
    trapSkip := false
    trapActive := true
    trapRec := some fr
    pc := Three.all (w64 (4 * trapOff))
    kx := Three.all none
    skip := Three.all false
    owed := x.owes
    wait := .none }

/-- The resume offsets of a fault: the stop points, but the faulting word for its engine, or `all` for every engine. -/
def resumePcs (x : Bank) (fr : FaultRec) (all : Option Word) : Three Word :=
  match all with
  | some p => Three.all p
  | none =>
    match engineOf fr.engine with
    | some e => x.pc.set fr.pc e
    | none => x.pc

/-- A program fault enters the trap handler, or aborts the kernel (R126, R128). -/
def takeProgramFault (s : State) (c : Nat) (fr : FaultRec) (all : Option Word) : State :=
  let x := curBank s c
  let b := (getCore s c).active
  match x.kern with
  | some k =>
    if k.thv && !x.trapActive then modBank s c b fun x => x.enterHandler fr (resumePcs x fr all) k.trapOff
    else abortKernel s c b fr
  | none => abortKernel s c b fr

/-- A service fault: the message, the wait and the switch (R349). -/
def takeServiceFault (s : State) (c : Nat) (fr : FaultRec) : State :=
  let b := (getCore s c).active
  let x := getBank s c b
  let s := postFault s 1 fr c b x.launch
  switchBank (modBank s c b fun x => { x with st := .serviceWait, svcSeen := true, svcRec := some fr, wait := .none }) c

/-- Write the fault record and take the fault. -/
def takeFault (s : State) (c : Nat) (fr : FaultRec) (all : Option Word) : State :=
  let s := modCur s c fun x => { x with fault := fr, pend := none, walked := [], exiting := false, kx := Three.all none }
  if isService fr.code then takeServiceFault s c fr else takeProgramFault s c fr all

/-- A fault has been found: it is taken once every issued word of the core has completed (R123, R349). -/
def raiseFault (s : State) (c : Nat) (fr : FaultRec) (all : Option Word) : State :=
  if (curBank s c).drained then takeFault s c fr all
  else modCur s c fun x => { x with pend := some ⟨fr, all, false⟩, kx := Three.all none }

/-- The service fault of a stopped context has been answered (R352). -/
def Bank.clearSvc (x : Bank) : Bank := { x with svcPend := false, svcSeen := true }

/-- A stopped context shows its first asynchronous fault: the code in SNAP.HDR, the record in the FAULT images (R359). -/
def Bank.showDue (x : Bank) : Bank :=
  match x.due with
  | [] => x
  | r :: _ =>
    { x with
      hdr := merge x.hdr (w64 (apendCode r.code * 2 ^ 28)) (w64 (7 * 2 ^ 28))
      fault := { r with pc := x.pcOf ((engineOf r.engine).getD .a) } }

/-- An asynchronous fault becomes due on an engine of the context in bank `b` (R123, R355, R363). -/
def addDue (s : State) (c : Nat) (b : Bool) (code : FaultCode) (e : Engine) (addr : Word) (info : Word) : State :=
  modBank s c b fun x =>
    let y := { x with due := x.due ++ [⟨code.num, e.tag, 0, addr, 0, 0, info ||| (1 : Word) <<< 63⟩] }
    if x.st == .stopped && x.due.isEmpty then y.showDue else y

/-! ### How a word issues -/

/-- Whether engine `e` of the running context may act on a word (R123, R355). -/
def canIssue (k : Core) (b : Bank) (e : Engine) : Bool :=
  b.st == .running && b.pend.isNone && b.due.isEmpty && !b.exiting && !b.stopping && !k.gated &&
    !b.round.waiting && (e != .a || !b.inflight.any Access.failing)

/-- Checks KX_PLACE, KX_MISSING and KX_PAYLOAD of R55 against the KX that the engine has acted on. -/
def kxCheck (i : Instr) (kx : Option (BitVec 22)) : Act Unit :=
  match kx with
  | some p =>
    if kxUse i = .none then plainFault .illegal (faultInfo 4 0xFF)
    else match payBad i p with
      | [] => .ok ()
      | f :: _ => plainFault .illegal (faultInfo 6 f)
  | none => if (kxUse i).mandatory then plainFault .illegal (faultInfo 5 0xFF) else .ok ()

/-- The slip limit and the tokens of field `t` let the engine pass its word (R110, R116). -/
def Bank.mayPass (b : Bank) (e : Engine) (t : BitVec 4) : Act Unit :=
  if b.slipBlocks e (b.pairLen e) || !b.tokReady e t then stall else .ok ()

/-- What stands before a word's effect: the checks of R55, the slip limit and the dependency field (R110, R116). Each engine that
reaches an outcome-bearing word checks it, also one that does not evaluate it, and the first one raises its fault (DESIGN CHOICE,
log 42). -/
def wordGuard (i : Instr) (e : Engine) (t : BitVec 4) (b : Bank) : Act Unit :=
  match kxCheck i (b.kxOf e) with
  | .error x => .error x
  | .ok () =>
    if privileged i && !b.priv then plainFault .privilege 0
    else b.mayPass e t

/-- The engine stays at its word: a KX acted on counts as not yet acted on (R48). -/
def stay (s : State) (e : Engine) : State := modCur s s.core fun b => b.dropKx e

/-- The view of the running context. -/
def ownView (s : State) : View := viewOf s s.core (getCore s s.core).active

/-- A word of the running context, or its fetch, waits for a walker (R227). -/
def waitWalk (s : State) (who : Waiter) (page : Nat) : State := joinWalk s s.core (getCore s s.core).active page (some who)

/-- The word at which engine `e` of the running context stands. -/
def thisWord (s : State) (e : Engine) : Waiter := .word e ((curBank s s.core).issue.steps.get e)

/-- What a word's outcome makes of the machine. -/
def finish (s : State) (e : Engine) (i : Instr) : Act State → Out
  | .ok s => .next s
  | .error .stall => .next (stay s e)
  | .error (.walk page) => .next (stay (waitWalk s (thisWord s e) page) e)
  | .error (.hold s) => .next (stay s e)
  | .error (.fault code addr plane suit info) =>
    let b := curBank s s.core
    let pc := b.pcOf e
    let fr : FaultRec := ⟨code.num, if isShared i then 3 else e.tag, pc, addr, plane, suit, info⟩
    .next (raiseFault s s.core fr (if isShared i then some (if code = .trapped then pc + 4 else pc) else none))

/-- The word has taken effect: its tokens are popped and, unless it completes later, pushed; the engine passes it, or
goes to `target`. -/
def leaveWord (e : Engine) (t : BitVec 4) (defer : Bool) (target : Option Word) (b : Bank) : Bank :=
  let b := b.popToks e t
  let b := if defer then b else b.pushToks e t
  let b := { b with skip := b.skip.set false e }
  match target with
  | some p => b.jump e p
  | none => b.pass e

/-- RESUME told the engine to pass its word without effect: only its tokens and the slip limit count (R127). -/
def passOver (s : State) (e : Engine) (t : BitVec 4) : Act State :=
  match (curBank s s.core).mayPass e t with
  | .error x => .error x
  | .ok () => .ok (modCur s s.core (leaveWord e t false none))

/-- A word that the engine may act on: `body` is its effect, and where it goes if it is a branch. -/
def wordEffect (i : Instr) (e : Engine) (t : BitVec 4) (defer : Bool) (body : State → Act (State × Option Word)) (s : State) :
    Act State :=
  let b := curBank s s.core
  if b.skip.get e then passOver s e t
  else
    match wordGuard i e t b with
    | .error x => .error x
    | .ok () =>
      match body s with
      | .error x => .error x
      | .ok (s', target) => .ok (modCur s' s.core (leaveWord e t defer target))

/-- A word issues on engine `e`, with the walks ended that it meets (R227). -/
def issueTo (i : Instr) (e : Engine) (t : BitVec 4) (defer : Bool) (body : State → Act (State × Option Word)) (s : State) :
    Out :=
  if !canIssue (getCore s s.core) (curBank s s.core) e then .next (stay s e)
  else
    let (s, r) := lookUpState s (ownView s) (thisWord s e) (wordEffect i e t defer body)
    finish s e i r

/-- A word that is not a branch. -/
def issue (i : Instr) (e : Engine) (t : BitVec 4) (defer : Bool) (body : State → Act State) (s : State) : Out :=
  issueTo i e t defer (fun s => (body s).map fun s => (s, none)) s

/-- The effect of a word on the running context alone. -/
def onBank (f : Bank → Act Bank) (s : State) : Act State := (f (curBank s s.core)).map fun b => modCur s s.core fun _ => b

/-- The engine that acts on a shared word. -/
def State.engine (s : State) : Engine :=
  match s.phase with
  | .eng e => e
  | .mem => .a

/-- Whether all three engines stand at the same dynamic instance of a word (R111). -/
def Bank.joined (b : Bank) : Bool :=
  b.pc.a == b.pc.x && b.pc.x == b.pc.m && b.issue.steps.a == b.issue.steps.x && b.issue.steps.x == b.issue.steps.m

/-- All three engines pass their word. -/
def Bank.passAll (b : Bank) : Bank := ((b.pass .a).pass .x).pass .m

/-- A joining word: nothing happens until all three engines have arrived; `effect` moves them (R111). -/
def join (i : Instr) (effect : State → Act State) (s : State) : Out :=
  let k := getCore s s.core
  let b := curBank s s.core
  let e := s.engine
  if !canIssue k b e then .next (stay s e)
  else
    finish s e i <|
      if b.skip.get e then passOver s e 0
      else
        match wordGuard i e 0 b with
        | .error x => .error x
        | .ok () => if b.joined then effect s else stall

/-! ### Events -/

/-- An event names a unit that exists (R2), or no such step exists. -/
def forUnit (n limit : Nat) (r : State) : Out := if n < limit then .next r else .fault .noSuchUnit

def forCore (c : Nat) (r : State) : Out := forUnit c Config.cores r

end Sys2Proof.Machine
end

