-- ==== Sys2Proof/Machine/Operands.lean ====
section
/-! DEFINITION. Operand forms: register and queue codes of A and X words (R43, R44, R52, R53, R144), immediates and
displacements with a KX (R49), and the committing of vector results under predication (R145). -/
namespace Sys2Proof.Machine

/-! ### KX payloads (R49) -/

/-- Combine of R49 for an immediate of `n` bits. -/
def combine (imm n : Nat) (kx : Option (BitVec 22)) : Word :=
  match kx with
  | none => sext64 n imm
  | some p => sext64 (n + 22) (p.toNat <<< n + imm)

/-- The displacement of a memory word, in units of `unit` bytes (R204). -/
def displacement (unit : Nat) (kx : Option (BitVec 22)) : Word :=
  match kx with
  | none => 0
  | some p => w64 unit * sext64 22 p.toNat

/-- The displacement and the suit of an atomic (R332). -/
def atomicKx (unit : Nat) (kx : Option (BitVec 22)) : Word × BitVec 4 :=
  match kx with
  | none => (0, 0)
  | some p => (w64 unit * sext64 18 (p.toNat / 16), p.extractLsb' 0 4)

/-- The value and the suit mask of a flag word (R338). -/
def flagKx (i : BitVec 12) (kx : Option (BitVec 22)) : BitVec 32 × BitVec 16 :=
  match kx with
  | none => (i.setWidth 32, 0xFFFF)
  | some p => ((p.extractLsb' 16 6 ++ i).setWidth 32, p.extractLsb' 0 16)

/-- The predication of a vector word: EN, Z and the mask (R145). -/
structure Pred where
  en : Bool
  z : Bool
  mask : Mask

def predOf (b : Bank) (kx : Option (BitVec 22)) : Pred :=
  match kx with
  | none => ⟨false, false, 0⟩
  | some p => ⟨p.getLsbD 3, p.getLsbD 4, b.rk (p.extractLsb' 0 3).toNat⟩

/-! ### Scalar fields -/

/-- Write a scalar result of an A word: a register, or CQ at code 38 (R43, R144). -/
def Bank.putA (b : Bank) (d : BitVec 6) (v : Word) : Act Bank :=
  if d.toNat < 32 then .ok (b.wa d.toNat v) else b.pushQ 6 false (vecOf v)

/-- Read a scalar source of an X word: a register, or a pop of DQ0-DQ3 at codes 32-35. -/
def Bank.getS (b : Bank) (f : BitVec 6) : Act (Word × Bank) :=
  if f.toNat < 32 then .ok (b.rs f.toNat, b) else (b.popQ (f.toNat - 32)).map fun r => (scalarOf r.1, r.2)

/-- Write a scalar result of an X word: a register, or a push to SQ0-SQ1 at codes 36-37. -/
def Bank.putS (b : Bank) (d : BitVec 6) (v : Word) : Act Bank :=
  if d.toNat < 32 then .ok (b.ws d.toNat v) else b.pushQ (d.toNat - 32) false (vecOf v)

/-- Read the scalar source of an A store: a register, or the entry that it pops from SQ0-SQ1, with the queues it pops
(R205). -/
def Bank.getASq (b : Bank) (f : BitVec 6) : Act (Word × List Nat) :=
  if f.toNat < 32 then (b.useA f.toNat).map fun v => (v, [])
  else (b.peekQ (f.toNat - 32)).map fun v => (scalarOf v, [f.toNat - 32])

/-! ### Vector fields -/

/-- Read a vector source: a register, a pop of DQ0-DQ3 at codes 48-51, or zeros at 56. -/
def Bank.getV (b : Bank) (f : BitVec 6) : Act (Vec × Bank) :=
  if f.toNat < 48 then .ok (b.rv f.toNat, b)
  else if f.toNat < 52 then b.popQ (f.toNat - 48)
  else .ok (0, b)

/-- Write a vector result: a register, or a push to SQ0-SQ1 at codes 52-53. -/
def Bank.putV (b : Bank) (d : BitVec 6) (v : Vec) : Act Bank :=
  if d.toNat < 48 then .ok (b.wv d.toNat v) else b.pushQ (d.toNat - 48) true v

/-- The lanes that Commit of R145 writes, from lane `i` on. -/
def commitLanes (p : Pred) : Nat → List Nat → List Nat → List Nat
  | i, r :: res, o :: old =>
    (if !p.en || p.mask.getLsbD i then r else if p.z then 0 else o) :: commitLanes p (i + 1) res old
  | _, res, [] => res
  | _, [], _ => []

/-- Commit of R145: `res` are the results of width `w`. -/
def Bank.commit (b : Bank) (p : Pred) (w : Nat) (d : BitVec 6) (res : List Nat) : Act Bank :=
  let old := elems (b.rv d.toNat).toNat w res.length
  b.putV d (BitVec.ofNat 4096 (pack w (commitLanes p 0 res old)))

/-- The element width of an integer width code, and the number of elements (R47). -/
def laneWidth (w : BitVec 2) : Nat := 32 >>> w.toNat
def lanes (w : Nat) : Nat := 4096 / w

/-- The elements of a vector. -/
def lanesOf (v : Vec) (w : Nat) : List Nat := elems v.toNat w (lanes w)

end Sys2Proof.Machine
end

