-- ==== Sys2Proof/Machine/Flags.lean ====
section
/-! DEFINITION. The floating-point flags and mode of a context (R162-R166): how a word's flags enter XFLAGS, and which
elements raise flags (R168). -/
namespace Sys2Proof.Machine

/-- OR the flags that a word raises into XFLAGS (R164). -/
def Bank.raiseFlags (b : Bank) (fl : Nat) : Bank := { b with xflags := b.xflags ||| BitVec.ofNat 5 fl }

/-- The rounding of X words: XRM and XSEED, at element index `i` (R167). -/
def Bank.rounding (b : Bank) (i : Nat) : RMode := ⟨b.xrm.toNat, false, b.xseed, i, none⟩

/-- The flags of the enabled elements (R145, R168), from element `i` on. -/
def enabledFlags (p : Pred) : Nat → List (Nat × Nat) → Nat
  | _, [] => 0
  | i, r :: l => (if !p.en || p.mask.getLsbD i then r.2 else 0) ||| enabledFlags p (i + 1) l

/-- Commit results with their flags. -/
def Bank.commitF (b : Bank) (p : Pred) (w : Nat) (d : BitVec 6) (res : List (Nat × Nat)) : Act Bank :=
  (b.raiseFlags (enabledFlags p 0 res)).commit p w d (res.map fun r => r.1)

/-- The rounding mode of a conversion: RND of its KX, or XRM (R180). -/
def Bank.convMode (b : Bank) (p : BitVec 22) (i : Nat) : RMode :=
  let r := (p.extractLsb' 9 3).toNat
  ⟨if r = 0 then b.xrm.toNat else r - 1, p.getLsbD 8, b.xseed, i, none⟩

end Sys2Proof.Machine
end

