-- ==== Sys2Proof/Machine/Fetch.lean ====
section
/-! DEFINITION. Fetching and choosing what an engine does next (R23, R41, R55, R108): the word at its PC, and the event
that the current core does on its own when no engine acts (log 2). -/
namespace Sys2Proof.Machine

/-- The word at byte offset `off` of the running context's text, read through its translation (R20, R23). -/
def fetchWord (s : State) (off : Word) : X (BitVec 32) :=
  match (curBank s s.core).kern with
  | none => gap 0 4
  | some k =>
    match translate s (viewOf s s.core (getCore s s.core).active) (fld (k.text + off).toNat 0 48) 0 4 true false false with
    | .error x => .error x
    | .ok f =>
      match firstBad s true false f.places 0 with
      | some (_, d) => xfault .dataPoison (faultInfo 1 0 0 d)
      | none =>
        match f.places with
        | p :: _ => .ok (BitVec.ofNat 32 (rdPlace s p))
        | [] => .ok 0

/-- What an engine does with its turn. -/
inductive Turned where
  | idle
  | walk (page : Nat)
  | run (i : Instr)
  | fault (code : FaultCode) (addr info : Word)
  deriving DecidableEq, Repr

/-- A word that fails a check of R55. -/
def rejected (r : Reject) : Turned := .run (.reservedOpcode r.sub r.fbit)

/-- A word that no KX precedes on engine `e` (R41, R55). `next` is the word after it, none past the text. -/
def plainWord (e : Engine) (w : BitVec 32) (next : Option (BitVec 32)) : Turned :=
  if tagOf w ≠ e.tag ∧ tagOf w ≠ 3 then .run .wordStepOver
  else if isKx w && dep w != 0 then
    match next with
    | none => rejected .kxPlace
    | some n => if tagOf n ≠ tagOf w then rejected .kxPlace else rejected ((rejectWith n true true).getD .dep)
  else
    match decode w with
    | .ok i => .run i
    | .error r => rejected ((rejectWith w false false).getD r)

/-- The word after a KX whose tag is `g` (R48, R55). -/
def extendedWord (g : BitVec 2) (w : BitVec 32) : Turned :=
  if tagOf w ≠ g ∨ isKx w then rejected .kxPlace
  else
    match decode w with
    | .ok i => .run i
    | .error r => rejected ((rejectWith w true false).getD r)

/-- A fetch that does not succeed: the context waits, its engine asks for a walk (R227), or the fault with the text address
(R110). -/
def fetchFault (addr : Word) : XErr → Turned
  | .wait => .idle
  | .walk page => .walk page
  | .fault code info _ => .fault code addr info

/-- The text address of an offset. -/
def textAddr (s : State) (off : Word) : Word :=
  match (curBank s s.core).kern with
  | none => off
  | some k => k.text + off

/-- What engine `e` of the current core does: nothing while it may not issue; past the end of the text, ILLEGAL/VALUE
(R110); otherwise what the word at its PC says. -/
def turnOf (s : State) (e : Engine) : Turned :=
  let b := curBank s s.core
  if !canIssue (getCore s s.core) b e then .idle
  else if b.textEnd ≤ (b.pcOf e).toNat then .run (.reservedOpcode 9 0)
  else
    match fetchWord s (b.pcOf e) with
    | .error x => fetchFault (textAddr s (b.pcOf e)) x
    | .ok w =>
      if (b.kxOf e).isSome || (isKx w && dep w != 0 && (tagOf w == e.tag || tagOf w == 3)) then
        if b.textEnd ≤ (b.pcOf e).toNat + 4 then rejected .kxPlace
        else
          match fetchWord s (b.pcOf e + 4) with
          | .error x => fetchFault (textAddr s (b.pcOf e + 4)) x
          | .ok n => if (b.kxOf e).isSome then extendedWord (tagOf w) n else plainWord e w (some n)
      else plainWord e w none

/-- What engine `e` does, and the state with the walks ended that its fetch meets (R227). -/
def turnAt (s : State) (e : Engine) : State × Turned :=
  let asked := fun s => match turnOf s e with
    | .walk page => .error (.walk page)
    | r => .ok r
  match lookUp s (ownView s) (.fetch e ((curBank s s.core).issue.steps.get e)) asked with
  | (s, .ok r) => (s, r)
  | (s, .error (.walk page)) => (s, .walk page)
  | (s, .error _) => (s, .idle)

/-- The fetch of engine `e` waits for a walker. -/
def fetchWaits (s : State) (e : Engine) (page : Nat) : State := waitWalk s (.fetch e ((curBank s s.core).issue.steps.get e)) page

/-- The fault of a fetch, on the engine that fetched. -/
def fetchStop (s : State) (e : Engine) (code : FaultCode) (addr info : Word) : State :=
  raiseFault s s.core ⟨code.num, e.tag, (curBank s s.core).pcOf e, addr, 0, 0, info⟩ none

/-! ### The next move when nothing is asked for (log 2) -/

/-- The next part of the core. -/
def Phase.next : Phase → Phase
  | .eng .a => .eng .x
  | .eng .x => .eng .m
  | .eng .m => .mem
  | .mem => .eng .a

/-- The index of the first entry that satisfies `p`. -/
def firstIdx {α : Type} (l : List α) (p : α → Bool) : Option Nat := lfind p l 0

/-- The A engine waits at A.WNEXT (R107). -/
def Bank.asksIndex (b : Bank) : Bool :=
  match b.wait with
  | .wnext _ _ => true
  | _ => false

/-- The A engine waits at A.TLBI (R364). -/
def Bank.shoots (b : Bank) : Bool :=
  match b.wait with
  | .tlbi _ _ _ _ mark => mark != 0
  | _ => false

/-- The A engine waits at A.REMAP (R366). -/
def Bank.remaps (b : Bank) : Bool :=
  match b.wait with
  | .remap _ mark => mark != 0
  | _ => false

/-- What a job can do next (R231, R234, R249, R315). -/
def jobMove (c i : Nat) (j : Job) : Instr :=
  match j.kind, j.phase with
  | .copy, .accepted => .copyJobBegin c i
  | .copy, .pushing => .copyQueuePush c i
  | .copy, _ => .copyJobComplete c i
  | .swap, .accepted => .swapJobStart c i
  | .swap, _ => .swapJobExchange c i
  | .coll, _ => .collectiveComplete c

/-- What a session can do next (R285). -/
def sessionMove (c : Nat) (z : Session) : Instr :=
  match z.phase with
  | .queued => .tempoSessionStart c
  | .boundary | .raising => .tempoBoundary c
  | .waiting => .tempoMissWaitEnd c
  | .finishing _ => .tempoFinish c

/-- What a queued matrix command can do next (R264). -/
def cmdMove (c i : Nat) (m : Cmd) : Instr :=
  if m.finished then .matrixCommandComplete c i
  else
    match m.op with
    | 0x30 | 0x31 => .arrayMmul c i
    | 0x32 => .arrayMdrain c i
    | 0x33 => .arrayMldacc c i
    | 0x34 => .arrayMclr c i
    | 0x40 => .tempoSessionStart c
    | _ => .queueEntryRetire c

/-- What the current core can do besides its three engines: take a fault, perform an access, answer a waiting word, move
a job, a matrix command or its session, pass the hand or feed a tile in its table, retire, or deliver an event. -/
def ownEvents (s : State) : List Instr :=
  let c := s.core
  let k := getCore s c
  let b := k.bank k.active
  let t := getTable s (tableOf c)
  (match b.pend with
   | some p => [if isService p.fr.code then .serviceFaultDrain c else .faultTake c]
   | none => if b.due.isEmpty then [] else [.asyncFaultTake c]) ++
  (if (k.bank0.pend.map fun p => p.abort) == some true then [.faultTake c] else []) ++
  numbered (fun i (x : Access) => .accessComplete c 0 i x.nextPlace) 0 k.bank0.inflight ++
  numbered (fun i (x : Access) => .accessComplete c 1 i x.nextPlace) 0 k.bank1.inflight ++
  (if k.bank0.stopping then [.stopComplete c 0] else []) ++ (if k.bank1.stopping then [.stopComplete c 1] else []) ++
  (if b.asksIndex then [.wnextServed c] else []) ++
  (if b.shoots then [.shootdownComplete c] else []) ++
  (if b.remaps then [.remapComplete c] else []) ++
  numbered (jobMove c) 0 k.jobs ++
  (match k.session with
   | some z => [sessionMove c z]
   | none => []) ++
  numbered (cmdMove c) 0 k.cmds ++ (if k.cmds1.isEmpty then [] else [.queueEntryRetire c]) ++
  (if t.feeds.isEmpty then [] else [.feedPush (tableOf c)]) ++
  (if t.reqs.isEmpty then [] else [.handGrant (tableOf c)]) ++
  (if b.exiting then [.exitComplete c] else []) ++
  (if b.round.waiting then [.roundComplete (b.launch.getD 0)] else []) ++
  [.eventDeliver c]

/-- Between these turns of its cores, the walker of a cluster goes on with its oldest walk (R227, log 2). -/
def walkerTurn (s : State) : Bool :=
  let n := (ownEvents s).length
  !(getCluster s (clusterOf s.core)).walks.isEmpty && s.turn % (n + 1) == n

/-- What the current core does by itself at its turn: what it can do, one after the other (log 2). -/
def ownEvent (s : State) : Instr :=
  let l := ownEvents s
  nth l (s.turn % l.length) (.eventDeliver s.core)

end Sys2Proof.Machine
end

