-- ==== Sys2Proof/Machine/Matrix.lean ====
section
/-! DEFINITION. The words of the M engine but those of tempo: scalar words (R268), the hand (R269, R270), the shape, format
and mode words (R271-R273), and the words that queue matrix commands and feeds, with their checks at issue (R264, R265,
R274-R279, R324, R325). -/
namespace Sys2Proof.Machine

/-! ### Scalar words (R268) -/

def execMMset (t : BitVec 4) (d : BitVec 6) (i : BitVec 12) (s : State) : Out :=
  issue (.mMset t d i) .m t false (onBank fun b => .ok (b.wm d.toNat (combine i.toNat 12 (b.kxOf .m)))) s

def execMMadd (t : BitVec 4) (d a b : BitVec 6) (s : State) : Out :=
  issue (.mMadd t d a b) .m t false (onBank fun k => .ok (k.wm d.toNat (k.rm a.toNat + k.rm b.toNat))) s

def execMMpop (t : BitVec 4) (d : BitVec 6) (s : State) : Out :=
  issue (.mMpop t d) .m t false (onBank fun b => (b.popQ 6).map fun r => r.2.wm d.toNat (scalarOf r.1)) s

def execMMlc (t : BitVec 4) (d : BitVec 6) (l : BitVec 4) (s : State) : Out :=
  issue (.mMlc t d l) .m t false
    (onBank fun b => .ok (b.wm d.toNat (w64 (loopOf b.issue .m l.toNat).lc.toNat))) s

/-! ### Shape and format (R271, R272) -/

def Bank.setShape (b : Bank) (m n k : Word) : Act Bank :=
  if 128 < m.toNat ∨ 128 < n.toNat ∨ 128 < k.toNat then badValue
  else .ok { b with mat := { b.mat with shapeM := m.setWidth 8, shapeN := n.setWidth 8, shapeK := k.setWidth 8 } }

def execMMshape (t : BitVec 4) (d a b : BitVec 6) (s : State) : Out :=
  issue (.mMshape t d a b) .m t false (onBank fun k => k.setShape (k.rm d.toNat) (k.rm a.toNat) (k.rm b.toNat)) s

/-- The format slots of the context's kernel. -/
def Bank.slots (b : Bank) : List FmtSlot :=
  match b.kern with
  | some k => k.fmts
  | none => []

/-- Subcode SLOT (R30, R55). -/
def badSlot {α : Type} : Act α := illegal 0x0B

/-- Make slot `n` current (R30). -/
def Bank.setSlot (b : Bank) (n : Nat) : Act Bank :=
  if b.slots.length ≤ n then badSlot else .ok { b with mat := { b.mat with slot := BitVec.ofNat 8 n } }

def execMMfmt (t : BitVec 4) (sl : BitVec 8) (s : State) : Out :=
  issue (.mMfmt t sl) .m t false (onBank fun b => b.setSlot sl.toNat) s

/-- M.MFMTL: FBASE + LC of a level with FMTL = 1. -/
def Bank.levelSlot (b : Bank) (l : Nat) : Act Bank :=
  match b.kern.bind fun k => k.levels[l]? with
  | some v => if v.fmtl then b.setSlot (v.fbase.toNat + (loopOf b.issue .m l).lc.toNat) else badSlot
  | none => badSlot

def execMMfmtl (t : BitVec 4) (l : BitVec 4) (s : State) : Out :=
  issue (.mMfmtl t l) .m t false (onBank fun b => b.levelSlot l.toNat) s

/-! ### The command queue (R264, R265) -/

/-- The current format slot; subcode SLOT where the kernel has none (R30). -/
def Bank.curSlot (b : Bank) : Act FmtSlot :=
  match b.slots[b.mat.slot.toNat]? with
  | some f => .ok f
  | none => badSlot

/-- The record of a command that issues now: its word, its KX and all that it captures (R265, R359). -/
def Bank.record (b : Bank) (id : Nat) (i : Instr) : Cmd :=
  let f := b.slots[b.mat.slot.toNat]?.getD ⟨false, 0, 0, 0⟩
  { Cmd.blank id b.ctx ((encode i).getD 0) with
    kx := b.kxOf .m
    slot := b.mat.slot
    shapeM := b.mat.shapeM
    shapeN := b.mat.shapeN
    shapeK := b.mat.shapeK
    fa := f.fa
    fb := f.fb
    fo := f.fo
    sat := f.sat
    mode := b.mat.mode
    seed := b.mat.seed }

/-- A member that does not hold the hand and has commands queued stands in the list (R255). -/
def joinList (s : State) (c : Nat) : State :=
  let t := getTable s (tableOf c)
  let k := getCore s c
  if t.holder == some c || k.granted == 0 || t.reqs.any (fun r => r.core == c) || k.cmds.isEmpty then s
  else setTable s (tableOf c) { t with reqs := t.reqs ++ [⟨c, none⟩] }

/-- Queue a command: a stall while the queue holds 16. -/
def queueCmd (i : Instr) (s : State) : Act State :=
  if 16 ≤ (getCore s s.core).queued then stall
  else
    let (id, s) := fresh s
    let m := (curBank s s.core).record id i
    .ok (joinList (modCore s s.core fun k => k.setCmds k.active (k.cmdsOf k.active ++ [m])) s.core)

/-- Membership and the accumulator number (R274, R275). -/
def Bank.mayUse (b : Bank) (acc : BitVec 3) : Act Unit :=
  need (b.mat.member && acc.toNat < b.mat.nacc.toNat) badValue

/-- The binding check of a queue that a word names (R324); queues of the table need none. -/
def linkBound (s : State) (q : Nat) : Bool :=
  !isLink q ||
    (let p := getPort s (linkPort q)
     p.bound && p.table.toNat == tableOf s.core && p.tenant == (curBank s s.core).tenant)

/-- ILLEGAL/VALUE with the number of a queue or register. -/
def badNumber {α : Type} (n : Nat) : Act α := plainFault .illegal (faultInfo 9 0 0 n)

def needLink (s : State) (q : Nat) : Act Unit := need (linkBound s q) (badNumber q)

/-! ### M.MHAND and M.MRELS (R269, R270) -/

/-- An M.MRELS of the core is still queued. -/
def Core.releasing (k : Core) : Bool := k.cmds.any fun m => m.op == 0x21

def handEffect (n : BitVec 4) (s : State) : Act State :=
  let c := s.core
  let k := getCore s c
  let t := getTable s (tableOf c)
  if k.active || (curBank s c).mat.member then badValue
  else if k.releasing then stall
  else if k.granted != 0 then
    .ok (modCur s c fun b => { b with mat := { b.mat with member := true, nacc := k.granted, held := false } })
  else if t.reqs.any (fun r => r.core == c) then stall
  else .error (.hold (setTable s (tableOf c) { t with reqs := t.reqs ++ [⟨c, some n⟩] }))

def execMMhand (t : BitVec 4) (n : BitVec 4) (s : State) : Out := issue (.mMhand t n) .m t false (handEffect n) s

def relsEffect (i : Instr) (s : State) : Act State :=
  if !(curBank s s.core).mat.member then .ok s
  else
    (queueCmd i s).map fun s =>
      modCur s s.core fun b => { b with mat := { b.mat with member := false, nacc := 0, held := false } }

def execMMrels (t : BitVec 4) (s : State) : Out := issue (.mMrels t) .m t false (relsEffect (.mMrels t)) s

/-! ### M.MRMODE and M.MFENCE (R273, R278) -/

def modeEffect (i : Instr) (m : BitVec 3) (r : BitVec 6) (s : State) : Act State :=
  (queueCmd i s).map fun s =>
    modCur s s.core fun b => { b with mat := { b.mat with mode := m, seed := (b.rm r.toNat).setWidth 32 } }

def execMMrmode (t : BitVec 4) (m : BitVec 3) (r : BitVec 6) (s : State) : Out :=
  issue (.mMrmode t m r) .m t false (modeEffect (.mMrmode t m r) m r) s

def execMMfence (t : BitVec 4) (s : State) : Out := issue (.mMfence t) .m t false (queueCmd (.mMfence t)) s

/-! ### M.MMUL and M.MMULK (R274, R325) -/

/-- The checks of a forward in their order; without one, those of the queues (R324, R325). -/
def mulLinks (s : State) (qa qb : Nat) : Act Unit := do
  match (curBank s s.core).kxOf .m with
  | some p =>
    if p.getLsbD 7 then
      need (isInLink qa || isInLink qb) (badNumber qa)
      needLink s qa
      needLink s qb
      needLink s (fld p.toNat 0 7)
    else
      needLink s qa
      needLink s qb
  | none =>
    needLink s qa
    needLink s qb

def mulEffect (i : Instr) (keep : Bool) (acc : BitVec 3) (qa qb : BitVec 7) (s : State) : Act State := do
  let b := curBank s s.core
  b.mayUse acc
  let f ← b.curSlot
  need (!(qb == 127 && (!b.mat.held || b.mat.heldFmt != f.fb))) badValue
  mulLinks s qa.toNat qb.toNat
  let s ← queueCmd i s
  .ok (if keep then modCur s s.core fun b => { b with mat := { b.mat with held := true, heldFmt := f.fb } } else s)

def execMMmul (t : BitVec 4) (c : BitVec 3) (a b : BitVec 7) (f : BitVec 1) (s : State) : Out :=
  issue (.mMmul t c a b f) .m t false (mulEffect (.mMmul t c a b f) false c a b) s

def execMMmulk (t : BitVec 4) (c : BitVec 3) (a b : BitVec 7) (f : BitVec 1) (s : State) : Out :=
  issue (.mMmulk t c a b f) .m t false (mulEffect (.mMmulk t c a b f) true c a b) s

/-! ### M.MDRAIN, M.MLDACC and M.MCLR (R275-R277) -/

def drainCmdEffect (i : Instr) (acc : BitVec 3) (q : BitVec 7) (s : State) : Act State := do
  let b := curBank s s.core
  b.mayUse acc
  let _ ← b.curSlot
  needLink s q.toNat
  queueCmd i s

def execMMdrain (t : BitVec 4) (c : BitVec 3) (a : BitVec 7) (s : State) : Out :=
  issue (.mMdrain t c a) .m t false (drainCmdEffect (.mMdrain t c a) c a) s

def ldaccEffect (i : Instr) (acc : BitVec 3) (q : BitVec 7) (s : State) : Act State := do
  (curBank s s.core).mayUse acc
  needLink s q.toNat
  queueCmd i s

def execMMldacc (t : BitVec 4) (c : BitVec 3) (a : BitVec 7) (s : State) : Out :=
  issue (.mMldacc t c a) .m t false (ldaccEffect (.mMldacc t c a) c a) s

def clrEffect (i : Instr) (acc : BitVec 3) (s : State) : Act State := do
  (curBank s s.core).mayUse acc
  queueCmd i s

def execMMclr (t : BitVec 4) (c : BitVec 3) (s : State) : Out :=
  issue (.mMclr t c) .m t false (clrEffect (.mMclr t c) c) s

/-! ### M.MFEED (R279) -/

/-- The places of the sectors of an image, resolved for reading, and what translated them. -/
def imagePlaces (s : State) (v : View) : List Word → Act (List Place × List Used)
  | [] => .ok ([], [])
  | x :: l =>
    match liftX x 0 0 (resolve s v x 0 32 true false false) with
    | .error e => .error e
    | .ok f => (imagePlaces s v l).map fun r => (f.places ++ r.1, f.uses ++ r.2)

/-- The first sector of a list that lies in a position region. -/
def firstPosition (s : State) (v : View) : List Word → Option Word
  | [] => none
  | x :: l => if inPosition s v x then some x else firstPosition s v l

/-- M.MFEED of R279. Its ILLEGAL/VALUE has no FAULT.ADDR where the address itself is not allowed, and the sector's address where one lies
in a position region (DESIGN CHOICE, log 18). -/
def feedEffect (q : BitVec 7) (r : BitVec 7) (s : State) : Act State :=
  let b := curBank s s.core
  let v := viewOf s s.core (getCore s s.core).active
  let x := b.rm r.toNat
  match b.curSlot with
  | .error e => .error e
  | .ok f =>
    if x.toNat % 512 ≠ 0 ∨ ¬(aperture x = .global ∨ aperture x = .priv) then badValue
    else
      let l := tab (fun i => x + w64 (32 * i)) 0 (containerSize f.fb / 32)
      match imagePlaces s v l with
      | .error e => .error e
      | .ok (ps, uses) =>
        match firstPosition s v l with
        | some y => .error (.fault .illegal y 0 0 (faultInfo 9))
        | none =>
          if 32 ≤ (getTable s (tableOf s.core)).feeds.length then stall
          else
            let (id, s) := fresh s
            .ok (modTable s (tableOf s.core) fun t =>
              { t with feeds := t.feeds ++ [⟨s.core, id, q.toNat, f.fb, b.tenant, ps, uses.eraseDups⟩] })

def execMMfeed (t : BitVec 4) (a b : BitVec 7) (s : State) : Out :=
  issue (.mMfeed t a b) .m t false (feedEffect a b) s

end Sys2Proof.Machine
end

