-- ==== Sys2Proof/Machine/Packets.lean ====
section
/-! DEFINITION. Request packets as the source sends them: paths and usable classes (R301-R303), the streams of a core
(R307) and its count of unacknowledged writes (R311). -/
namespace Sys2Proof.Machine

/-! ### Paths (R301, R302) -/

/-- The dimension that class `k` starts at. -/
def pathStart (k : Nat) : Nat := nth [0, 6, 11, 16] k 0

/-- The hops of Path among `n` dimensions from the `i`-th on: the node each leaves and its dimension. -/
def pathFrom (k dst : Nat) : Nat → Nat → Nat → List (Nat × Nat)
  | 0, _, _ => []
  | n + 1, i, x =>
    let d := (pathStart k + i) % 22
    if bit (x ^^^ dst) d then (x, d) :: pathFrom k dst n (i + 1) (x ^^^ 2 ^ d) else pathFrom k dst n (i + 1) x

/-- Path of R301. -/
def path (src dst k : Nat) : List (Nat × Nat) := pathFrom k dst 22 0 src

/-- The index of a link in the down table (R302). -/
def linkIndex (x d : Nat) : Nat := d * 2 ^ 21 + ((x >>> (d + 1)) <<< d) + x % 2 ^ d

/-- Whether the down table marks the link. -/
def linkDown (s : State) (x d : Nat) : Bool :=
  let i := linkIndex x d
  bit (rdByte s (s.fabric.downBase.toNat / 64 * 64 % 2 ^ 40 + i / 8)).toNat (i % 8)

/-- Whether port `d` is up (R299). -/
def portIsUp (s : State) (d : Nat) : Bool := (getPort s d).st == 2

/-- A group of flits has come in whole: the tag failures in a row inbound end (R394). -/
def Port.heard (p : Port) : Port := { p with tagsIn := 0 }

/-- Something has come in whole from the neighbour with a label, over the one link between. -/
def heardOf (s : State) (src : Label) : State :=
  match (path src.toNat s.fabric.label.toNat 0) with
  | [(_, d)] => modPort s d Port.heard
  | _ => s

/-- Whether a hop of a path counts as down for this node as the source. -/
def hopDown (s : State) (h : Nat × Nat) : Bool :=
  linkDown s h.1 h.2 || (h.1 == s.fabric.label.toNat && (getPort s h.2).st == 0)

/-- Whether class `k` is usable toward `dst` (R302). -/
def classUsable (s : State) (dst : Label) (k : Nat) : Bool :=
  (!s.fabric.downBase.getLsbD 0 || !(path s.fabric.label.toNat dst.toNat k).any (hopDown s)) &&
    !s.fabric.marks.contains (dst, BitVec.ofNat 2 k)

/-- RCLASS of R303: the sequence class if usable, else the next usable one. -/
def routeClass (s : State) (dst : Label) (k : BitVec 2) : Option (BitVec 2) :=
  ((tab (fun i => (k.toNat + i) % 4) 0 4).find? (classUsable s dst)).map (BitVec.ofNat 2)

/-- A packet leaves the node: it queues on the port of its first hop, if that port takes new packets. -/
def transmit (s : State) (p : Packet) : State :=
  match p.rclass with
  | none => s
  | some k =>
    match path s.fabric.label.toNat p.dst.toNat k.toNat with
    | [] => s
    | (_, d) :: _ => if portIsUp s d then modPort s d fun q => { q with pkts := q.pkts ++ [p] } else s

/-! ### Streams (R307, R311) -/

def SendStream.is (t : SendStream) (core : Nat) (dst : Label) (k : BitVec 2) : Bool :=
  t.core == core && t.dst == dst && t.k == k

/-- The stream, or one that has sent nothing. -/
def getSend (s : State) (core : Nat) (dst : Label) (k : BitVec 2) : SendStream :=
  (s.fabric.sends.find? fun t => t.is core dst k).getD ⟨core, dst, k, 0, [], []⟩

/-- Put a stream in place of the one with its key. -/
def putSend (s : State) (t : SendStream) : State :=
  let l := s.fabric.sends
  let l := match lfind (fun u : SendStream => u.is t.core t.dst t.k) l 0 with
    | some i => lset l i t
    | none => l ++ [t]
  { s with fabric := { s.fabric with sends := l } }

/-- Whether a packet is a write that a core counts (R311). -/
def packetWrites (p : Packet) : Bool := p.kind != .load && p.kind != .replica

/-- Whether a stream has room for a packet: at most 64 unacknowledged, an STO not counted (R307, R310). -/
def SendStream.room (t : SendStream) : Bool := (t.unacked.filter fun p => p.kind != .sto).length < 64

def Core.paths (k : Core) (i : Nat) : Nat := (sget k.pathcnt i (0 : BitVec 11)).toNat

/-- The write packets of a core that are unacknowledged. -/
def Core.pathTotal (k : Core) : Nat := k.paths 0 + k.paths 1 + k.paths 2 + k.paths 3

/-- The class with the smallest PATHCNT (R303). -/
def Core.leastPath (k : Core) : BitVec 2 :=
  BitVec.ofNat 2 ((tab (fun i => i) 1 3).foldl (fun m i => if k.paths i < k.paths m then i else m) 0)

/-- Count a write packet sent, or acknowledged. -/
def countPath (s : State) (p : Packet) (up : Bool) : State :=
  if packetWrites p then
    modCore s p.core fun k =>
      let n := k.paths p.sclass.toNat
      { k with pathcnt := sset k.pathcnt p.sclass.toNat (BitVec.ofNat 11 (if up then n + 1 else n - 1)) 0 }
  else s

/-- The next numbers of a core's four streams toward a node: the MARKs of an STO (R310). -/
def streamMarks (s : State) (c : Nat) (n : Label) : List (BitVec 32) :=
  tab (fun k => (getSend s c n (BitVec.ofNat 2 k)).next) 0 4

/-- Send a packet as the next of its stream: its number. -/
def sendPacket (s : State) (p : Packet) : BitVec 32 × State :=
  let t := getSend s p.core p.dst p.sclass
  let p := { p with num := t.next, rclass := routeClass s p.dst p.sclass
                    mark := if p.kind = .sto then streamMarks s p.core p.dst else p.mark }
  let s := putSend s { t with next := t.next + 1, unacked := t.unacked ++ [p] }
  (p.num, transmit (countPath s p true) p)

/-- A packet of a core toward a node, with nothing but its address. -/
def blankPacket (s : State) (core : Nat) (dst : Label) (k : BitVec 2) (kind : PacketKind) (tenant : Tenant)
    (off : BitVec 40) : Packet where
  src := s.fabric.label
  core := core
  dst := dst
  sclass := k
  rclass := none
  num := 0
  kind := kind
  tenant := tenant
  off := off
  plane := 0
  suit := 0
  size := 0
  lane := false
  part := 0
  parts := 1
  data := []
  op := 0
  wide := false
  opnd := 0
  swap := 0
  mark := []
  ebits := 0
  elems := []
  resp := none

/-- The bytes of an access of `size` bytes at `off` that fall in part `i`: naturally aligned blocks of 256 (R304). -/
def partSpan (off size i : Nat) : Nat × Nat :=
  let lo := if i = 0 then off else (off / 256 + i) * 256
  let hi := min (off + size) ((off / 256 + i + 1) * 256)
  (lo, hi - lo)

/-- The number of parts of an access (R304). -/
def partCount (off size : Nat) : Nat := (off + size - 1) / 256 + 1 - off / 256

/-- The packets of an access of `size` bytes, each with the bytes of `data` that it carries. -/
def splitPacket (p : Packet) (size : Nat) (data : List Byte) : List Packet :=
  let n := partCount p.off.toNat size
  tab (fun i =>
    let (lo, len) := partSpan p.off.toNat size i
    { p with off := BitVec.ofNat 40 lo, size := len, part := i, parts := n,
             data := (data.drop (lo - p.off.toNat)).take len }) 0 n

end Sys2Proof.Machine
end

