-- ==== Sys2Proof/Machine/Record.lean ====
section
/-! DEFINITION. What the shoe reads and checks of a launch: the record (R86), tenant records (R215), the kernel descriptor
and its tables (R19-R29), preloads (R101), the group count (R94), and checks 1 to 23 in their order (R21, R92, R403). -/
namespace Sys2Proof.Machine

/-! ### The record (R86) -/

abbrev Rec := BitVec 512

def recF (r : Rec) (lo n : Nat) : Nat := fld r.toNat lo n
def recBit (r : Rec) (i : Nat) : Bool := r.getLsbD i

def recKd (r : Rec) : Nat := recF r 0 64
def recParam (r : Rec) : Nat := recF r 64 64
def recGc (r : Rec) : Nat := recF r 128 64
/-- The target of wait `i`, and its counter. -/
def recWt (r : Rec) (i : Nat) : Nat := recF r (192 + 32 * i) 32
def recWc (r : Rec) (i : Nat) : Nat := recF r (351 + 12 * i) 12
def recBcnt (r : Rec) : Nat := recF r 399 12
def recWen (r : Rec) (i : Nat) : Bool := recBit r (411 + i)
def recBen (r : Rec) : Bool := recBit r 415
/-- MODE: RANGE, or DEAL. -/
def recRange (r : Rec) : Bool := recBit r 416
def recPrio (r : Rec) : Nat := recF r 417 2
def recPe (r : Rec) : Bool := recBit r 419
def recRepl (r : Rec) : Bool := recBit r 420
def recPlcount (r : Rec) : Nat := recF r 421 7
def recClmask (r : Rec) : Nat := recF r 428 16
def recTenant (r : Rec) : Tenant := r.extractLsb' 444 16
def recDidx (r : Rec) : Nat := recF r 460 22
def recLbase (r : Rec) : Nat := recF r 482 22
def recVer (r : Rec) : Nat := recF r 504 8

/-- The clusters whose cores may run the launch. -/
def recClusters (r : Rec) : List Nat :=
  (tab (fun i => i) 0 16).filter fun c => recClmask r == 0 || bit (recClmask r) c

/-- The cores of those clusters, ascending (R100). -/
def recCores (r : Rec) : List Nat := (recClusters r).flatMap fun c => tab (fun i => i) (64 * c) 64

/-- A record with a field of `n` bits from `lo` on replaced. -/
def recPut (r : Rec) (lo n v : Nat) : Rec :=
  merge r ((BitVec.ofNat 512 v) <<< lo) ((BitVec.ofNat 512 (2 ^ n - 1)) <<< lo)

/-- The record as an issuer without privilege may submit it (R106). -/
def trimRecord (v : LaunchQueue) (t : Tenant) (priv : Bool) (r : Rec) : Rec :=
  if priv then r else recPut (recPut r 444 16 t.toNat) 417 2 (min (recPrio r) v.maxp.toNat)

/-! ### Tenant records (R215) -/

/-- The tenant record of a tenant; none where check 22 fails. -/
def tenantXlat (s : State) (t : Tenant) : Option Xlat :=
  let base := s.shoe.tentabBase.toNat / 32 * 32 % 2 ^ 40 + 32 * t.toNat
  let w := fun i => w64 (rdNum s (base + 8 * i) 8)
  if s.shoe.tentabCount.toNat ≤ t.toNat ∨ !backed s base ∨ !backed s (base + 31) ∨ poisoned s base ∨ retired s base then none
  else if w 0 &&& ~~~0xFFFFFFF000 ≠ 0 ∨ w 1 &&& ~~~0xFFFFFFFFC0 ≠ 0 ∨ 65536 < (w 2).toNat ∨ 3 < (w 3).toNat then none
  else some ⟨w 0, w 1, w 2, w 3⟩

/-- The view through which the shoe and other nodes' accesses use a tenant's space. -/
def tenantView (t : Tenant) (x : Xlat) : View := ⟨0, false, t, false, x, 0, 0, 0, false⟩

/-! ### Reads of GLOBAL byte regions (R20) -/

/-- The physical address of a readable byte in a byte region. -/
def readablePa (s : State) (v : View) (va : Nat) : Option Nat :=
  match walk s v va with
  | .error _ => none
  | .ok r =>
    if bit r.leaf 2 then none
    else
      match translate s v va 0 1 true false false with
      | .ok f => match f.places with
        | ⟨.mem pa _, _, _⟩ :: _ => some pa
        | _ => none
      | .error _ => none

/-- The parts of a range that lie in one page each. -/
def pageParts (va n : Nat) : List (Nat × Nat) :=
  tab (fun i =>
    let lo := if i = 0 then va else (va / 4096 + i) * 4096
    (lo, min (va + n) ((va / 4096 + i + 1) * 4096) - lo)) 0 ((va % 4096 + n + 4095) / 4096)

/-- Whether every byte of a range is a readable byte of GLOBAL space. -/
def readable (s : State) (v : View) (va n : Nat) : Bool :=
  va + n ≤ 2 ^ 48 &&
    (pageParts va n).all fun p => p.2 == 0 || ((readablePa s v p.1).isSome && (readablePa s v (p.1 + p.2 - 1)).isSome)

/-- Whether a sector of a range of storage is poisoned or on a retired bank. -/
def spoiled (s : State) (pa n : Nat) : Bool :=
  (tab (fun i => poisoned s (32 * i) || retired s (32 * i)) (pa / 32) ((pa % 32 + n + 31) / 32)).contains true

/-- The bytes of a range; none where some byte does not translate, is not readable or lies in a position region. What the
shoe reads of a launch (its slot, descriptor, loop and format entries, group count, parameter slots, preloads) it can also
not read where a sector is poisoned or on a retired bank, while check 13 asks only whether TEXT and SPADIMG are readable:
the spec is silent on poison here (log 47). -/
def readGlobal (s : State) (v : View) (va n : Nat) : Option (List Byte) :=
  if readable s v va n then
    (pageParts va n).foldl (fun acc p =>
      match acc, readablePa s v p.1 with
      | some l, some pa => if spoiled s pa p.2 then none else some (l ++ rdBytes s pa p.2)
      | _, _ => none) (some [])
  else none

def readNum (s : State) (v : View) (va n : Nat) : Option Nat := (readGlobal s v va n).map ofBytes

/-! ### Loop entries and format slots (R24, R25, R29) -/

/-- A loop-table entry as it stands in memory. -/
structure LoopEntry where
  raw : Nat
  deriving DecidableEq, Repr

def LoopEntry.kind (e : LoopEntry) : Nat := fld e.raw 0 2
def LoopEntry.pos (e : LoopEntry) : Nat := fld e.raw 2 4
def LoopEntry.tsrc (e : LoopEntry) : Nat := fld e.raw 6 2
def LoopEntry.teng (e : LoopEntry) : Nat := fld e.raw 8 2
def LoopEntry.ireg (e : LoopEntry) : Nat := fld e.raw 10 5
def LoopEntry.fmtl (e : LoopEntry) : Bool := bit e.raw 15
def LoopEntry.fbase (e : LoopEntry) : Nat := fld e.raw 16 8
def LoopEntry.trip (e : LoopEntry) : Nat := fld e.raw 32 32
def LoopEntry.start (e : LoopEntry) : Nat := fld e.raw 64 32
def LoopEntry.stepW (e : LoopEntry) : Nat := fld e.raw 96 32

/-- A reserved field of an entry is nonzero (check 2). -/
def LoopEntry.reservedBad (e : LoopEntry) : Bool :=
  fld e.raw 24 8 != 0 || (!e.fmtl && e.fbase != 0) || (e.tsrc != 2 && e.teng != 0) ||
    (e.kind == 0 && (e.stepW != 0 || e.start != 0 || e.ireg != 0)) || (e.tsrc == 1 && 256 ≤ e.trip) ||
    (e.tsrc == 2 && 32 ≤ e.trip)

/-- Check 7 of one entry. -/
def LoopEntry.kindBad (e : LoopEntry) : Bool :=
  e.kind == 3 || e.tsrc == 3 || (e.tsrc == 2 && (e.teng == 3 || e.kind != 0)) || (e.fmtl && e.kind != 0)

/-- DIES levels lie outside CORES levels, and these outside TEMPORAL levels (R24). With no CORES level R24 orders neither of DIES
and TEMPORAL; the model orders these two as well (DESIGN CHOICE, log 59). -/
def LoopEntry.rank (e : LoopEntry) : Nat := if e.kind = 2 then 0 else if e.kind = 1 then 1 else 2

/-- Check 8: POS values repeat or run past the table, or a level lies outside one that must be outside it. -/
def nestBad (n : Nat) (l : List LoopEntry) : Bool :=
  l.any (fun e => n ≤ e.pos) || !(l.map LoopEntry.pos).Nodup ||
    l.any fun e => l.any fun f => decide (e.pos < f.pos) && decide (f.rank < e.rank)

/-- A format slot holds an allowed combination (R29, check 12). -/
def slotOk (w : Nat) : Bool :=
  let fa := fld w 0 4
  let fb := fld w 4 4
  ((fa == 1 && fb == 1) || (fa == 2 && fb == 2) || ((fa == 3 || fa == 4) && (fb == 3 || fb == 4 || fb == 5))) &&
    fld w 8 4 ≤ 4

def slotOf (w : Nat) : FmtSlot :=
  ⟨bit w 12, BitVec.ofNat 4 (fld w 8 4), BitVec.ofNat 4 (fld w 4 4), BitVec.ofNat 4 (fld w 0 4)⟩

/-- The trip count that dispatch resolves: none where a register gives it (R25). A slot that cannot be read counts
as 0 (R92). -/
def LoopEntry.resolved (s : State) (v : View) (param : Nat) (e : LoopEntry) : Option Nat :=
  match e.tsrc with
  | 0 => some e.trip
  | 1 => some (low 32 ((readNum s v (param + 8 * (e.trip % 256)) 8).getD 0))
  | _ => none

/-- The parameter slot that an entry names can be read (check 19). -/
def LoopEntry.slotRead (s : State) (v : View) (param : Nat) (e : LoopEntry) : Bool :=
  e.tsrc != 1 || (readNum s v (param + 8 * (e.trip % 256)) 8).isSome

def LoopEntry.level (e : LoopEntry) (t : Option Nat) : Level where
  kind := if e.kind = 1 then .cores else if e.kind = 2 then .dies else .temporal
  pos := BitVec.ofNat 4 e.pos
  trip := match t with
    | some n => .fixed n
    | none => .reg ((engineOf (BitVec.ofNat 2 e.teng)).getD .a) (BitVec.ofNat 5 e.trip)
  ireg := BitVec.ofNat 5 e.ireg
  fmtl := e.fmtl
  fbase := BitVec.ofNat 8 e.fbase
  start := BitVec.ofNat 32 e.start
  stride := BitVec.ofNat 32 e.stepW

/-- The trip count of a spatial level. -/
def Level.count (l : Level) : Nat :=
  match l.trip with
  | .fixed n => n
  | .reg _ _ => 0

/-! ### The spatial levels (R26, R27) -/

/-- Insert a level by POS. -/
def insertPos (l : Level) : List Level → List Level
  | [] => [l]
  | x :: r => if l.pos.toNat ≤ x.pos.toNat then l :: x :: r else x :: insertPos l r

/-- The levels of one kind, outermost first. -/
def spatial (k : LoopKind) (ls : List Level) : List Level := (ls.filter fun l => l.kind == k).foldr insertPos []

def product : List Nat → Nat
  | [] => 1
  | x :: l => x * product l

/-- TupleAt of R27; `sum` adds the indices so far. -/
def tupleFrom (p : Nat) (serp : Bool) : Nat → List Nat → List Nat
  | _, [] => []
  | sum, t :: l =>
    let q := p / product l % t
    let i := if serp ∧ sum % 2 = 1 then t - 1 - q else q
    i :: tupleFrom p serp (sum + i) l

def tupleAt (p : Nat) (serp : Bool) (ts : List Nat) : List Nat := tupleFrom p serp 0 ts

/-- The index of a level's iteration `i` (R26). -/
def levelIndex (l : Level) (i : Nat) : Word := l.start.signExtend 64 + w64 i * l.stride.signExtend 64

/-- The index registers that iteration `p` of a kind sets, in POS order. -/
def indexWrites (k : Kernel) (kind : LoopKind) (p : Nat) : List (Nat × Word) :=
  let ls := spatial kind k.levels
  let serp := if kind = .dies then k.dord else k.cord
  ((List.zip ls (tupleAt p serp (ls.map Level.count))).map fun x => (x.1.ireg.toNat, levelIndex x.1 x.2)).filter
    fun x => x.1 != 0

/-- The number of iterations of the CORES levels, and of the DIES levels. -/
def coresTotal (k : Kernel) : Nat := product ((spatial .cores k.levels).map Level.count)
def diesTotal (k : Kernel) : Nat := product ((spatial .dies k.levels).map Level.count)
def Kernel.hasCores (k : Kernel) : Bool := k.levels.any fun l => l.kind == .cores
def Kernel.hasDies (k : Kernel) : Bool := k.levels.any fun l => l.kind == .dies

/-! ### Preloads (R101) -/

/-- A preload entry breaks R101. -/
def preloadBad (e : Nat) : Bool :=
  let file := fld e 0 2
  let reg := fld e 8 8
  fld e 2 6 != 0 || fld e 16 48 != 0 ||
    (match file with
      | 2 => decide (48 ≤ reg) || fld e 64 64 % 32 != 0
      | 3 => reg == 0 || decide (16 ≤ reg)
      | _ => reg == 0 || decide (32 ≤ reg))

/-- The preload of an entry; none where its vector block cannot be read. -/
def preloadOf (s : State) (v : View) (e : Nat) : Option Preload :=
  let file := fld e 0 2
  let val := fld e 64 64
  if file = 2 then
    (readNum s v val 512).map fun n => ⟨2, BitVec.ofNat 8 (fld e 8 8), w64 val, BitVec.ofNat 4096 n⟩
  else some ⟨BitVec.ofNat 2 file, BitVec.ofNat 8 (fld e 8 8), w64 val, 0⟩

/-! ### The checks (R21, R92, R403) -/

/-- A check fails: its number. -/
abbrev Checked (α : Type) := Except Nat α

def check (n : Nat) (bad : Bool) : Checked Unit := if bad then .error n else .ok ()

/-- Entries of `size` bytes from `va` on, each as far as it can be read. -/
def readEntries (s : State) (v : View) (va size n : Nat) : List (Option Nat) :=
  tab (fun i => readNum s v (va + size * i) size) 0 n

/-- What the checks find of a launch; `banksBad` tells that check 23 fails, which comes after check 21 (R92). -/
structure Admitted where
  kern : Kernel
  preloads : List Preload
  total : Nat
  dies : Nat
  banksBad : Bool
  deriving DecidableEq, Repr

/-- Checks 14 and 15, then 22: the view of the launch's tenant. -/
def checkRecord (s : State) (readOk arrived : Bool) (r : Rec) : Checked View := do
  check 14 (!readOk || recVer r != 1)
  check 15 (recF r 320 31 != 0 || (!arrived && (recRepl r || recDidx r != 0)))
  match tenantXlat s (recTenant r) with
  | none => .error 22
  | some x => .ok (tenantView (recTenant r) x)

/-- The KDVER values that the package accepts: DISC.VERS0 and none of DISC.VERS8 to 31, which are 0 (R21, R383; DESIGN CHOICE,
log 8). -/
def kdVersions : List Nat := [0x0100]

/-- Checks 1 to 13 of R21 but those that need the trip counts. -/
def checkDesc (d : Nat) (ls : List LoopEntry) (fs : List Nat) : Checked Unit := do
  let text := fld d 64 64
  let textLen := fld d 128 32
  let nl := fld d 16 8
  let ns := fld d 32 16
  check 1 (!kdVersions.contains (fld d 0 16))
  check 2 (fld d 480 32 != 0 || fld d 48 16 != 0 || fld d 27 5 != 0 || ls.any LoopEntry.reservedBad ||
    fs.any fun w => fld w 13 51 != 0)
  check 3 (decide (16 < nl) || decide (256 < ns) || text % 64 != 0 || fld d 256 64 % 16 != 0 || fld d 320 64 % 8 != 0 ||
    fld d 384 64 % 32 != 0 || (nl == 0 && fld d 256 64 != 0) || (ns == 0 && fld d 320 64 != 0) ||
    (fld d 448 32 == 0 && fld d 384 64 != 0))
  check 4 (textLen == 0 || decide (2 ^ 24 < textLen) || decide (textLen ≤ fld d 160 32) ||
    (bit d 24 && decide (textLen ≤ fld d 192 32)))
  check 5 ((fld d 224 16 != 0 && (decide (fld d 224 16 < 16) || decide (4096 < fld d 224 16))) ||
    decide (256 < fld d 240 16))
  check 6 (fld d 448 32 % 32 != 0 || decide (524288 < fld d 448 32))
  check 7 (ls.any LoopEntry.kindBad)
  check 8 (nestBad nl ls)
  check 9 (ls.any fun e => e.tsrc == 2 && e.teng == 2 && decide (16 ≤ e.trip % 32))

/-- The lowest POS of a CORES level: the level that a group count replaces (R94). -/
def groupPos (ls : List LoopEntry) : Option Nat :=
  ls.foldl (fun m e => if e.kind = 1 then some (min e.pos (m.getD e.pos)) else m) none

/-- The kernel of a descriptor. -/
def kernelOf (d : Nat) (levels : List Level) (fmts : List FmtSlot) : Kernel where
  text := w64 (fld d 64 64)
  textLen := fld d 128 32
  entry := fld d 160 32
  trapOff := fld d 192 32
  thv := bit d 24
  cord := bit d 25
  dord := bit d 26
  slipInit := BitVec.ofNat 16 (fld d 224 16)
  handLen := BitVec.ofNat 16 (fld d 240 16)
  spadImg := w64 (fld d 384 64)
  spadLen := fld d 448 32
  levels := levels
  fmts := fmts

/-- Whether some core of the launch's clusters lacks a scratchpad bank of the image (check 23). -/
def imageBanksBad (s : State) (r : Rec) (spadLen : Nat) : Bool :=
  let need := 2 ^ ((spadLen + 32767) / 32768) - 1
  spadLen != 0 && (recCores r).any fun c => (getCore s c).spmask.toNat &&& need != need

/-- The checks of a launch up to 20 in their order; `r` is the record, `readOk` whether its slot could be read, `arrived` whether
it came as a replica. -/
def admission (s : State) (readOk arrived : Bool) (r : Rec) : Checked Admitted := do
  let v ← checkRecord s readOk arrived r
  check 16 (recKd r % 64 != 0 || recParam r % 8 != 0 || recGc r % 8 != 0)
  match readNum s v (recKd r) 64 with
  | none => .error 16
  | some d =>
    check 17 (decide (64 < recPlcount r))
    let pls := readEntries s v (recParam r + 2048) 16 (recPlcount r)
    check 18 ((pls.filterMap id).any preloadBad)
    let pre := pls.map fun e => e.bind (preloadOf s v)
    let lraw := readEntries s v (fld d 256 64) 16 (min (fld d 16 8) 16)
    let fraw := readEntries s v (fld d 320 64) 8 (min (fld d 32 16) 256)
    let ls := lraw.filterMap fun e => e.map LoopEntry.mk
    let fs := fraw.filterMap id
    checkDesc d ls fs
    let gc := if recGc r = 0 then none else some ((readNum s v (recGc r) 8).getD 0)
    let levels := ls.map fun e =>
      let t := e.resolved s v (recParam r)
      e.level (if groupPos ls = some e.pos ∧ e.kind = 1 then (match gc with
        | some g => some g
        | none => t) else t)
    let k := kernelOf d levels (fs.map slotOf)
    check 10 (decide (2 ^ 48 - 1 < coresTotal k) || decide (2 ^ 22 < diesTotal k))
    check 11 (ls.any fun e => match e.resolved s v (recParam r) with
      | some t => e.fmtl && decide (1 ≤ t) && decide (fld d 32 16 ≤ e.fbase + t - 1)
      | none => false)
    check 12 (fs.any fun w => !slotOk w)
    check 13 (lraw.contains none || fraw.contains none || !readable s v (fld d 64 64) (4 * fld d 128 32) ||
      !readable s v (fld d 384 64) (fld d 448 32))
    check 19 (pre.contains none || (recGc r != 0 && (readNum s v (recGc r) 8).isNone) ||
      ls.any fun e => !e.slotRead s v (recParam r))
    check 20 (recGc r != 0 && !k.hasCores)
    .ok ⟨k, pre.filterMap id, coresTotal k, diesTotal k, imageBanksBad s r k.spadLen⟩

/-! ### Appending a record (R84, R96, R106) -/

/-- Write bytes to a range of byte regions, a sector at a time; a sector that does not translate for writing is not written. R84 names
the slot that does not translate; of one that can be read and not written it says nothing, and what the slot held is then taken as the
record (DESIGN CHOICE, log 48). -/
def writeSectors (s : State) (v : View) (va : Nat) (data : List Byte) : Nat → State
  | 0 => s
  | n + 1 =>
    let s := match leafAt s v (w64 va), translate s v va 0 32 false true false with
      | some (leaf, _), .ok f => match f.places with
        | p :: _ => if bit leaf 2 then s else wrPlace s p (ofBytes (data.take 32))
        | [] => s
      | _, _ => s
    writeSectors s v (va + 32) (data.drop 32) n

/-- The slot of an index. -/
def LaunchQueue.slotVa (v : LaunchQueue) (i : BitVec 32) : Nat := v.base.toNat / 4096 * 4096 + 64 * (i.toNat % 2 ^ v.log2.toNat)

/-- Fewer than `n` + 1 slots of the ring are free. -/
def LaunchQueue.fullBut (v : LaunchQueue) (n : Nat) : Bool := 2 ^ v.log2.toNat ≤ (v.tail - v.head).toNat + n

/-- The records of this engine's A.LAUNCH words for queue `q` that have issued and are not yet in it. -/
def Bank.launchesTo (b : Bank) (q : Nat) : Nat :=
  (b.inflight.filter fun x => match x.op with
    | .record r false => r.toNat == q
    | _ => false).length

/-- The slots of queue `q` that A.LAUNCH words have taken whose records are not yet in it: a word that A has passed does not wait
for room any more (R106, R120, log 48). -/
def claimed (s : State) (q : Nat) : Nat := s.cores.foldl (fun n e => n + e.2.bank0.launchesTo q + e.2.bank1.launchesTo q) 0

/-- Queue `q` has no free slot that no A.LAUNCH word has taken. -/
def queueFull (s : State) (q : Nat) : Bool := (getLq s q).fullBut (claimed s q)

/-- The record is written to slot TAIL and TAIL advances. -/
def appendRecord (s : State) (q : Nat) (r : Rec) (replica : Bool) : State :=
  let v := getLq s q
  let s := match tenantXlat s v.ten with
    | some x => writeSectors s (tenantView v.ten x) (v.slotVa v.tail) (bytesOf r.toNat 64) 2
    | none => s
  setLq s q { v with tail := v.tail + 1, replicaSlots := if replica then v.replicaSlots ++ [v.tail] else v.replicaSlots }

end Sys2Proof.Machine
end

