-- ==== Sys2Proof/Machine/Memory.lean ====
section
/-! DEFINITION. The memory words of the A engine: where their accesses lie (R188, R206-R208), how they issue locally
(R117) and toward other nodes (R304), loads, stores, GATH and SCAT (R204-R208), compressed loads (R246, R247),
pointer words (R209, R210) and SFENCE (R211). -/
namespace Sys2Proof.Machine

/-! ### Places -/

/-- Resolve access `id` and look at the state of its sectors (R188, R200, R308); a REMAP of their channel holds it back before
(R366). -/
def locate (s : State) (v : View) (id : Nat) (x : Word) (p : BitVec 3) (su : BitVec 4) (n : Nat) (rd wr lane : Bool) :
    Act Found :=
  match liftX x p su (resolve s v x p.toNat n rd wr lane) with
  | .error e => .error e
  | .ok f =>
    if remapHolds s id f.places then stall
    else
      match firstBad s rd wr f.places 0 with
      | some (i, d) => .error (.fault .dataPoison (x + w64 (i * (f.span / f.places.length))) p su (faultInfo 1 0 0 d))
      | none => .ok f

/-- Where an access lies: its places, whether R224 clamped it, what translated it, and the places, with their FAULT.ADDR, whose
sectors are checked only once a REMAP lets the access go (R366). -/
structure Located where
  places : List Place
  clamped : Bool
  uses : List Used
  late : List (Nat × Word)

/-- The address of place `i` of what was found at `x`. -/
def Found.addrAt (f : Found) (x : Word) (i : Nat) : Word := x + w64 (i * (f.span / f.places.length))

/-- Where an access of the A engine lies: it issues though a REMAP holds it back, or an earlier part of it (`late`), and then its
sectors are not looked at yet (R120, R366). -/
def locateWord (s : State) (v : View) (x : Word) (p : BitVec 3) (su : BitVec 4) (n : Nat) (rd wr lane late : Bool) :
    Act Located :=
  match liftX x p su (resolve s v x p.toNat n rd wr lane) with
  | .error e => .error e
  | .ok f =>
    if late || remapHolds s s.seq f.places then
      .ok ⟨f.places, f.clamped, f.uses, tab (fun i => (i, f.addrAt x i)) 0 f.places.length⟩
    else
      match firstBad s rd wr f.places 0 with
      | some (i, d) => .error (.fault .dataPoison (f.addrAt x i) p su (faultInfo 1 0 0 d))
      | none => .ok ⟨f.places, f.clamped, f.uses, []⟩

/-- The places of one part of an access and then those of the others. -/
def Located.append (f r : Located) : Located :=
  ⟨f.places ++ r.places, f.clamped || r.clamped, (f.uses ++ r.uses).eraseDups,
    f.late ++ r.late.map fun e => (e.1 + f.places.length, e.2)⟩

/-- Several addresses, in order: the first fault is that of the lowest sector or lane (R206, R207). -/
def locateAll (s : State) (v : View) (p : BitVec 3) (su : BitVec 4) (n : Nat) (rd wr lane late : Bool) : List Word → Act Located
  | [] => .ok ⟨[], false, [], []⟩
  | x :: l =>
    match locateWord s v x p su n rd wr lane late with
    | .error e => .error e
    | .ok f => (locateAll s v p su n rd wr lane (late || !f.late.isEmpty) l).map f.append

/-- The sixteen sectors from `x` on. -/
def sixteen (x : Word) : List Word := tab (fun i => x + w64 (32 * i)) 0 16

/-- The addresses from `x` on that the offset field of its window can still name (R188, R195). -/
def windowRoom (x : Word) : Nat :=
  match aperture x with
  | .priv => 2 ^ 32 - fld x.toNat 0 32
  | .node => 2 ^ 40 - fld x.toNat 0 40
  | _ => 512

/-- What LDV and STV resolve: the whole access where it lies in a position region (R222), on another node (R304), in the vector and
mask registers or the snapshot words (R192, R194, R358) or runs past its window (R188); otherwise each of its 16 sectors (R206) that
the offset field of its window can name. -/
def vecAddrs (s : State) (v : View) (x : Word) : List Word × Nat :=
  let off := fld x.toNat 0 34
  let whole : Bool := match aperture x with
    | .spad | .clus => decide (0x80000 < fld x.toNat 0 19 + 512)
    | .chip => fld x.toNat 35 3 == 1 || fld x.toNat 35 3 == 4 || match chipLast (fld x.toNat 35 3) with
      | some last => decide (last < off + 511)
      | none => true
    | _ => isRemote s x || inPosition s v x
  if whole then ([x], 512) else ((sixteen x).take ((windowRoom x + 31) / 32), 32)

/-- LDV and STV: an access that runs past the last offset that its window can have is denied at the window's end (R188,
R195). -/
def locateVec (s : State) (v : View) (p : BitVec 3) (su : BitVec 4) (rd wr : Bool) (x : Word) : Act Located :=
  let (addrs, n) := vecAddrs s v x
  match locateAll s v p su n rd wr false false addrs with
  | .error e => .error e
  | .ok r =>
    if n = 32 ∧ addrs.length < 16 then
      liftX x p su (spaceFault 3 (aperture x) 0 (some (x + w64 (windowRoom x))))
    else .ok r

/-- A place on the node that a NODE address names. -/
def nodePlace (x : Word) (bits : Nat) : Place :=
  ⟨.node (BitVec.ofNat 22 (fld x.toNat 40 22)) (BitVec.ofNat 40 (fld x.toNat 0 40)), bits, bits⟩

/-- The lane addresses of GATH and SCAT: the region that the base lies in must be known first (R207). -/
def laneAddrs (s : State) (v : View) (x : Word) (p : BitVec 3) (su : BitVec 4) (idx : List Nat) : Act (List Word) :=
  (liftX x p su (regionOf s v x)).map fun pos => idx.map fun i => x + w64 ((if pos then 1 else 4) * i)

/-- The place of what has no place yet. -/
def nowhere : Place := ⟨.mem 0 0, 0, 0⟩

/-- The place of a lane as its address alone tells it: on another node, or none yet. -/
def barePlace (s : State) (a : Word) : Place := if isRemote s a then nodePlace a 32 else nowhere

/-- What GATH, or SCAT (`wr`), does once every lane has been found. -/
def lanesKind (wr : Bool) : AccessOp := if wr then .scatter else .gather

/-- What GATH and SCAT issue. Their lanes are first found where they may lie on more than one node: from a base on another node a
lane can run past the offsets of that node's label, and from a base here into the label of another one (R195, R207). -/
def lanesOp (s : State) (v : View) (p : BitVec 3) (su : BitVec 4) (wr : Bool) (x : Word) (idx : List Nat) : AccessOp :=
  if isRemote s x then
    if idx.any fun i => 2 ^ 40 ≤ fld x.toNat 0 40 + 4 * i then .find wr [] else lanesKind wr
  else
    match laneAddrs s v x p su idx with
    | .error _ => lanesKind wr
    | .ok l =>
      if l.any (isRemote s) then .find wr (numbered (fun j a => (j, a.toNat)) 0 l |>.filter fun e => !isRemote s (w64 e.2))
      else lanesKind wr

/-- The lanes of GATH and SCAT: toward another node each names the base, and the target adds its index (R207, R304). Lanes that are
to be found first have the places that their addresses tell. -/
def locateLanes (s : State) (v : View) (p : BitVec 3) (su : BitVec 4) (rd wr : Bool) (x : Word) (idx : List Nat) :
    Act Located :=
  if isRemote s x then .ok ⟨idx.map fun _ => nodePlace x 32, false, [], []⟩
  else
    match laneAddrs s v x p su idx with
    | .error e => .error e
    | .ok l =>
      if l.any (isRemote s) then .ok ⟨l.map (barePlace s), false, [], []⟩
      else locateAll s v p su 4 rd wr true false l

/-! ### Issuing an access -/

/-- Where a load of field `d` goes, with the queue entry it reserves (R43, R119). -/
def loadDest (d : BitVec 6) (id : Nat) : Dest :=
  if d = 0 then .none else if d.toNat < 32 then .areg (d.setWidth 5) else .queue (d.toNat - 32) id

/-- A load takes its destination: it reserves the entry that it will fill. -/
def takeDest (b : Bank) (vec : Bool) : Dest → Act Bank
  | .queue q id => b.reserveQ q vec id
  | _ => .ok b

/-- An access of the running context's current A word. -/
def newAccess (b : Bank) (id : Nat) (t : BitVec 4) (op : AccessOp) (p : BitVec 3) (su : BitVec 4) (f : Located) (data : Vec)
    (dest : Dest) (pops : List Nat) : Access where
  id := id
  origin := ⟨b.pcOf .a, b.issue.steps.a, b.pairLen .a, t⟩
  op := op
  plane := p
  suit := su
  places := f.places
  uses := f.uses
  todo := tab (fun i => i) 0 f.places.length
  late := f.late
  got := []
  data := data
  dest := dest
  push := t.setWidth 2
  pops := pops
  unsent := []
  sent := []
  resps := []

/-- A load, store, atomic or ordered-flag packet of an access at an offset of another node (R304, R310). -/
def wordPacket (s : State) (tenant : Tenant) (x : Access) (label : Label) (off : BitVec 40) : Packet :=
  let kind : PacketKind := match x.op with
    | .load _ | .loadVec | .gather | .expand _ | .find _ _ | .record _ _ => .load
    | .atomic _ _ _ _ => .atomic
    | .sto => .sto
    | _ => .store
  let k := { blankPacket s s.core label (x.suit.setWidth 2) kind tenant off with plane := x.plane, suit := x.suit }
  match x.op with
  | .gather | .scatter => { k with lane := true }
  | .find wr _ => { k with lane := true, op := if wr then 0x4F else 0x4E }
  | .expand _ => { k with op := 0x4D }
  | .atomic op w v z => { k with op := op, wide := w, opnd := v, swap := z }
  | _ => k

/-- The lanes of a SCAT toward one node are gathered there before any is written (R208): each packet has its number among
them. -/
def numberLanes (x : Access) (l : List (Nat × Packet)) : List (Nat × Packet) :=
  match x.op with
  | .scatter =>
    numbered (fun i (e : Nat × Packet) =>
      let same := fun (f : Nat × Packet) => f.2.dst == e.2.dst
      (e.1, { e.2 with part := ((l.take i).filter same).length, parts := (l.filter same).length, swap := w64 x.id })) 0 l
  | _ => l

/-- The packets of the places that lie on other nodes, by place or part (R304); `idx` are the indices that the target adds
to the lanes. -/
def nodePackets (s : State) (tenant : Tenant) (x : Access) (idx : List Nat) : List (Nat × Packet) :=
  numberLanes x <| (List.zip (tab (fun i => i) 0 x.places.length) x.places).flatMap fun (j, pl) =>
    match pl.tgt with
    | .node label off =>
      let k := { wordPacket s tenant x label off with opnd := if idx.isEmpty then (wordPacket s tenant x label off).opnd
                                                              else w64 (nth idx j 0) }
      let data := if packetWrites k && k.kind != .atomic then bytesOf (storeData x j) (pl.bits / 8) else []
      if pl.bits = 4096 then
        let l := splitPacket { k with swap := w64 x.id } 512 data
        List.zip (tab (fun i => i) 0 l.length) l
      else [(j, { k with size := pl.bits / 8, data := data })]
    | _ => []

/-- Whether a packet can be sent now (R307, R311). -/
def canSend (s : State) (p : Packet) : Bool :=
  (getSend s p.core p.dst p.sclass).room && (!packetWrites p || (getCore s p.core).pathTotal < 1024)

/-- Send packets in their order as far as they can go: those sent, with their numbers, and those left. -/
def pump (s : State) : List (Nat × Packet) → State × List (Nat × Label × BitVec 2 × BitVec 32) × List (Nat × Packet)
  | [] => (s, [], [])
  | (j, p) :: l =>
    if canSend s p then
      let (n, s) := sendPacket s p
      let (s, a, u) := pump s l
      (s, (j, p.dst, p.sclass, n) :: a, u)
    else
      let (s, a, u) := pump s l
      (s, a, (j, p) :: u)

/-- The access sends write packets (R120): those that it issues with, or those of a SCAT whose lanes are still to be found. -/
def sendsWrites (x : Access) (pkts : List (Nat × Packet)) : Bool :=
  match x.op with
  | .find wr _ => wr
  | _ => pkts.any fun p => packetWrites p.2

/-- The access issues, unless it would send a write packet while 1,024 are unacknowledged (R120, R311). `b` is the bank with
its destination taken. -/
def putAccess (s : State) (b : Bank) (x : Access) (pkts : List (Nat × Packet)) (clamped : Bool) : Act State :=
  if sendsWrites x pkts && 1024 ≤ (getCore s s.core).pathTotal then stall
  else .ok (modCur s s.core fun _ => { b with clamp := b.clamp || clamped, inflight := b.inflight ++ [{ x with unsent := pkts }] })

/-- What a memory word asks for: the operation, its data, the field that names its destination and the kind of entry it
fills there, the queues it pops, and the indices of its lanes. -/
structure MemReq where
  op : AccessOp
  data : Vec := 0
  dest : Option (BitVec 6 × Bool) := none
  pops : List Nat := []
  idx : List Nat := []

/-- The effect of a memory word in plane `p` and suit `su`, found at `found`. -/
def memEffect (s : State) (t : BitVec 4) (p : BitVec 3) (su : BitVec 4) (found : Act Located) (r : MemReq) : Act State :=
  let (id, s) := fresh s
  let b := curBank s s.core
  let dest := match r.dest with
    | some (d, _) => loadDest d id
    | none => .none
  match takeDest b ((r.dest.map fun d => d.2).getD false) dest with
  | .error e => .error e
  | .ok b =>
    match found with
    | .error e => .error e
    | .ok f =>
      let x := newAccess b id t r.op p su f r.data dest r.pops
      putAccess s b x (nodePackets s b.tenant x r.idx) f.clamped

/-! ### Scalar loads and stores (R204, R205) -/

/-- The address of a memory word: its base and a displacement in units of `unit` bytes. -/
def memAddr (b : Bank) (base : BitVec 5) (unit : Nat) : Act Word :=
  (b.useA base.toNat).map fun v => v + displacement unit (b.kxOf .a)

/-- Load of R204. -/
def loadEffect (t : BitVec 4) (d : BitVec 6) (base : BitVec 5) (p : BitVec 3) (su : BitVec 4) (n : Nat) (signed : Bool)
    (s : State) : Act State :=
  let b := curBank s s.core
  match memAddr b base n with
  | .error e => .error e
  | .ok x => memEffect s t p su (locateAll s (ownView s) p su n true false false false [x]) { op := .load signed, dest := some (d, false) }

/-- Store of R205. -/
def storeEffect (t : BitVec 4) (r : BitVec 6) (base : BitVec 5) (p : BitVec 3) (su : BitVec 4) (n : Nat) (s : State) :
    Act State :=
  let b := curBank s s.core
  match memAddr b base n with
  | .error e => .error e
  | .ok x =>
    match b.getASq r with
    | .error e => .error e
    | .ok (v, pops) =>
      memEffect s t p su (locateAll s (ownView s) p su n false true false false [x]) { op := .store, data := vecOf v, pops := pops }

def execALdB (t : BitVec 4) (d : BitVec 6) (b : BitVec 5) (p : BitVec 3) (u : BitVec 4) (s : State) : Out :=
  issue (.aLdB t d b p u) .a t true (loadEffect t d b p u 1 false) s

def execALdH (t : BitVec 4) (d : BitVec 6) (b : BitVec 5) (p : BitVec 3) (u : BitVec 4) (s : State) : Out :=
  issue (.aLdH t d b p u) .a t true (loadEffect t d b p u 2 false) s

def execALdW (t : BitVec 4) (d : BitVec 6) (b : BitVec 5) (p : BitVec 3) (u : BitVec 4) (s : State) : Out :=
  issue (.aLdW t d b p u) .a t true (loadEffect t d b p u 4 false) s

def execALdD (t : BitVec 4) (d : BitVec 6) (b : BitVec 5) (p : BitVec 3) (u : BitVec 4) (s : State) : Out :=
  issue (.aLdD t d b p u) .a t true (loadEffect t d b p u 8 false) s

def execALdsB (t : BitVec 4) (d : BitVec 6) (b : BitVec 5) (p : BitVec 3) (u : BitVec 4) (s : State) : Out :=
  issue (.aLdsB t d b p u) .a t true (loadEffect t d b p u 1 true) s

def execALdsH (t : BitVec 4) (d : BitVec 6) (b : BitVec 5) (p : BitVec 3) (u : BitVec 4) (s : State) : Out :=
  issue (.aLdsH t d b p u) .a t true (loadEffect t d b p u 2 true) s

def execALdsW (t : BitVec 4) (d : BitVec 6) (b : BitVec 5) (p : BitVec 3) (u : BitVec 4) (s : State) : Out :=
  issue (.aLdsW t d b p u) .a t true (loadEffect t d b p u 4 true) s

def execAStB (t : BitVec 4) (d : BitVec 6) (b : BitVec 5) (p : BitVec 3) (u : BitVec 4) (s : State) : Out :=
  issue (.aStB t d b p u) .a t true (storeEffect t d b p u 1) s

def execAStH (t : BitVec 4) (d : BitVec 6) (b : BitVec 5) (p : BitVec 3) (u : BitVec 4) (s : State) : Out :=
  issue (.aStH t d b p u) .a t true (storeEffect t d b p u 2) s

def execAStW (t : BitVec 4) (d : BitVec 6) (b : BitVec 5) (p : BitVec 3) (u : BitVec 4) (s : State) : Out :=
  issue (.aStW t d b p u) .a t true (storeEffect t d b p u 4) s

def execAStD (t : BitVec 4) (d : BitVec 6) (b : BitVec 5) (p : BitVec 3) (u : BitVec 4) (s : State) : Out :=
  issue (.aStD t d b p u) .a t true (storeEffect t d b p u 8) s

/-! ### LDV and STV (R206) -/

def ldvEffect (t : BitVec 4) (d : BitVec 6) (base : BitVec 5) (p : BitVec 3) (su : BitVec 4) (s : State) : Act State :=
  match memAddr (curBank s s.core) base 512 with
  | .error e => .error e
  | .ok x => memEffect s t p su (locateVec s (ownView s) p su true false x) { op := .loadVec, dest := some (d, true) }

def execALdv (t : BitVec 4) (d : BitVec 6) (b : BitVec 5) (p : BitVec 3) (u : BitVec 4) (s : State) : Out :=
  issue (.aLdv t d b p u) .a t true (ldvEffect t d b p u) s

def stvEffect (t : BitVec 4) (r : BitVec 6) (base : BitVec 5) (p : BitVec 3) (su : BitVec 4) (s : State) : Act State :=
  let b := curBank s s.core
  match memAddr b base 512, b.peekQ (r.toNat - 32) with
  | .ok x, .ok v =>
    memEffect s t p su (locateVec s (ownView s) p su false true x) { op := .store, data := v, pops := [r.toNat - 32] }
  | .error e, _ => .error e
  | _, .error e => .error e

def execAStv (t : BitVec 4) (d : BitVec 6) (b : BitVec 5) (p : BitVec 3) (u : BitVec 4) (s : State) : Out :=
  issue (.aStv t d b p u) .a t true (stvEffect t d b p u) s

/-! ### GATH and SCAT (R207, R208) -/

/-- The indices of an index entry (R207). -/
def lanesIdx (v : Vec) : List Nat := elems v.toNat 32 128

/-- The indices that go with the packets of the lanes: those toward the node of the base (R304). -/
def sentIdx (s : State) (x : Word) (idx : List Nat) : List Nat := if isRemote s x then idx else []

def gathEffect (t : BitVec 4) (d : BitVec 6) (base : BitVec 5) (p : BitVec 3) (su : BitVec 4) (s : State) : Act State :=
  let b := curBank s s.core
  match memAddr b base 4, b.peekQ 5 with
  | .ok x, .ok v =>
    let idx := lanesIdx v
    memEffect s t p su (locateLanes s (ownView s) p su true false x idx)
      { op := lanesOp s (ownView s) p su false x idx, dest := some (d, true), pops := [5], idx := sentIdx s x idx }
  | .error e, _ => .error e
  | _, .error e => .error e

def execAGath (t : BitVec 4) (d : BitVec 6) (b : BitVec 5) (p : BitVec 3) (u : BitVec 4) (s : State) : Out :=
  issue (.aGath t d b p u) .a t true (gathEffect t d b p u) s

def scatEffect (t : BitVec 4) (base : BitVec 5) (p : BitVec 3) (su : BitVec 4) (s : State) : Act State :=
  let b := curBank s s.core
  match memAddr b base 4, b.peekQ 4, b.peekQ 5 with
  | .ok x, .ok data, .ok v =>
    let idx := lanesIdx v
    memEffect s t p su (locateLanes s (ownView s) p su false true x idx)
      { op := lanesOp s (ownView s) p su true x idx, data := data, pops := [4, 5], idx := sentIdx s x idx }
  | .error e, _, _ => .error e
  | _, .error e, _ => .error e
  | _, _, .error e => .error e

def execAScat (t : BitVec 4) (b : BitVec 5) (p : BitVec 3) (u : BitVec 4) (s : State) : Out :=
  issue (.aScat t b p u) .a t true (scatEffect t b p u) s

/-! ### Compressed blocks (R245-R247) -/

/-- EXPANSION with its subcode (R246). -/
def expansion {α : Type} (x : Word) (su : BitVec 4) (sub k nsec : Nat) : Act α :=
  .error (.fault .expansion x 0 su (faultInfo sub 0 k nsec))

/-- Words of the block whose MASK bit is set, from the payload; zeros elsewhere. -/
def spread (mask payload : Nat) : Nat → Nat → Nat → Nat
  | 0, _, _ => 0
  | f + 1, w, n =>
    if bit mask w then elem payload 32 n <<< (32 * w) + spread mask payload f (w + 1) (n + 1)
    else spread mask payload f (w + 1) n

/-- Sectors 1 to `n` in order. -/
def readSectors (sec : Nat → Act Nat) : Nat → Nat → Act Nat
  | 0, _ => .ok 0
  | n + 1, q =>
    match sec q with
    | .error e => .error e
    | .ok v => (readSectors sec n (q + 1)).map fun r => v + r <<< 256

/-- Expand of R246; `sec` reads sector q of the block at `x`. -/
def expandBlock (x : Word) (su : BitVec 4) (k : Nat) (sec : Nat → Act Nat) : Act Nat :=
  match sec 0 with
  | .error e => .error e
  | .ok h =>
    let n := fld h 136 8
    let z := ones 128 h
    let codec := fld h 128 8
    if fld h 144 112 ≠ 0 ∨ 1 < codec then expansion x su 2 k n
    else if (codec = 0 ∧ ¬(n = 17 ∧ z = 128)) ∨ (codec = 1 ∧ n ≠ 1 + (z + 7) / 8) then expansion x su 3 k n
    else if n * 2 ^ k < 16 then expansion x su 1 k n
    else (readSectors sec (n - 1) 1).map fun p => spread (low 128 h) p 128 0 0

/-- Where one sector of a compressed block lies, for access or job `id`: in no position region (R246), and a REMAP of its channel
holds it back (R366). -/
def findSector (s : State) (v : View) (id : Nat) (x : Word) (su : BitVec 4) : Act Place :=
  if inPosition s v x then .error (.fault .illegal x 0 su (faultInfo 9))
  else
    match liftX x 0 su (resolve s v x 0 32 true false false) with
    | .error e => .error e
    | .ok f => if remapHolds s id f.places then stall else .ok (f.places.headD nowhere)

/-- Read one sector of a compressed block for access `id`. -/
def readSector (s : State) (v : View) (id : Nat) (x : Word) (su : BitVec 4) : Act Nat :=
  match findSector s v id x su with
  | .error e => .error e
  | .ok p =>
    match placeFault s true false p with
    | some d => .error (.fault .dataPoison x 0 su (faultInfo 1 0 0 d))
    | none => .ok (rdPlace s p)

/-- LDVC of R247: the block is read when the access performs. -/
def ldvcEffect (t : BitVec 4) (d : BitVec 6) (base : BitVec 5) (k : BitVec 3) (su : BitVec 4) (s : State) : Act State :=
  match memAddr (curBank s s.core) base 32 with
  | .error e => .error e
  | .ok x =>
    if x.toNat % 32 ≠ 0 then .error (.fault .illegal x 0 su (faultInfo 9))
    else
      memEffect s t 0 su (.ok ⟨[if isRemote s x then nodePlace x 256 else nowhere], false, [], []⟩)
        { op := .expand k, data := vecOf x, dest := some (d, true) }

def execALdvc (t : BitVec 4) (d : BitVec 6) (b : BitVec 5) (x : BitVec 3) (u : BitVec 4) (s : State) : Out :=
  issue (.aLdvc t d b x u) .a t true (ldvcEffect t d b x u) s

/-! ### Responses of other nodes (R304, R307) -/

/-- The code with a given number. -/
def codeOf (n : BitVec 8) : FaultCode :=
  match n.toNat with
  | 0x02 => .privilege
  | 0x10 => .space
  | 0x11 => .bounds
  | 0x12 => .gap
  | 0x13 => .planeAbsent
  | 0x14 => .permission
  | 0x20 => .dataPoison
  | 0x21 => .expansion
  | 0x40 => .link
  | _ => .illegal

/-- The data of a response as a number, or its fault. -/
def responseAct : Response → Act Nat
  | .data l _ => .ok (ofBytes l)
  | .fault r => .error (.fault (codeOf r.code) r.addr r.plane r.suit r.info)
  | .many _ _ => .ok 0

/-- What the lanes got, in order of their numbers: the first fault, or all data. -/
def takeLanes : SMap Response → SMap Nat → Act (SMap Nat)
  | [], got => .ok got
  | (j, r) :: l, got =>
    match responseAct r with
    | .error e => .error e
    | .ok n => takeLanes l (sset got j n 0)

/-- The bytes of all parts, lowest address first. -/
def joinParts : SMap Response → Act (List Byte)
  | [] => .ok []
  | (_, .data l _) :: m => (joinParts m).map fun r => l ++ r
  | (_, .fault r) :: _ => .error (.fault (codeOf r.code) r.addr r.plane r.suit r.info)
  | (_, .many _ _) :: m => joinParts m

/-- An access whose whole data is the number `n`. -/
def Access.read (x : Access) (n : Nat) : Access := { x with got := sset [] 0 n 0, todo := [] }

/-- A compressed block has been expanded: its 512 bytes are what the access read. -/
def Access.expanded (x : Access) (n : Nat) : Access :=
  { x with op := .loadVec, places := [⟨.mem 0 0, 4096, 4096⟩] }.read n

/-- The sectors 1 to `n` - 1 of a compressed block on another node are asked for (R246). -/
def askSectors (s : State) (tenant : Tenant) (x : Access) (n : Nat) : Access :=
  let ask := fun i =>
    let y := scalarOf x.data + w64 (32 * i)
    (i, { wordPacket s tenant x (BitVec.ofNat 22 (fld y.toNat 40 22)) (BitVec.ofNat 40 (fld y.toNat 0 40)) with size := 32 })
  { x with unsent := tab ask 1 (n - 1) }

/-- What the answers of the other nodes leave of the access: its remote places done, their data read (R304). A compressed
block asks for its payload once its header has come. -/
def absorb (s : State) (tenant : Tenant) (x : Access) : Act Access :=
  match x.op with
  | .expand k =>
    let sec := fun i => match (x.resps.find? fun p => p.1 == i) with
      | some (_, r) => responseAct r
      | none => stall
    match expandBlock (scalarOf x.data) x.suit k.toNat sec, sec 0 with
    | .ok n, _ => .ok (x.expanded n)
    | .error .stall, .ok h => .ok (askSectors s tenant x (fld h 136 8))
    | .error e, _ => .error e
  | .gather | .scatter =>
    (takeLanes x.resps x.got).map fun g =>
      { x with got := g, todo := x.todo.filter fun j => !(x.resps.any fun p => p.1 == j) }
  | _ => (joinParts x.resps).map fun l => x.read (ofBytes l)

/-! ### Finding lanes (R207, R208) -/

/-- The addresses of the lanes whose nodes have answered: the node of the base tells the region that the base lies in. -/
def toldLanes : SMap Response → List (Nat × Word)
  | [] => []
  | (j, .data l _) :: m => (j, w64 (ofBytes l)) :: toldLanes m
  | _ :: m => toldLanes m

/-- The lanes that lie on this node, with those that have been told to. -/
def hereLanes (s : State) (x : Access) (here : SMap Nat) : SMap Nat :=
  (toldLanes x.resps).foldl (fun m (e : Nat × Word) => if isRemote s e.2 then m else sput m e.1 e.2.toNat) here

/-- The lanes with the addresses that have been told; the nodes of those that lie on another node than the one that told it are
asked. Faults stand. -/
def askLanes (s : State) (tenant : Tenant) (x : Access) : Access :=
  let told := toldLanes x.resps
  let onward := told.filter fun (e : Nat × Word) => isRemote s e.2 && (nodePlace e.2 32).node != (placeAt x e.1).node
  let y := { x with
    places := told.foldl (fun l (e : Nat × Word) => lset l e.1 (barePlace s e.2)) x.places
    resps := x.resps.filter fun e => failed e.2 }
  { y with unsent := (nodePackets s tenant y []).filter fun e => onward.any fun o => o.1 == e.1 }

/-- Where lane `j` lies: as its node has answered, or as its address on this node resolves. -/
def foundLane (s : State) (v : View) (x : Access) (wr : Bool) (here : SMap Nat) (j : Nat) : Act Located :=
  match x.resps.find? (fun e => e.1 == j), here.find? (fun e => e.1 == j) with
  | some (_, r), _ => (responseAct r).map fun _ => ⟨[placeAt x j], false, [], []⟩
  | none, some (_, a) =>
    (locate s v x.id (w64 a) x.plane x.suit 4 (!wr) wr true).map fun f => ⟨[f.places.headD nowhere], f.clamped, f.uses, []⟩
  | none, none => .ok ⟨[placeAt x j], false, [], []⟩

/-- Several lanes, in order: the first fault is that of the lowest one. -/
def foundLanes (s : State) (v : View) (x : Access) (wr : Bool) (here : SMap Nat) : List Nat → Act Located
  | [] => .ok ⟨[], false, [], []⟩
  | j :: l =>
    match foundLane s v x wr here j with
    | .error e => .error e
    | .ok f => (foundLanes s v x wr here l).map f.append

/-- What a GATH or SCAT does with the answers about its lanes: it asks on, or has found every one and reads or writes them now;
and whether R224 clamped one here. No lane is read or written before every one has been found. -/
def findLanes (s : State) (v : View) (x : Access) (wr : Bool) (here : SMap Nat) : Act (Access × Bool) :=
  let here := hereLanes s x here
  let y := { askLanes s v.tenant x with op := .find wr here }
  if !y.unsent.isEmpty then .ok (y, false)
  else
    (foundLanes s v y wr here y.todo).map fun f =>
      let z := { y with op := lanesKind wr, places := f.places, uses := f.uses }
      ({ z with unsent := nodePackets s v.tenant z [] }, f.clamped)

/-- Whether an element of the access was clamped at its target. -/
def respClamped : SMap Response → Bool
  | [] => false
  | (_, .data _ c) :: l => c || respClamped l
  | _ :: l => respClamped l

/-- Put an access in place of the one with its number. -/
def Bank.putEntry (b : Bank) (x : Access) : Bank := { b with inflight := b.inflight.map fun y => if y.id == x.id then x else y }

/-- The access leaves the bank as complete. -/
def leaveFlight (s : State) (c : Nat) (bk : Bool) (x : Access) : State :=
  modBank s c bk fun b => completeAccess { b with clamp := b.clamp || respClamped x.resps } x

/-- The record that A.LAUNCH has read, as its issuer may submit it (R106). -/
def launchRecord (s : State) (c : Nat) (bk : Bool) (q : BitVec 4) (x : Access) : Rec :=
  trimRecord (getLq s q.toNat) (getBank s c bk).tenant (getBank s c bk).priv (BitVec.ofNat 512 x.value)

/-- The access has performed: it completes. The record of A.LAUNCH goes to the word that stalls for room, or to the slot that its
word has taken (R106). -/
def finishAccess (s : State) (c : Nat) (bk : Bool) (x : Access) : State :=
  match x.op with
  | .record q true =>
    let r := launchRecord s c bk q x
    modBank s c bk fun b =>
      { b with
        inflight := b.inflight.filter fun y => y.id != x.id
        clamp := b.clamp || respClamped x.resps
        wait := if b.wait = .launch q x.id none then .launch q x.id (some r) else b.wait }
  | .record q false =>
    appendRecord (leaveFlight s c bk x) q.toNat (launchRecord s c bk q x) false
  | _ => leaveFlight s c bk x

/-- The pending fault, if any, is of a word behind A's last issued one: an earlier fault of A comes before it (R123). -/
def Bank.faultsLater (b : Bank) : Bool :=
  match b.pend with
  | none => true
  | some p => !p.abort && (p.fr.engine == Engine.a.tag || p.fr.engine == 3)

/-- The access turns out to fault while its word is the last that A issued: the word has no effect, and faults in the place of a
later word of A; a fault that X or M has raised stands (R123). -/
def failAccess (s : State) (c : Nat) (bk : Bool) (x : Access) (code : FaultCode) (addr : Word) (plane : BitVec 3)
    (suit : BitVec 4) (info : Word) : State :=
  let b := getBank s c bk
  let s := modBank s c bk fun b => b.unissue x
  if b.st == .running && b.faultsLater && bk == (getCore s c).active then
    raiseFault s c ⟨code.num, Engine.a.tag, x.origin.pc, addr, plane, suit, info⟩ none
  else s

/-- The access goes on: it completes, faults, or has places left. A fault of an access whose word A has left behind does not
come: the device issues no word after one that faults (log 6). -/
def settle (s : State) (c : Nat) (bk : Bool) (x : Access) : Act Access → State
  | .ok y => if y.todo.isEmpty then finishAccess s c bk y else modBank s c bk fun b => b.putEntry y
  | .error (.fault code addr plane suit info) =>
    if (getBank s c bk).lastIssued x then failAccess s c bk x code addr plane suit info else s
  | .error (.walk page) => joinWalk s c bk page (some (.access x.id))
  | .error _ => s

/-! ### Pointers (R209, R210) -/

/-- ASPC of R209 on core `c`. -/
def aspcValue (c : Nat) (x : Word) : Word :=
  let ap := aperture x
  if ap = .spad ∧ fld x.toNat 38 10 = c then 0x12 else w64 ap.code

def execAAspc (t : BitVec 4) (d a : BitVec 6) (s : State) : Out :=
  issue (.aAspc t d a) .a t false
    (onBank fun b =>
      match b.useA a.toNat with
      | .error e => .error e
      | .ok x => b.putA d (aspcValue s.core x)) s

/-- ACVT of R210: 0 for a conversion that is not listed. Toward CHIP the grant of R193 is checked as for a read (DESIGN CHOICE,
log 43). -/
def acvtValue (s : State) (v : View) (x : Word) (target : Nat) : Word :=
  let n := x.toNat
  let off := fld n 0 19
  let spadCore := fld n 38 10
  let clusCore := 64 * clusterOf v.core + fld n 40 6
  let chip := fun c => if chipAllowed s v c 0 off false then w64 (0x83 * 2 ^ 56 + c * 2 ^ 38 + off) else 0
  let base := s.fabric.winBase.toNat
  let size := s.fabric.winSize.toNat
  match aperture x, target with
  | .malformed, _ => 0
  | .spad, 3 => if clusterOf spadCore = clusterOf v.core then w64 (0x82 * 2 ^ 56 + spadCore % 64 * 2 ^ 40 + off) else 0
  | .clus, 2 => if fld n 40 6 = v.core % 64 then w64 (0x81 * 2 ^ 56 + v.core * 2 ^ 38 + off) else 0
  | .spad, 4 => chip spadCore
  | .clus, 4 => chip clusCore
  | .global, 5 =>
    if base ≤ fld n 0 48 ∧ fld n 0 48 < base + size then
      w64 (3 * 2 ^ 62 + s.fabric.label.toNat * 2 ^ 40 + (fld n 0 48 - base))
    else 0
  | .node, 0 =>
    if fld n 40 22 = s.fabric.label.toNat ∧ fld n 0 40 < size then w64 (base + fld n 0 40) else 0
  | ap, k => if ap.code = k then x else 0

def execAAcvt (t : BitVec 4) (d a i : BitVec 6) (s : State) : Out :=
  issue (.aAcvt t d a i) .a t false
    (onBank fun b =>
      match b.useA a.toNat with
      | .error e => .error e
      | .ok x => b.putA d (acvtValue s (viewOf s s.core (getCore s s.core).active) x i.toNat)) s

/-! ### SFENCE (R211) -/

def execASfence (t : BitVec 4) (c : BitVec 2) (m : BitVec 16) (s : State) : Out :=
  issue (.aSfence t c m) .a t true
    (fun s =>
      if m = 0 then .ok (modCur s s.core fun b => b.pushToks .a (t &&& 3))
      else memEffect s t 0 0 (.ok ⟨[], false, [], []⟩) { op := .fence m }) s

/-! ### Performing (R117, R203) -/

/-- Bank number of an event. -/
def bankNo (b : Nat) : Bool := b == 1

/-- The access goes on with the lanes that it has found. -/
def settleLanes (s : State) (c : Nat) (bk : Bool) (x : Access) : Act (Access × Bool) → State
  | .ok (y, clamped) => modBank s c bk fun b => { b.putEntry y with clamp := b.clamp || clamped }
  | .error e => settle s c bk x (.error e)

/-- The access with its place `j` performed. -/
def performEntry (s : State) (c : Nat) (b : Bool) (j : Nat) (x : Access) : State :=
  let (s, y) := performPlace s c (getBank s c b).tenant x j
  settle s c b x (.ok y)

/-- The packets of an access go out as far as they can. -/
def sendEntry (s : State) (c : Nat) (b : Bool) (x : Access) : State × Access :=
  let (s, sent, unsent) := pump s x.unsent
  let y := { x with sent := x.sent ++ sent, unsent := unsent }
  (modBank s c b fun v => v.putEntry y, y)

/-- What the access reads and writes. -/
def Access.reads (x : Access) : Bool :=
  match x.op with
  | .load _ | .loadVec | .gather | .atomic _ _ _ _ | .record _ _ => true
  | _ => false

/-- A place that a REMAP held back is no longer backed, or its sector is in a state that does not allow the access (R198, R366). -/
def lateFault (s : State) (x : Access) (e : Nat × Word) : Option Stop :=
  let p := placeAt x e.1
  let gone : Bool := match p.tgt with
    | .mem loc _ => p.keep != 0 && decide (loc < spadBase) && !backed s loc
    | _ => false
  if gone then some (.fault .gap e.2 x.plane x.suit (faultInfo 0 0 0 1))
  else (placeFault s x.reads (x.writes || x.isAtomic) p).map fun d => .fault .dataPoison e.2 x.plane x.suit (faultInfo 1 0 0 d)

/-- The access has been let go by the REMAP that held it back: its sectors are checked now. -/
def letGo (s : State) (x : Access) : Act Access :=
  match x.late.findSome? (lateFault s x) with
  | some e => .error e
  | none => .ok { x with late := [] }

/-- An access that may perform does so: it sends its packets, and performs its place `j` if that lies on this node. -/
def performAccess (s : State) (c : Nat) (b : Bool) (j : Nat) (x : Access) : State :=
  let (s, x) := sendEntry s c b x
  match x.op with
  | .expand k =>
    if x.remote then s
    else
      let a := scalarOf x.data
      let (s, r) := lookUp s (viewOf s c b) (.access x.id) fun s =>
        (expandBlock a x.suit k.toNat fun i => readSector s (viewOf s c b) x.id (a + w64 (32 * i)) x.suit).map x.expanded
      settle s c b x r
  | .find wr here =>
    if x.unsent.isEmpty && x.sent.isEmpty then
      let (s, r) := lookUp s (viewOf s c b) (.access x.id) fun s => findLanes s (viewOf s c b) x wr here
      settleLanes s c b x r
    else s
  | _ =>
    match letGo s x with
    | .error e => settle s c b x (.error e)
    | .ok x => if x.todo.isEmpty || (x.todo.contains j && (placeAt x j).node.isNone) then performEntry s c b j x else s

/-- Entry `k` of the accesses in flight performs, if the orders of R203 and R211, and a REMAP of its channel (R366), let
it. -/
def execAccessComplete (core bank k j : Nat) (s : State) : Out :=
  let b := bankNo bank
  let v := getBank s core b
  forCore core <|
    match v.inflight[k]? with
    | none => s
    | some x =>
      if !v.mayPerform k x || remapHolds s x.id x.places || (x.writes && x.places.any (accBusy s)) then s
      else performAccess s core b j x

end Sys2Proof.Machine
end

