-- ==== Sys2Proof/Machine/Poison.lean ====
section
/-! DEFINITION. POISON of frame-table entries (R221, R308): the frame tables that the contexts of the node and its tenant records
lead to, and the marking of the entries whose frames hold a poisoned sector. -/
namespace Sys2Proof.Machine

/-- The frame table of a plane: where it starts, how many entries it has, and the size of its frames (R214, R220). -/
structure PlaneTable where
  pa : Nat
  count : Nat
  size : Nat

/-- The entry at `pa` is one of the table. -/
def PlaneTable.holds (t : PlaneTable) (pa : Nat) : Bool := decide (t.pa ≤ pa) && decide (pa < t.pa + 8 * t.count)

/-- The frame tables of a PSD. -/
def psdTables (d : Nat) : List PlaneTable :=
  if psdBad d then []
  else tab (fun n =>
    let g := if bit (psdAttr d n) 3 then 64 else 1
    ⟨psdFtb d n * 256, ((psdPosCount d + g - 1) / g + 4095) / 4096, 512 * planeWidth (psdAttr d n)⟩) 0 (psdPlanes d)

/-- The PSD tables in use, with their lengths: those of the contexts in the banks and of the tenant records (R215). -/
def psdRoots (s : State) : List (Nat × Nat) :=
  let of := fun (x : Xlat) => (x.psdt.toNat / 64 * 64, x.psdn.toNat)
  let bank := fun (b : Bank) => if b.st == .empty then [] else [of b.xlat]
  ((s.cores.flatMap fun p => bank p.2.bank0 ++ bank p.2.bank1) ++
    (tab (fun i => tenantXlat s (BitVec.ofNat 16 i)) 0 s.shoe.tentabCount.toNat).filterMap fun x => x.map of).eraseDups

/-- The well-formed PSDs of a table: the last byte of each, PSDVER, is not 0, so storage lists it. -/
def psdsAt (s : State) (root : Nat × Nat) : List Nat :=
  s.mem.filterMap fun p =>
    if root.1 + 7 ≤ p.1 ∧ (p.1 - root.1) % 64 = 7 ∧ (p.1 - root.1) / 64 < root.2 then some (rdNum s (p.1 - 7) 64) else none

def planeTables (s : State) : List PlaneTable := (psdRoots s).flatMap fun r => (psdsAt s r).flatMap psdTables

/-- The valid entries of known frame tables whose frames hold one of the locations: a valid entry has V = 1, so storage lists it. -/
def framesOf (s : State) (locs : List Nat) : List Nat :=
  let ts := planeTables s
  s.mem.filterMap fun p =>
    if p.1 % 8 = 0 ∧ p.2.getLsbD 0 ∧ (ts.any fun t => t.holds p.1 && locs.any fun loc =>
        let frame := fld (rdNum s p.1 8) 6 34 * 64
        decide (frame ≤ loc) && decide (loc < frame + t.size)) then some p.1 else none

/-- Set POISON in the frame-table entry at `pa`. -/
def markEntry (s : State) (pa : Nat) : State := wrByte s pa (rdByte s pa ||| 8)

/-- The sectors of these locations become poisoned, and with them the entries of the frames that hold them (R221, R308). -/
def poisonSectors (s : State) (locs : List Nat) : State :=
  let locs := (locs.map fun l => l / 32 * 32).eraseDups
  let marked := locs.foldl (fun s l => setPoison s l true) s
  if locs.isEmpty then s else (framesOf s locs).foldl markEntry marked

end Sys2Proof.Machine
end

