-- ==== Sys2Proof/Machine/Sides.lean ====
section
/-! DEFINITION. What the jobs of a core share: the reading of a card (R237, R243), the elements of a side and their places
(R233, R238, R305), footprints (R242), owner tags (R241, R363), recorded errors (R241), the reading and writing of
elements (R241, R308), and packets toward other nodes (R304, R307). -/
namespace Sys2Proof.Machine

/-! ### Cards -/

abbrev Card := BitVec 512

def cardF (c : Card) (lo n : Nat) : Nat := fld c.toNat lo n

/-- A signed stride. -/
def stride (n : Nat) : Word := sext64 32 n

/-- The core that an address names, for FAULT.INFO (R188). -/
def namedCore (c : Nat) (x : Word) : Nat :=
  match aperture x with
  | .spad | .chip => fld x.toNat 38 10
  | .clus => 64 * clusterOf c + fld x.toNat 40 6
  | _ => 0

/-- Whether a location is a byte of core `c`'s scratchpad. -/
def inOwnSpad (c loc : Nat) : Bool := spadBase ≤ loc && (loc - spadBase) / 2 ^ 19 == c

/-- An earlier access in flight touches the `n` bytes from `loc` on. -/
def Bank.touches (b : Bank) (loc n : Nat) : Bool :=
  b.inflight.any fun x => x.places.any fun p =>
    match p.tgt with
    | .mem l _ => l < loc + n && loc < l + (p.bits + 7) / 8
    | _ => false

/-- Read the card at `y`, which lies in the core's own scratchpad (R237, R243). -/
def readCard (s : State) (y : Word) : Act Card :=
  let v := viewOf s s.core (getCore s s.core).active
  if y.toNat % 64 ≠ 0 then .error (.fault .illegal y 0 0 (faultInfo 9))
  else
    match liftX y 0 0 (resolve s v y 0 64 true false false) with
    | .error e => .error e
    | .ok f =>
      let loc := match f.places with
        | ⟨.mem l _, _, _⟩ :: _ => l
        | _ => 0
      if !inOwnSpad s.core loc then
        .error (.fault .space y 0 0 (w64 (3 + (aperture y).code * 2 ^ 32 + namedCore s.core y * 2 ^ 36)))
      else if (curBank s s.core).touches loc 64 then stall
      else (locate s v s.seq y 0 0 64 true false false).map fun f => BitVec.ofNat 512 (pack 256 (f.places.map (rdPlace s)))

/-- ILLEGAL/VALUE with the number of the failed check, at the card (R237). -/
def cardFault {α : Type} (y : Word) (n : Nat) : Act α := .error (.fault .illegal y 0 0 (faultInfo 9 0 0 n))

/-- The first check of a list that fails. -/
def cardChecks (y : Word) : List (Nat × Bool) → Act Unit
  | [] => .ok ()
  | (n, bad) :: l => if bad then cardFault y n else cardChecks y l

/-! ### Elements of a container with whole bytes (R260) -/

/-- Element (r, c) of a container of a format with whole bytes (R260). -/
def containerElem (e : TileEntry) (r c : Nat) : Nat :=
  let n := fmtWidth e.fmt.toNat / 8
  tileNum e (n * (128 * r + c)) n

/-- Put element bits into a container. -/
def containerPut (m : SMap Byte) (fmt r c v : Nat) : SMap Byte :=
  let n := fmtWidth fmt / 8
  putBytes m (n * (128 * r + c)) n v

/-! ### Elements of a side (R233) -/

/-- A side of a job: base address, row stride, plane and element width, whether it is written. -/
structure Side where
  base : Word
  step : Word
  plane : Nat
  width : Nat
  wr : Bool
  rd : Bool

/-- What a side in a position region starts from: the position of its base, the PSD id and the PSD. -/
structure SidePos where
  pos : Nat
  psdid : Nat
  psd : Nat

/-- Where an address of this node's GLOBAL space lies in a position region, once the walk of its page has ended; none elsewhere and
where the walk faults. -/
def posAt (s : State) (v : View) (x : Word) : X (Option SidePos) :=
  match globalVa s v x with
  | none => .ok none
  | some va =>
    match walk s v va with
    | .ok r => .ok (if bit r.leaf 2 then some ⟨4096 * fld r.leaf 12 36 + (va - r.base va), fld r.leaf 48 16, r.psd⟩ else none)
    | .error (.fault _ _ _) => .ok none
    | .error e => .error e

/-- The position region that a side lies in; a NODE side is not translated (R233, R305). -/
def sidePos (s : State) (v : View) (b : Word) : X (Option SidePos) := if aperture b = .node then .ok none else posAt s v b

/-- GRAN of a plane: the positions that one element stands for. -/
def granOf (psd p : Nat) : Nat := if bit (psdAttr psd p) 3 then 64 else 1

/-- The positions from one element of a side to the next; none outside position regions. -/
def SidePos.gran (p : Option SidePos) (d : Side) : Option Nat := p.map fun p => granOf p.psd d.plane

/-- The address of element (i, j), and the bit of that byte where it starts (R233). -/
def elemAddr (gran : Option Nat) (d : Side) (i j : Nat) : Word × Nat :=
  match gran with
  | some g => (d.base + w64 i * d.step + w64 (j * g), 0)
  | none => (d.base + w64 i * d.step + w64 (j * d.width / 8), j * d.width % 8)

/-- An element found: its address, its place, whether it is clamped, and what translated it. -/
structure ElemAt where
  addr : Word
  place : Place
  clamped : Bool
  uses : List Used

/-- An element of fewer than 8 bits is the part from bit `b` on of the byte at its address (R233). -/
def Place.nibble (p : Place) (b bits : Nat) : Place :=
  if bits < 8 then
    match p.tgt with
    | .mem loc o => ⟨.mem loc (o + b), bits, min bits (p.keep - b)⟩
    | .chip c k o _ => ⟨.chip c k o b, bits, bits⟩
    | .node _ _ => p
  else p

/-- The byte of this node's GLOBAL space that the access from `x` on, of `n` addresses, starts at; none where some of them leave the
window that `x` lies in. -/
def spanVa (s : State) (v : View) (x : Word) (n : Nat) : Option Nat :=
  match globalVa s v x, globalVa s v (x + w64 (n - 1)) with
  | some va, some _ => some va
  | _, _ => none

/-- An element of a position side as part of one access from its first position (R219, R224, R238): its position comes from the
leaf of the base, its own page is walked for the right to it (R223), but not where it is clamped. None where the address leaves
the aperture or window of the base. -/
def planeElem (s : State) (v : View) (d : Side) (x : Word) (p : SidePos) : X (Option ElemAt) :=
  let at_ : Int := (p.pos : Int) + (x - d.base).toInt
  let g := granOf p.psd d.plane
  let u := at_.toNat / g
  match if at_ < 0 ∨ aperture x ≠ aperture d.base then none else spanVa s v x (g - at_.toNat % g) with
  | none => .ok none
  | some va =>
    if (psdPosCount p.psd + g - 1) / g ≤ u then .ok (some ⟨x, ⟨.mem 0 0, d.width, 0⟩, true, []⟩)
    else do
      let r ← walk s v va
      permitted v r.leaf (some (fld (psdAttr p.psd d.plane) (6 + 2 * (v.xlat.view.toNat % 4)) 2)) d.rd d.wr
      let (frame, pa) ← frameOf s v p.psdid p.psd d.plane d.width (u / 4096)
      let b := u % 4096 * d.width
      .ok (some ⟨x, ⟨.mem (frame + b / 8) (b % 8), d.width, d.width⟩, false,
        [r.used va, .frame (BitVec.ofNat 16 p.psdid) pa]⟩)

/-- An element resolved by itself (R188, R223); of a NODE side only the offset is checked, on the node's own label too (R305). -/
def plainElem (s : State) (v : View) (d : Side) (pos : Option SidePos) (x : Word) (b : Nat) : X ElemAt :=
  if aperture x = .node then
    if s.fabric.winSize.toNat ≤ fld x.toNat 0 40 then spaceFault 3 .node 0
    else .ok ⟨x, ⟨.node (BitVec.ofNat 22 (fld x.toNat 40 22)) (BitVec.ofNat 40 (fld x.toNat 0 40)), d.width, d.width⟩, false, []⟩
  else
    (resolve s v x d.plane (max (d.width / 8) 1) d.rd d.wr pos.isSome).map fun f =>
      match f.places with
      | p :: _ => ⟨x, if pos.isNone then p.nibble b d.width else p, false, f.uses⟩
      | [] => ⟨x, ⟨.mem 0 0, 0, 0⟩, false, []⟩

/-- The elements of a side in the order given; a failing one takes its fault at its own address (R238). -/
def sideElems (s : State) (v : View) (su : BitVec 4) (d : Side) (pos : Option SidePos) :
    Bool → List (Nat × Nat) → Act (List ElemAt)
  | _, [] => .ok []
  | first, (i, j) :: l =>
    let (x, b) := elemAddr (SidePos.gran pos d) d i j
    let later := match first, pos with
      | false, some p => planeElem s v d x p
      | _, _ => .ok none
    let got := match later with
      | .error e => .error e
      | .ok (some e) => .ok e
      | .ok none => plainElem s v d pos x b
    match liftX x (BitVec.ofNat 3 d.plane) su got with
    | .error e => .error e
    | .ok e => (sideElems s v su d pos false l).map fun r => e :: r

/-- A side found: its elements, and the positions from one to the next where it lies in a position region. -/
structure SideAt where
  elems : List ElemAt
  gran : Option Nat

/-- Resolve a side: check 9 of R237, then every element. -/
def resolveSide (s : State) (v : View) (card : Word) (su : BitVec 4) (d : Side) (cells : List (Nat × Nat)) : Act SideAt :=
  if cells.isEmpty then .ok ⟨[], none⟩
  else
    match liftX d.base (BitVec.ofNat 3 d.plane) su (sidePos s v d.base) with
    | .error e => .error e
    | .ok pos =>
      let wrong : Bool := match pos with
        | some p => d.plane < psdPlanes p.psd && planeWidth (psdAttr p.psd d.plane) != d.width
        | none => false
      if wrong then cardFault card 9
      else (sideElems s v su d pos true cells).map fun l => ⟨l, SidePos.gran pos d⟩

/-- The cells of a `rows` by `cols` array in row-major order. -/
def cells (rows cols : Nat) : List (Nat × Nat) := (tab (fun i => i) 0 rows).flatMap fun i => tab (fun j => (i, j)) 0 cols

/-! ### Locations and owner tags (R242, R363, R372) -/

/-- The key of a place among all locations, and its size: storage by location, then windows, queues and nodes (R189, R242). -/
def placeKey (p : Place) : Nat × Nat :=
  match p.tgt with
  | .mem loc b => (loc, if p.keep = 0 then 0 else (b + p.bits + 7) / 8)
  | .chip c k o b => (2 ^ 42 + c * 2 ^ 38 + k * 2 ^ 35 + o, (b + p.bits + 7) / 8)
  | .node l o => (2 ^ 63 + l.toNat * 2 ^ 40 + o.toNat, (p.bits + 7) / 8)

/-- The location of a tile queue of a table. -/
def queueKey (t q : Nat) : Nat × Nat := (2 ^ 53 + t * 128 + q, 1)

/-- Ranges with those that continue one another joined. -/
def joinRanges : List (Nat × Nat) → List (Nat × Nat)
  | [] => []
  | (a, n) :: l =>
    if n = 0 then joinRanges l
    else
      match joinRanges l with
      | (b, m) :: r => if b = a + n then (a, n + m) :: r else if a = b then (a, max n m) :: r else (a, n) :: (b, m) :: r
      | [] => [(a, n)]

def meets (a b : List (Nat × Nat)) : Bool := a.any fun x => b.any fun y => x.1 < y.1 + y.2 && y.1 < x.1 + x.2

/-- Whether job `j`, accepted after `i`, waits for it (R242). -/
def edge (i j : Job) : Bool := meets i.writes j.reads || meets i.reads j.writes || meets i.writes j.writes

/-- The owner-tagged storage of a place, by number: scratchpad banks, register files, accumulators (R372). -/
def ownerKey (p : Place) : Option Nat :=
  match p.tgt with
  | .mem loc _ => if spadBase ≤ loc ∧ p.keep ≠ 0 then some ((loc - spadBase) / 2 ^ 15) else none
  | .chip c k o _ =>
    if k = 1 ∨ k = 2 then some (2 ^ 16 + 2 * c + b2n (bit o 34)) else if k = 3 then some (2 ^ 17 + c) else none
  | .node _ _ => none

/-- The tag that such storage carries now. -/
def ownerNow (s : State) (key : Nat) : Option Tenant :=
  if key < 2 ^ 16 then sget (getCore s (key / 16)).spadOwner (key % 16) none
  else if key < 2 ^ 17 then (getBank s ((key - 2 ^ 16) / 2) (key % 2 == 1)).owner
  else (getCore s (key - 2 ^ 17)).accOwner

/-- The tags of the storage that a job names. -/
def ownersOf (s : State) (ps : List Place) : SMap (Option Tenant) :=
  ps.foldl (fun m p => match ownerKey p with
    | some k => sset m k (ownerNow s k) none
    | none => m) []

/-- Whether the storage of a place still carries the tag it had at acceptance. -/
def Job.tagHolds (s : State) (j : Job) (p : Place) : Bool :=
  match ownerKey p with
  | some k => ownerNow s k == sget j.owners k none
  | none => true

/-! ### Recorded errors (R241, R244, R315, R363) -/

/-- The error record of an element: SUB and DETAIL in INFO. -/
def jobError (code : FaultCode) (sub : Nat) (addr : Word) (plane : Nat) (su : BitVec 4) (detail : Nat := 0) : FaultRec :=
  ⟨code.num, 0, 0, addr, BitVec.ofNat 3 plane, su, faultInfo sub 0 0 detail⟩

/-- Record an error of a job on its channel, or as the collective's, unless one is recorded already. -/
def recordError (s : State) (c : Nat) (j : Job) (r : FaultRec) : State :=
  modCore s c fun k =>
    match j.kind with
    | .coll => if k.collErr.isSome then k else { k with collErr := some r, errBy := sset k.errBy 8 (j.id + 1) 0 }
    | _ =>
      let ch := j.chan.toNat
      if (sget k.errs ch none).isSome then k
      else { k with errs := sset k.errs ch (some r) none, errBy := sset k.errBy ch (j.id + 1) 0 }

/-- The error of an access that a fault stops. -/
def stopError (su : BitVec 4) : Stop → FaultRec
  | .fault code addr plane _ info => ⟨code.num, 0, 0, addr, plane, su, info⟩
  | _ => jobError .gap 0 0 0 su

/-- The error recorded for a job: that of its channel, or the collectives' with its TCODE 8 (R240, R315). -/
def Core.errOf (k : Core) (j : Job) : Option FaultRec × Nat :=
  match j.kind with
  | .coll => (k.collErr, 8)
  | _ => (sget k.errs j.chan.toNat none, j.chan.toNat)

/-- The bank that holds a context. -/
def Core.bankOf (k : Core) (ctx : Nat) : Option Bool :=
  [false, true].find? fun b => (k.bank b).st != .empty && (k.bank b).ctx == ctx

/-- When a job ends while its context does not run, the owner mismatch that it recorded becomes an asynchronous fault of that context,
which an evicted one keeps until it is restored. It stays in ERR until it is raised (R363). -/
def parkError (s : State) (c : Nat) (j : Job) : State :=
  let k := getCore s c
  match k.errOf j with
  | (some r, t) =>
    if r.code != FaultCode.ownerMismatch.num || sget k.errBy t 0 != j.id + 1 then s
    else
      let info := raisedInfo r t
      match k.bankOf j.ctx with
      | some b => if k.active == b && (k.bank b).st == .running then s else addDue s c b .ownerMismatch .a r.addr info
      | none =>
        modCore s c fun k => { k with evicted := k.evicted.map fun e =>
          if e.ctx == j.ctx then { e with due := e.due ++ [⟨r.code, Engine.tag .a, 0, r.addr, 0, 0, info⟩] } else e }
  | (none, _) => s

/-! ### Elements read and written (R241, R308) -/

/-- What became of an element that a job reads; `poison` with DETAIL (R200, R308). -/
inductive Got where
  | val (v : Nat)
  | poison (detail : Nat)
  | gone

/-- Read a local element. -/
def readElem (s : State) (j : Job) (p : Place) : Got :=
  if !j.tagHolds s p then .gone
  else
    match placeFault s true false p with
    | some d => .poison d
    | none => .val (rdPlace s p)

/-- A value to write to a local element, or a poisoned one. -/
structure Put where
  place : Place
  addr : Word
  val : Nat
  poison : Bool

/-- The bits of each sector that the elements fill, by location / 32. -/
def fillBits : List Put → SMap Nat
  | [] => []
  | x :: l =>
    let m := fillBits l
    match x.place.tgt with
    | .mem loc b =>
      if x.place.keep = 0 then m
      else sput m (loc / 32) (sget m (loc / 32) 0 ||| (2 ^ x.place.keep - 1) <<< (loc % 32 * 8 + b))
    | _ => m

/-- Sectors filled whole lose their poison (R308). -/
def cureFilled (s : State) : SMap Nat → State
  | [] => s
  | (k, n) :: l => cureFilled (if n = 2 ^ 256 - 1 then setPoison s (32 * k) false else s) l

/-- The storage that a place covers a bit of, if any. -/
def Place.loc (p : Place) : Option Nat :=
  match p.tgt with
  | .mem loc _ => if p.keep = 0 then none else some loc
  | _ => none

/-- The sectors of the poisoned elements become poisoned (R241). -/
def poisonPuts (s : State) (l : List Put) : State :=
  poisonSectors s (l.filterMap fun x => if x.poison then x.place.loc else none)

/-- Write the elements one by one. -/
def writeElems (s : State) (c : Nat) (j : Job) (plane : Nat) (su : BitVec 4) : List Put → State
  | [] => s
  | x :: l =>
    let s :=
      if x.place.keep = 0 then s
      else if !j.tagHolds s x.place then recordError s c j (jobError .ownerMismatch 0 x.addr plane su)
      else
        match placeFault s false true x.place with
        | some d => recordError s c j (jobError .dataPoison 1 x.addr plane su d)
        | none =>
          if x.poison then
            let (v, s) := freeValue s x.place.bits
            wrPlace s x.place v
          else wrPlace s x.place x.val
    writeElems s c j plane su l

/-- Write all local elements of a job. -/
def writeAll (s : State) (c : Nat) (j : Job) (plane : Nat) (su : BitVec 4) (l : List Put) : State :=
  let whole := l.filter fun x => j.tagHolds s x.place
  poisonPuts (writeElems (cureFilled s (fillBits whole)) c j plane su l) whole

/-! ### Elements on other nodes (R304, R307) -/

/-- Elements with their numbers, those in a row that lie in one 256-byte block of one node put together. -/
def groupBlocks : List (Nat × Label × ElemReq) → List (List (Nat × Label × ElemReq))
  | [] => []
  | x :: l =>
    match groupBlocks l with
    | (y :: g) :: r =>
      if y.1 = x.1 + 1 ∧ y.2.1 = x.2.1 ∧ y.2.2.off.toNat / 256 = x.2.2.off.toNat / 256 then (x :: y :: g) :: r else [x] :: (y :: g) :: r
    | r => [x] :: r

/-- The packets of a job: one for each block. The number of the first element is the key. -/
def jobPackets (s : State) (c : Nat) (j : Job) (kind : PacketKind) (plane : Nat) (su : BitVec 4) (w : Nat)
    (l : List (Nat × Label × ElemReq)) : List (Nat × Packet) :=
  (groupBlocks l).filterMap fun g =>
    match g with
    | (i, dst, e) :: _ =>
      some (i, { blankPacket s c dst 0 kind j.tenant e.off with
                 plane := BitVec.ofNat 3 plane, suit := su, ebits := w, elems := g.map fun x => x.2.2 })
    | [] => none

/-- Send what can be sent of a job's packets, each on the class with the smallest count (R303). -/
def pumpJob (s : State) : List (Nat × Packet) → State × List (Nat × Label × BitVec 2 × BitVec 32) × List (Nat × Packet)
  | [] => (s, [], [])
  | (i, p) :: l =>
    let p := { p with sclass := (getCore s p.core).leastPath }
    if canSend s p then
      let (n, s) := sendPacket s p
      let (s, a, u) := pumpJob s l
      (s, (i, p.dst, p.sclass, n) :: a, u)
    else
      let (s, a, u) := pumpJob s l
      (s, a, (i, p) :: u)

def getJob (s : State) (c i : Nat) : Option Job := (getCore s c).jobs[i]?

/-- Put a job in place of the one with its id. -/
def putJob (s : State) (c : Nat) (j : Job) : State :=
  modCore s c fun k => { k with jobs := k.jobs.map fun x => if x.id == j.id then j else x }

def dropJob (s : State) (c : Nat) (j : Job) : State :=
  modCore s c fun k => { k with jobs := k.jobs.filter fun x => x.id != j.id }

/-- Send the packets of a job, and those it could not send before. -/
def sendJob (s : State) (j : Job) (pkts : List (Nat × Packet)) : State × Job :=
  let (s, sent, unsent) := pumpJob s (j.unsent ++ pkts)
  (s, { j with sent := j.sent ++ sent, unsent := unsent })

/-- Every packet of the job has been sent and answered. -/
def Job.quiet (j : Job) : Bool := j.sent.isEmpty && j.unsent.isEmpty

/-- A job with nothing done; `more` lists places that it may read beyond those of its elements. -/
def newJob (s : State) (id : Nat) (kind : JobKind) (chan : BitVec 3) (card : Card) (src dst : List ElemAt)
    (grans : List (Option Nat)) (more : List Place) (reads writes : List (Nat × Nat)) : Job where
  id := id
  kind := kind
  chan := chan
  card := card
  tenant := (curBank s s.core).tenant
  ctx := (curBank s s.core).ctx
  view := viewOf s s.core (getCore s s.core).active
  phase := .accepted
  src := src.map fun e => e.place
  dst := dst.map fun e => e.place
  uses := ((src ++ dst).flatMap fun e => e.uses).eraseDups
  grans := grans
  reads := joinRanges reads
  writes := joinRanges writes
  nodes := ((src ++ dst).filterMap fun e =>
    if aperture e.addr = .node then some (BitVec.ofNat 22 (fld e.addr.toNat 40 22)) else none).eraseDups
  owners := ownersOf s ((src ++ dst).map (fun e => e.place) ++ more)
  got := []
  lost := []
  pois := []
  entry := none
  stepNo := 0
  partner := none
  mine := false
  stop := false
  sent := []
  unsent := []
  walked := []

/-- The scheduler of the core has a free slot (R231). -/
def slotFree (s : State) : Bool := (getCore s s.core).jobs.length < 64

/-- The job is accepted. -/
def acceptJob (s : State) (j : Job) : State := modCore s s.core fun k => { k with jobs := k.jobs ++ [j] }

/-- What must be over before a job begins: earlier jobs that its footprint meets (R242), earlier accesses of its engine
in its suit (R239), and a REMAP of a channel it touches (R366). -/
def mayBegin (s : State) (c : Nat) (j : Job) (su : BitVec 4) : Bool :=
  let k := getCore s c
  let b := k.bank j.view.bank
  !(k.jobs.any fun i => decide (i.id < j.id) && edge i j) &&
    !(b.tenant == j.tenant && b.inflight.any fun x => decide (x.id < j.id) && x.suit == su && !x.places.isEmpty) &&
    !remapHolds s j.id (j.src ++ j.dst) && !remapWaits s j.id fun ch => rangesTouch ch (j.reads ++ j.writes)

end Sys2Proof.Machine
end

