-- ==== Sys2Proof/Machine/Array.lean ====
section
/-! DEFINITION. The array of a table: the hand and its arbiter (R253-R256), which commands may begin (R264-R266), their
execution group by group (R262, R265, R274-R277, R324, R325), their completion, the feed unit (R279), and the vertical
exclusion zone (R267). -/
namespace Sys2Proof.Machine

/-! ### The hand (R253-R256) -/

/-- The accumulators of a table that no core holds. -/
def freeAccs (s : State) (t : Nat) : Nat := 8 - (tab (fun i => (getCore s (16 * t + i)).granted.toNat) 0 16).sum

/-- Whether a request is ready (R254). -/
def HandReq.ready (s : State) (t : Nat) (r : HandReq) : Bool :=
  match r.n with
  | none => true
  | some n => n.toNat ≤ freeAccs s t

/-- The new grantee's accumulators read +0, carry no poison and take its tag (R251, R252, R372); a restoring context is then
stopped (R361). -/
def Core.take (k : Core) (n : BitVec 4) : Core :=
  let b := k.bank0
  { k with granted := n, accOwner := some b.tenant, accs := [], apois := 0, heldTile := none,
           bank0 := if b.st == .restoring then { b with st := .stopped, shsel := false } else b }

/-- The request at index `i` of the list is granted the hand. -/
def grantHand (s : State) (t i : Nat) (r : HandReq) : State :=
  let c := r.core
  let len := (getCore s c).bank0.handlen
  let s := modTable s t fun x =>
    { x with holder := some c, handlen := len, reqs := ldel x.reqs i, ptr := BitVec.ofNat 4 (c % 16 + 1) }
  modCore s c fun k =>
    let k := { k with hcount := 0 }
    match r.n with
    | some n => k.take n
    | none => k

/-- A free hand goes to the first ready request of the list (R254). -/
def arbitrate (s : State) (t : Nat) : State :=
  let x := getTable s t
  if x.holder.isSome then s
  else
    match lfind (HandReq.ready s t) x.reqs 0 with
    | some i =>
      match x.reqs[i]? with
      | some r => grantHand s t i r
      | none => s
    | none => s

/-! ### What a command waits for (R324) -/

/-- What the next step of a command comes to. -/
inductive Want where
  | go
  | wait
  | link (sub q : Nat)
  deriving DecidableEq, Repr

/-- The source queues of a command, and how many entries each must hold. -/
def Cmd.sources (m : Cmd) : List (Nat × Nat) :=
  match m.op with
  | 0x30 | 0x31 => (m.qa, 1) :: if m.qb = 127 then [] else [(m.qb, if m.qb = m.qa then 2 else 1)]
  | 0x33 => [(m.qa, 1)]
  | _ => []

/-- The queues that a command pushes to. -/
def Cmd.dests (m : Cmd) : List Nat :=
  match m.op with
  | 0x30 | 0x31 => if m.fwdDone then [] else m.fwd.toList
  | 0x32 => [m.qa]
  | _ => []

/-- The source queues that a command would still wait for. -/
def Cmd.lacking (s : State) (t : Nat) (m : Cmd) : List Nat :=
  m.sources.filterMap fun p => if (tileQueue s t p.1).length < p.2 then some p.1 else none

/-- Whether the port of a link queue is lost for good (R323). -/
def linkDead (s : State) (q : Nat) : Bool := isLink q && (getPort s (linkPort q)).lost

/-- A command at its destination `q`: it waits for a free entry; a stale command, or one that waits on a lost link, stops waiting
(R324). -/
def Cmd.atDest (s : State) (t : Nat) (m : Cmd) (q : Nat) : Want :=
  if m.stale.contains q then .link 4 q
  else if tileRoom s t q then .go
  else if linkDead s q then .link 3 q
  else .wait

/-- A command at its source queues (R324). -/
def Cmd.atSources (s : State) (t : Nat) (m : Cmd) : Want :=
  match (m.sources.map fun p => p.1).find? m.stale.contains with
  | some q => .link 4 q
  | none =>
    match (m.lacking s t).find? (linkDead s) with
    | some q => .link 3 q
    | none => if (m.lacking s t).isEmpty then .go else .wait

/-- What the next step of a command comes to: it reserves a place in its destination before it turns to its sources (R325). -/
def Cmd.want (s : State) (t : Nat) (m : Cmd) : Want :=
  match (m.dests.map (m.atDest s t)).find? (· != .go) with
  | some w => w
  | none => m.atSources s t

/-! ### Order (R264-R266) -/

/-- The command takes source entries, from queues or the held tile. -/
def Cmd.pops (m : Cmd) : Bool := m.isMul || m.op == 0x33

/-- The command writes its accumulator. -/
def Cmd.writesAcc (m : Cmd) : Bool := m.isMul || m.op == 0x33 || m.op == 0x34

/-- Whether `k` may not begin before the earlier `j` has begun: every command pops in command order (R265), and pushes into one
queue go in command order (R262). Multiplications on one accumulator thereby perform in command order (R266). -/
def ordered (j k : Cmd) : Bool := (j.pops && k.pops) || j.dests.any k.dests.contains

/-- Every later command begins only after this one has completed (R264, R266). -/
def Cmd.barrier (m : Cmd) : Bool := m.op == 0x35 || m.op == 0x40 || m.op == 0x21

/-- The index of the last command that has begun. -/
def lastBegun : Nat → List Cmd → Option Nat
  | _, [] => none
  | i, m :: l =>
    match lastBegun (i + 1) l with
    | some j => some j
    | none => if m.begun then some i else none

/-- A STOP of the array's context is under way. -/
def Core.halting (k : Core) : Bool := k.bank0.stopping

/-- Whether the array runs command `i` of a core: not while the context is stopped, and while it stops only what stands
before a later command that has begun (R356, log 21). -/
def arrayRuns (s : State) (c i : Nat) : Bool :=
  let k := getCore s c
  (getTable s (tableOf c)).holder == some c && !k.bank0.still &&
    (!k.halting ||
      match lastBegun 0 k.cmds with
      | some j => j != 0 && i ≤ j
      | none => false)

/-- A ready request waits for the hand. -/
def handWanted (s : State) (t : Nat) : Bool := (getTable s t).reqs.any (HandReq.ready s t)

/-- The holder's turn is used up before its command `i`: with the commands before it the count has reached HANDLEN, and no
later command is under way, so that a command boundary can stand there (R255). -/
def turnOver (s : State) (c i : Nat) : Bool :=
  let k := getCore s c
  let t := tableOf c
  handWanted s t && (getTable s t).handlen.toNat ≤ k.hcount.toNat + ((k.cmds.take i).filter fun m => m.needsHand).length &&
    !((k.cmds.drop (i + 1)).any fun m => m.begun)

/-- A command before `m` has not yet pushed into a queue that `m` pushes to: its push comes first (R262, R325). -/
def laterPush (before : List Cmd) (m : Cmd) : Bool := before.any fun j => !j.finished && j.dests.any m.dests.contains

/-- A fence of bank 1 stands before command `m` in the queue. -/
def Core.fenced (k : Core) (m : Cmd) : Bool := !k.bank1.still && k.cmds1.any fun j => j.barrier && decide (j.id < m.id)

/-- Whether command `i`, which is `m`, may begin now. -/
def mayStart (s : State) (c i : Nat) (m : Cmd) : Bool :=
  let k := getCore s c
  let before := k.cmds.take i
  let started := match k.session with
    | some z => z.begun
    | none => false
  arrayRuns s c i && !m.begun && !started && !turnOver s c i && !(before.any fun j => j.barrier) && !k.fenced m &&
    !(before.any fun j => j.needsHand && !j.begun && (ordered j m || j.want s (tableOf c) == .wait)) &&
    !(m.isMul && laterPush before m) && !(m.writesAcc && k.cmds.any fun j => j.running && j.writesAcc && j.acc == m.acc)

/-! ### Passing the hand (R255) -/

/-- The holder has given up its turn: its queue is empty, or its next command waits on a queue. -/
def idleHolder (s : State) (c : Nat) : Bool :=
  match (getCore s c).cmds with
  | [] => true
  | m :: _ => m.needsHand && m.op != 0x40 && m.want s (tableOf c) == .wait

/-- At a command boundary the hand passes to a ready request when the holder's turn is over. -/
def passHand (s : State) (t : Nat) : State :=
  match (getTable s t).holder with
  | none => arbitrate s t
  | some c =>
    let k := getCore s c
    let busy := k.cmds.any (fun m => m.begun) || (k.bank0.st == .stopped) || k.halting
    if !busy && handWanted s t && (idleHolder s c || turnOver s c 0) then
      joinList (arbitrate (modTable s t fun x => { x with holder := none }) t) c
    else s

/-- The hand is granted, or passes (R254, R255). -/
def execHandGrant (table : Nat) (s : State) : Out := forUnit table Config.tables (passHand s table)

/-! ### Commands under way -/

def getCmd (s : State) (c i : Nat) : Option Cmd := (getCore s c).cmds[i]?

def putCmd (s : State) (c i : Nat) (m : Cmd) : State := modCore s c fun k => { k with cmds := lset k.cmds i m }

/-- The command has ended without effect, or with all of it. -/
def Cmd.end_ (m : Cmd) : Cmd := { m with begun := true, finished := true, ea := none, eb := none }

/-- An asynchronous fault of the M engine of context `ctx`, which the array serves (R123). A context that an abort has ended takes
none, nor does the one that has its bank now (R128). -/
def arrayFault (s : State) (c ctx : Nat) (code : FaultCode) (info : Word) : State :=
  if (getBank s c false).ctx == ctx then addDue s c false code .m 0 info else s

/-- The LINK fault of R324. -/
def linkFault (s : State) (c ctx sub q : Nat) : State := arrayFault s c ctx .link (faultInfo sub 0 q (linkPort q))

/-- The tenant that the array serves for a core: the tag of its accumulators (R251), whatever has become of its context. -/
def Core.arrayOwner (k : Core) : Tenant := k.accOwner.getD 0

/-- Pop the head of a queue. -/
def popTile (s : State) (t q : Nat) : Option (TileEntry × State) :=
  match tileQueue s t q with
  | e :: l => some (e, setTileQueue s t q l)
  | [] => none

/-- A held tile that no M.MMULK has set: its elements are free values (log 11). -/
def freeTile (s : State) (owner : Tenant) (fmt : BitVec 4) : TileEntry × State :=
  let n := containerSize fmt
  ({ owner := owner, job := 0, seq := 0, poison := false, vcols := 128, vrows := 128, fmt := fmt
     bytes := (tab (fun i => i) 0 n).foldl (fun m i => sset m i (Config.freeByte (s.free + i)) 0) [] },
   { s with free := s.free + n })

/-- The first queue, in pop order, whose entry fails the owner check of R262, or else the format check of R265. -/
def badEntry (own : Tenant) (l : List (Nat × TileEntry × Option (BitVec 4))) : Option (FaultCode × Nat) :=
  match l.find? fun p => p.2.1.owner != own with
  | some p => some (.ownerMismatch, p.1)
  | none =>
    (l.find? fun p => match p.2.2 with
      | some f => p.2.1.fmt != f
      | none => false).map fun p => (.illegal, p.1)

/-- The fault of a popped entry that fails a check. -/
def entryFault (s : State) (c ctx : Nat) (f : FaultCode × Nat) : State :=
  arrayFault s c ctx f.1 (faultInfo (if f.1 = .illegal then 9 else 0) 0 0 f.2)

def setPois (k : Core) (acc : Nat) : Core := { k with apois := k.apois ||| (1 : BitVec 8) <<< acc }

/-! ### Multiplication (R274, R79) -/

/-- G of R79. -/
def Cmd.group (m : Cmd) : Nat := if m.fa == 1 || m.fa == 2 then 32 else 64

/-- The exact product of A(r, k) and B(k, c), the latter without its block scale. -/
def elemProduct (m : Cmd) (ea eb : TileEntry) (r c k : Nat) : Val :=
  vmul (decodeF m.fa.toNat (containerElem ea r k))
    (if m.fb == 5 then .scaled (level (tileCode eb k c)) (-8) else decodeF m.fb.toNat (containerElem eb k c))

/-- The block scale of a group: S12Value × superscale, or 1 (R66, R274). -/
def groupScale (m : Cmd) (eb : TileEntry) (c g0 : Nat) : Val :=
  if m.fb == 5 then
    (if superOk (tileSuper eb) then vmul (s12Value (tileScale eb c (g0 / 64))) (decodeF 0 (tileSuper eb)) else .nan)
  else .ofInt 1

/-- Element (r, c) after group `g`: group 0 starts from +0 where the command does not add. -/
def groupElem (k : Core) (m : Cmd) (ea eb : TileEntry) (g r c : Nat) : BitVec 32 :=
  let x := if g = 0 ∧ !m.adds then 0 else (k.acc m.acc (128 * r + c)).toNat
  let g0 := g * m.group
  let n := min m.group (m.shapeK.toNat - g0)
  BitVec.ofNat 32 (accAdd x (groupSum (tab (fun j => elemProduct m ea eb r c (g0 + j)) 0 n) (groupScale m eb c g0)))

/-- Set the elements of a region of accumulator `a`. -/
def setRegion (k : Core) (a rows cols : Nat) (f : Nat → Nat → BitVec 32) : Core :=
  (cells rows cols).foldl (fun k p => k.setAcc a (128 * p.1 + p.2) (f p.1 p.2)) k

/-- One group of a multiplication. -/
def mulGroup (k : Core) (m : Cmd) (ea eb : TileEntry) (g : Nat) : Core :=
  setRegion k m.acc m.shapeM.toNat m.shapeN.toNat (groupElem k m ea eb g)

/-- The groups of a multiplication: none where it touches no element. -/
def Cmd.groups (m : Cmd) : Nat :=
  if m.shapeM == 0 || m.shapeN == 0 then 0 else (m.shapeK.toNat + m.group - 1) / m.group

/-- A multiplication without groups has its whole effect at once: with K = 0 and F = 0 it clears its region. -/
def mulEmpty (k : Core) (m : Cmd) : Core :=
  if m.shapeK == 0 && !m.adds then setRegion k m.acc m.shapeM.toNat m.shapeN.toNat fun _ _ => 0 else k

/-- Pop B: from its queue, or the held tile. -/
def popB (s : State) (c : Nat) (m : Cmd) : Option (TileEntry × State) :=
  let k := getCore s c
  if m.qb = 127 then
    match k.heldTile with
    | some e => some (e, s)
    | none => some (freeTile s k.arrayOwner m.fb)
  else popTile s (tableOf c) m.qb

/-- The pops of a multiplication and their checks; then its forward, its held tile and its poison. -/
def beginMul (s : State) (c i : Nat) (m : Cmd) : State :=
  match popTile s (tableOf c) m.qa with
  | none => s
  | some (ea, s) =>
    match popB s c m with
    | none => s
    | some (eb, s) =>
      let own := (getCore s c).arrayOwner
      let eb := if m.qb = 127 then { eb with owner := own } else eb
      match badEntry own [(m.qa, ea, some m.fa), (m.qb, eb, some m.fb)] with
      | some f => putCmd (entryFault s c m.ctx f) c i m.end_
      | none =>
        let s := match m.dests with
          | q :: _ => pushTile s (tableOf c) q (if isInLink m.qa then ea else eb)
          | [] => s
        let s := modCore s c fun k =>
          let k := if m.op == 0x31 && m.qb != 127 then { k with heldTile := some eb } else k
          if ea.poison || eb.poison then setPois k m.acc else k
        let m := { m with begun := true, ea := some ea, eb := some eb, fwdDone := m.fwd.isSome }
        if m.groups = 0 then putCmd (modCore s c fun k => mulEmpty k m) c i m.end_ else putCmd s c i m

/-- The next group of a multiplication under way. -/
def stepMul (s : State) (c i : Nat) (m : Cmd) : State :=
  match m.ea, m.eb with
  | some ea, some eb =>
    let g := m.gnext.toNat
    let s := modCore s c fun k => mulGroup k m ea eb g
    let m := { m with gnext := m.gnext + 1 }
    putCmd s c i (if m.groups ≤ g + 1 then { m with finished := true } else m)
  | _, _ => s

/-- Begin a command, or stop waiting for a link that is dead. -/
def start (s : State) (c i : Nat) (m : Cmd) (go : State) : State :=
  match m.want s (tableOf c) with
  | .go => go
  | .wait => s
  | .link sub q => putCmd (linkFault s c m.ctx sub q) c i m.end_

/-- M.MMUL or M.MMULK begins, or does its next group; one that was stopped pops its entries again (R356). -/
def execArrayMmul (core k : Nat) (s : State) : Out :=
  forCore core <|
    match getCmd s core k with
    | none => s
    | some m =>
      if !m.isMul then s
      else if mayStart s core k m then start s core k m (beginMul s core k m)
      else if m.running && arrayRuns s core k then
        (if m.ea.isNone then start s core k m (beginMul s core k m) else stepMul s core k m)
      else s

/-! ### Drains, loads and clears (R275-R277) -/

/-- An entry of a drain of `m` with none of its rows, nor its sequence number. -/
def drainBlank (k : Core) (m : Cmd) (acc : Nat) : TileEntry where
  owner := k.arrayOwner
  job := 0
  seq := 0
  poison := k.apois.getLsbD acc
  vcols := m.shapeN
  vrows := m.shapeM
  fmt := m.fo
  bytes := []

/-- Element `e` of a drain, from its FP32 bits `v`: FO = FP32 copies them, with NaNs made canonical. -/
def drainElem (m : Cmd) (e v : Nat) : Nat :=
  if m.fo == 0 then (if (decodeF 0 v).isNan then canonNan 0 else v)
  else (convert 0 m.fo.toNat ⟨m.mode.toNat, m.sat, m.seed, e, none⟩ v).1

/-- Row `r` of accumulator `acc`, converted, joins the entry of a drain. -/
def drainRow (k : Core) (m : Cmd) (acc : Nat) (x : TileEntry) (r : Nat) : TileEntry :=
  let put := fun (b : SMap Byte) (j : Nat) =>
    let e := 128 * r + j
    containerPut b m.fo.toNat r j (drainElem m e (k.acc acc e).toNat)
  { x with poison := x.poison || k.apois.getLsbD acc, bytes := (tab (fun j => j) 0 m.shapeN.toNat).foldl put x.bytes }

/-- The whole entry that a drain of `m` makes at one moment, without its sequence number. -/
def drainEntry (k : Core) (m : Cmd) (acc : Nat) : TileEntry :=
  (tab (fun r => r) 0 m.shapeM.toNat).foldl (drainRow k m acc) (drainBlank k m acc)

/-- Push an entry with the next sequence number of its queue. -/
def pushNumbered (s : State) (t q : Nat) (e : TileEntry) : State :=
  let (n, s) := nextSeq s t q
  pushTile s t q { e with seq := n }

/-- A drain with the entry `e`: once all its rows are there and the commands before it have pushed, it is pushed into the place reserved
for it, unless a LQBIND has taken that place away (R324). -/
def drainGoesOn (s : State) (c i : Nat) (m : Cmd) (e : TileEntry) : State :=
  if m.gnext.toNat < m.shapeM.toNat || laterPush ((getCore s c).cmds.take i) m then putCmd s c i { m with begun := true, ea := some e }
  else if m.stale.contains m.qa then putCmd (linkFault s c m.ctx 4 m.qa) c i m.end_
  else putCmd (pushNumbered s (tableOf c) m.qa e) c i m.end_

/-- A drain begins: it reserves its place (R262). -/
def beginDrain (s : State) (c i : Nat) (m : Cmd) : State :=
  drainGoesOn s c i { m with gnext := 0 } (drainBlank (getCore s c) m m.acc)

/-- A drain reads its next row, if one is left; commands that nothing orders with it may come between two rows (R266). -/
def stepDrain (s : State) (c i : Nat) (m : Cmd) (e : TileEntry) : State :=
  if m.shapeM.toNat ≤ m.gnext.toNat then drainGoesOn s c i m e
  else drainGoesOn s c i { m with gnext := m.gnext + 1 } (drainRow (getCore s c) m m.acc e m.gnext.toNat)

/-- M.MDRAIN begins, or reads its next row. -/
def execArrayMdrain (core k : Nat) (s : State) : Out :=
  forCore core <|
    match getCmd s core k with
    | none => s
    | some m =>
      if m.op != 0x32 then s
      else if mayStart s core k m then start s core k m (beginDrain s core k m)
      else if m.running && arrayRuns s core k then
        match m.ea with
        | some e => stepDrain s core k m e
        | none => start s core k m (beginDrain s core k m)
      else s

/-- The value of element (r, c) of an entry of any format (R276). -/
def entryValue (e : TileEntry) (r c : Nat) : Val :=
  if e.fmt == 5 then nq4Value (tileCode e r c) (tileScale e c (r / 64)) (tileSuper e)
  else decodeF e.fmt.toNat (containerElem e r c)

def runLdacc (s : State) (c i : Nat) (m : Cmd) : State :=
  match popTile s (tableOf c) m.qa with
  | none => s
  | some (e, s) =>
    match badEntry (getCore s c).arrayOwner [(m.qa, e, none)] with
    | some f => putCmd (entryFault s c m.ctx f) c i m.end_
    | none =>
      let s := modCore s c fun k =>
        let k := setRegion k m.acc m.shapeM.toNat m.shapeN.toNat fun r j =>
          BitVec.ofNat 32 (roundTo 0 .rne (entryValue e r j)).1
        if e.poison then setPois k m.acc else k
      putCmd s c i m.end_

def execArrayMldacc (core k : Nat) (s : State) : Out :=
  forCore core <|
    match getCmd s core k with
    | none => s
    | some m => if m.op == 0x33 && mayStart s core k m then start s core k m (runLdacc s core k m) else s

def runClear (s : State) (c i : Nat) (m : Cmd) : State :=
  let s := modCore s c fun k =>
    let k := setRegion k m.acc m.shapeM.toNat m.shapeN.toNat fun _ _ => 0
    if m.shapeM == 128 && m.shapeN == 128 then { k with apois := k.apois &&& ~~~((1 : BitVec 8) <<< m.acc) } else k
  putCmd s c i m.end_

def execArrayMclr (core k : Nat) (s : State) : Out :=
  forCore core <|
    match getCmd s core k with
    | none => s
    | some m => if m.op == 0x34 && mayStart s core k m then runClear s core k m else s

/-! ### Completion (R255, R264) -/

/-- HCOUNT counts up to the largest value its field holds (log 22). -/
def Core.countCmd (k : Core) : Core := { k with hcount := if k.hcount = 511 then 511 else k.hcount + 1 }

/-- The oldest command leaves the queue; the hand passes as R255 says. -/
def execMatrixCommandComplete (core k : Nat) (s : State) : Out :=
  forCore core <|
    match (getCore s core).head false with
    | none => s
    | some m =>
      if k = 0 ∧ m.finished then passHand (modCore s core fun x => (x.dropHead false).countCmd) (tableOf core) else s

/-- A mode entry, a fence or a release of bank `b` leaves the queue if it stands at the head. -/
def retireEntry (s : State) (c : Nat) (b : Bool) : State :=
  match (getCore s c).head b with
  | none => s
  | some m =>
    if m.needsHand then s
    else
      let s := modCore s c fun k => k.dropHead b
      passHand (if m.op == 0x21 && !b then releaseHand s c else s) (tableOf c)

/-- A mode entry, a fence or a release at the head of the queue (R256, R264, R273, R278). -/
def execQueueEntryRetire (core : Nat) (s : State) : Out := forCore core (retireEntry (retireEntry s core false) core true)

/-! ### The feed unit (R279) -/

/-- The entry that a feed pushes: the image as it now stands; poisoned if some sector of it cannot be read. -/
def feedEntry (s : State) (f : Feed) (n : BitVec 32) : TileEntry where
  owner := f.tenant
  job := 0
  seq := n
  poison := (firstBad s true false f.places 0).isSome
  vcols := 128
  vrows := 128
  fmt := f.fmt
  bytes := (numbered (fun i p => (32 * i, rdPlace s p)) 0 f.places).foldl (fun m p => putBytes m p.1 32 p.2) []

/-- The oldest feed of a table pushes its tile once its queue has room. -/
def execFeedPush (table : Nat) (s : State) : Out :=
  forUnit table Config.tables <|
    match (getTable s table).feeds with
    | [] => s
    | f :: l =>
      if tileRoom s table f.q && !remapHolds s f.cmd f.places then
        let (n, s) := nextSeq s table f.q
        let s := modTable s table fun t => { t with feeds := l }
        pushTile s table f.q (feedEntry s f n)
      else s

/-! ### Vertical exclusion (R267) -/

/-- A window of the vertical exclusion zone changes its owner: only timing changes, which no state holds (log 4). -/
def execExclusionWindow (table : Nat) (s : State) : Out := forUnit table Config.tables s

end Sys2Proof.Machine
end

