-- ==== Sys2Proof/Machine/Atomics.lean ====
section
/-! DEFINITION. The atomics of the A engine (R332-R334): a KX gives their displacement and suit; each is one access that
reads and writes its location in one step (Machine/Access.lean). -/
namespace Sys2Proof.Machine

/-- Atomic of R332: `op` is the opcode, `wide` field W. The tag of CHIP faults before the address is resolved, so also where an
unassigned bit is set (R187). -/
def atomicEffect (op : BitVec 8) (t : BitVec 4) (d : BitVec 6) (base o : BitVec 5) (wide : Bool) (s : State) : Act State :=
  let b := curBank s s.core
  let v := viewOf s s.core (getCore s s.core).active
  let n := atomicSize op.toNat wide
  let (disp, su) := atomicKx n (b.kxOf .a)
  match b.useA base.toNat, b.useA o.toNat, (if op = 0x61 then b.useA (o.toNat + 1) else .ok 0) with
  | .ok a, .ok y, .ok z =>
    let x := a + disp
    if fld x.toNat 56 8 = 0x83 then .error (.fault .illegal x 0 su (faultInfo 9))
    else
      match liftX x 0 su (resolve s v x 0 n true true false) with
      | .error e => .error e
      | .ok _ =>
        if !atomicFits s v x n then .error (.fault .illegal x 0 su (faultInfo 9))
        else
          memEffect s t 0 su (locateAll s v 0 su n true true false false [x])
            { op := .atomic op wide y z, data := vecOf x, dest := some (d, false) }
  | _, _, _ => stall

def execAAadd (t : BitVec 4) (d : BitVec 6) (b o : BitVec 5) (w : BitVec 1) (s : State) : Out :=
  issue (.aAadd t d b o w) .a t true (atomicEffect 0x58 t d b o (w == 1)) s

def execAAand (t : BitVec 4) (d : BitVec 6) (b o : BitVec 5) (w : BitVec 1) (s : State) : Out :=
  issue (.aAand t d b o w) .a t true (atomicEffect 0x59 t d b o (w == 1)) s

def execAAor (t : BitVec 4) (d : BitVec 6) (b o : BitVec 5) (w : BitVec 1) (s : State) : Out :=
  issue (.aAor t d b o w) .a t true (atomicEffect 0x5A t d b o (w == 1)) s

def execAAxor (t : BitVec 4) (d : BitVec 6) (b o : BitVec 5) (w : BitVec 1) (s : State) : Out :=
  issue (.aAxor t d b o w) .a t true (atomicEffect 0x5B t d b o (w == 1)) s

def execAAmin (t : BitVec 4) (d : BitVec 6) (b o : BitVec 5) (w : BitVec 1) (s : State) : Out :=
  issue (.aAmin t d b o w) .a t true (atomicEffect 0x5C t d b o (w == 1)) s

def execAAmax (t : BitVec 4) (d : BitVec 6) (b o : BitVec 5) (w : BitVec 1) (s : State) : Out :=
  issue (.aAmax t d b o w) .a t true (atomicEffect 0x5D t d b o (w == 1)) s

def execAAminu (t : BitVec 4) (d : BitVec 6) (b o : BitVec 5) (w : BitVec 1) (s : State) : Out :=
  issue (.aAminu t d b o w) .a t true (atomicEffect 0x5E t d b o (w == 1)) s

def execAAmaxu (t : BitVec 4) (d : BitVec 6) (b o : BitVec 5) (w : BitVec 1) (s : State) : Out :=
  issue (.aAmaxu t d b o w) .a t true (atomicEffect 0x5F t d b o (w == 1)) s

def execAAxchg (t : BitVec 4) (d : BitVec 6) (b o : BitVec 5) (w : BitVec 1) (s : State) : Out :=
  issue (.aAxchg t d b o w) .a t true (atomicEffect 0x60 t d b o (w == 1)) s

def execAAcas (t : BitVec 4) (d : BitVec 6) (b o : BitVec 5) (w : BitVec 1) (s : State) : Out :=
  issue (.aAcas t d b o w) .a t true (atomicEffect 0x61 t d b o (w == 1)) s

def execAAfadd (t : BitVec 4) (d : BitVec 6) (b o : BitVec 5) (w : BitVec 1) (s : State) : Out :=
  issue (.aAfadd t d b o w) .a t true (atomicEffect 0x62 t d b o (w == 1)) s

end Sys2Proof.Machine
end

