-- ==== Sys2Proof/Machine/Elements.lean ====
section
/-! DEFINITION. Elements of a job on a NODE side at the node whose label they name (R195, R241, R304, R305): each is an access of its
own there, on another node's behalf or on this node's. -/
namespace Sys2Proof.Machine

/-- The generic address by which a packet names an offset of its target (R195). -/
def nodeAddr (p : Packet) (off : Nat) : Word := w64 (3 * 2 ^ 62 + p.dst.toNat * 2 ^ 40 + off)

/-- Where an element of a packet lies at this node, whose alignment its region checks (R222, R305). A 4-bit element of a position
region is half of the byte that the access at its position covers (log 32). A sector of a compressed block lies in a byte region
(R246). -/
def elemHere (s : State) (v : View) (p : Packet) (wr : Bool) (e : ElemReq) : Act ElemAt :=
  let x := nodeAddr p e.off.toNat
  let found := fun (q : Place → Place) (f : Found) =>
    let q := q (f.places.headD ⟨.mem 0 0, 0, 0⟩)
    (⟨x, q, decide (q.keep < q.bits), f.uses⟩ : ElemAt)
  let got := resolve s v x p.plane.toNat (max (p.ebits / 8) 1) (!wr) wr false
  let bad : Act ElemAt := .error (.fault .illegal x p.plane p.suit (faultInfo 9))
  match liftX x p.plane p.suit (posAt s v x) with
  | .error e => .error e
  | .ok none => (liftX x p.plane p.suit got).map (found fun q => q.nibble e.bit p.ebits)
  | .ok (some r) =>
    if p.op = 0x4D || (p.plane.toNat < psdPlanes r.psd && p.ebits < planeWidth (psdAttr r.psd p.plane.toNat)) then bad
    else (liftX x p.plane p.suit got).map (found fun q => q.nibble e.bit p.ebits)

/-- An element found with its storage in a state that allows the access; `id` is the number that a REMAP holds it back by. -/
def elemEnd (s : State) (v : View) (id : Nat) (p : Packet) (wr : Bool) (e : ElemReq) : Act ElemAt :=
  match elemHere s v p wr e with
  | .error e => .error e
  | .ok a =>
    if remapHolds s id [a.place] then stall
    else
      match placeFault s (!wr) wr a.place with
      | some d => .error (.fault .dataPoison a.addr p.plane p.suit (faultInfo 1 0 0 d))
      | none => .ok a

/-- A stop that is not a fault: the element waits. -/
def Stop.waits : Stop → Bool
  | .fault _ _ _ _ _ => false
  | _ => true

/-- What a fault comes to as the answer for an element. -/
def Stop.answer : Stop → Option FaultRec
  | .fault code addr plane suit info => some ⟨code.num, 0, 0, addr, plane, suit, info⟩
  | _ => none

/-- The first element that waits, if any. -/
def firstWait {α : Type} : List (Act α) → Option Stop
  | [] => none
  | .error e :: l => if e.waits then some e else firstWait l
  | .ok _ :: l => firstWait l

/-- The values that a job reads. -/
def readElems (s : State) (v : View) (id : Nat) (p : Packet) : List (Nat × Option FaultRec) :=
  p.elems.map fun e =>
    match elemEnd s v id p false e with
    | .ok a => (rdPlace s a.place, none)
    | .error e => (0, e.answer)

/-- The elements of a packet that find storage, as writes. -/
def packetPuts (s : State) (v : View) (p : Packet) : List Put :=
  p.elems.filterMap fun e =>
    match elemHere s v p true e with
    | .ok a => some ⟨a.place, a.addr, e.val, e.poison⟩
    | .error _ => none

/-- Write the elements one by one: what each comes to. -/
def putElems (s : State) (v : View) (id : Nat) (p : Packet) : List ElemReq → State × List (Nat × Option FaultRec)
  | [] => (s, [])
  | e :: l =>
    match elemEnd s v id p true e with
    | .ok a =>
      let (val, s) := if e.poison then freeValue s a.place.bits else (e.val, s)
      let (s, r) := putElems (wrPlace s a.place val) v id p l
      (s, (0, none) :: r)
    | .error f =>
      let (s, r) := putElems s v id p l
      (s, (0, f.answer) :: r)

def elemsClamped (s : State) (v : View) (p : Packet) (wr : Bool) : Bool :=
  p.elems.any fun e => match elemHere s v p wr e with
    | .ok a => a.clamped
    | .error _ => false

/-- The elements of a packet, each by itself: the answer, or that some element waits. A stored sector that its elements fill whole
loses its poison (R241). -/
def serveElems (s : State) (v : View) (id : Nat) (p : Packet) : Act (State × Response) :=
  let wr := p.kind == .store
  match firstWait (p.elems.map (elemEnd s v id p wr)) with
  | some e => .error e
  | none =>
    if wr then
      let puts := packetPuts s v p
      let (s1, r) := putElems (cureFilled s (fillBits puts)) v id p p.elems
      .ok (poisonPuts s1 puts, .many r (elemsClamped s v p true))
    else .ok (s, .many (readElems s v id p) (elemsClamped s v p false))

end Sys2Proof.Machine
end

