-- ==== Sys2Proof/Machine/Copy.lean ====
section
/-! DEFINITION. Copy jobs: A.CPY with its checks and acceptance (R237, R238, R243), the running of a job (R234-R236), its
queue sides (R235), and its completion (R231); and STO, which waits for the packets of jobs (R310). -/
namespace Sys2Proof.Machine

/-! ### The job card (R232) -/

def cardSrc (c : Card) : Word := c.extractLsb' 0 64
def cardDst (c : Card) : Word := c.extractLsb' 64 64
def cardSstride (c : Card) : Word := stride (cardF c 128 32)
def cardDstride (c : Card) : Word := stride (cardF c 160 32)
def cardRows (c : Card) : Nat := cardF c 192 16
def cardCols (c : Card) : Nat := cardF c 208 16
/-- VROWS and VCOLS above ROWS and COLS act as those (R233). -/
def cardVrows (c : Card) : Nat := min (cardF c 224 16) (cardRows c)
def cardVcols (c : Card) : Nat := min (cardF c 240 16) (cardCols c)
def cardSfmt (c : Card) : Nat := cardF c 256 4
def cardDfmt (c : Card) : Nat := cardF c 260 4
def cardTr (c : Card) : Bool := c.getLsbD 264
def cardCv (c : Card) : Bool := c.getLsbD 265
def cardSat (c : Card) : Bool := c.getLsbD 266
def cardDc (c : Card) : Bool := c.getLsbD 267
def cardRnd (c : Card) : Nat := cardF c 268 3
def cardQdst (c : Card) : Bool := c.getLsbD 271
def cardSplane (c : Card) : Nat := cardF c 272 3
def cardDplane (c : Card) : Nat := cardF c 275 3
def cardSuit (c : Card) : BitVec 4 := c.extractLsb' 278 4
def cardXr (c : Card) : Nat := cardF c 282 3
def cardQsrc (c : Card) : Bool := c.getLsbD 285
def cardTscale (c : Card) : Nat := cardF c 288 32
def cardSeed (c : Card) : BitVec 32 := c.extractLsb' 320 32
def cardSeq (c : Card) : BitVec 32 := c.extractLsb' 352 32

/-- Rows and columns of the destination (R233). -/
def cardDrows (c : Card) : Nat := if cardTr c then cardCols c else cardRows c
def cardDcols (c : Card) : Nat := if cardTr c then cardRows c else cardCols c

def srcSide (c : Card) : Side := ⟨cardSrc c, cardSstride c, cardSplane c, fmtWidth (cardSfmt c), false, true⟩
def dstSide (c : Card) : Side := ⟨cardDst c, cardDstride c, cardDplane c, fmtWidth (cardDfmt c), true, false⟩

/-! ### The checks (R237) -/

/-- Byte-addressed storage other than another node's: on chip, or in a byte region (R212). -/
def byteAddressed (s : State) (v : View) (x : Word) : Bool :=
  match aperture x with
  | .spad | .clus | .chip => true
  | .global | .priv => match leafAt s v x with
    | some (leaf, _) => !bit leaf 2
    | none => false
  | _ => false

/-- Check 8 on one side: misaligned in byte-addressed storage. -/
def sideMisaligned (s : State) (v : View) (d : Side) : Bool :=
  8 ≤ d.width && byteAddressed s v d.base &&
    (d.base.toNat % (d.width / 8) != 0 || d.step.toNat % (d.width / 8) != 0)

def copyChecks (s : State) (v : View) (c : Card) : List (Nat × Bool) :=
  let sf := cardSfmt c
  let df := cardDfmt c
  let q := (cardDst c).toNat
  let qs := (cardSrc c).toNat
  [(1, cardF c 504 8 != 1 || cardF c 384 120 != 0 || cardF c 286 2 != 0 || (!cardDc c && cardXr c != 0)),
   (2, 6 ≤ cardRnd c || sf == 7 || df == 7 || (!cardCv c && sf != df && !cardQsrc c) ||
     (cardCv c && (sf == 5 || sf == 6 || df == 5 || df == 6))),
   (3, cardCv c && (cardTscale c == 0 || 0x7F7FFFFF < cardTscale c)),
   (4, cardRows c == 0 || cardCols c == 0),
   (5, cardDc c && (cardCv c || cardTr c || cardQsrc c || cardQdst c || sf != df || cardCols c != 4096 / fmtWidth sf ||
     4 < cardXr c || qs % 32 != 0 || (cardSstride c).toNat % 32 != 0)),
   (6, cardQdst c && (128 ≤ q || !(q < 8 || (12 ≤ q && q < 16)) || !(1 ≤ df && df ≤ 4) || cardDplane c != 0 ||
     128 < cardDrows c || 128 < cardDcols c)),
   (7, cardQsrc c && (128 ≤ qs || !(16 ≤ qs && qs < 24) || cardSplane c != 0 || 128 < cardRows c || 128 < cardCols c)),
   (8, (!cardQsrc c && sideMisaligned s v (srcSide c)) || (!cardQdst c && sideMisaligned s v (dstSide c)))]

/-! ### Acceptance (R238, R243) -/

/-- The address of block `i` of a decompressing copy (R236). -/
def blockAddr (c : Card) (i : Nat) : Word := cardSrc c + w64 i * cardSstride c

/-- Resolve the header sectors of a decompressing copy; none lies in a position region (R246). -/
def blockHeaders (s : State) (v : View) (c : Card) : List Nat → Act (List ElemAt)
  | [] => .ok []
  | i :: l =>
    let x := blockAddr c i
    let su := cardSuit c
    let got : X ElemAt :=
      if aperture x = .node then plainElem s v ⟨x, 0, 0, 256, false, true⟩ none x 0
      else if inPosition s v x then xfault .illegal (faultInfo 9)
      else (resolve s v x 0 32 true false false).map fun f => ⟨x, (f.places.headD ⟨.mem 0 0, 0, 0⟩), false, f.uses⟩
    match liftX x (BitVec.ofNat 3 (cardSplane c)) su got with
    | .error e => .error e
    | .ok e => (blockHeaders s v c l).map fun r => e :: r

/-- The source elements that are read. -/
def copySource (s : State) (v : View) (y : Word) (c : Card) : Act SideAt :=
  if cardQsrc c then .ok ⟨[], none⟩
  else if cardDc c then
    (if cardVcols c = 0 then .ok [] else blockHeaders s v c (tab (fun i => i) 0 (cardVrows c))).map fun l => ⟨l, none⟩
  else resolveSide s v y (cardSuit c) (srcSide c) (cells (cardVrows c) (cardVcols c))

def copyDest (s : State) (v : View) (y : Word) (c : Card) : Act SideAt :=
  if cardQdst c then .ok ⟨[], none⟩ else resolveSide s v y (cardSuit c) (dstSide c) (cells (cardDrows c) (cardDcols c))

/-- The regions that the sides lie in are known: no walk of a base is still to end (R227). A NODE side is not translated (R305). -/
def copyRegions (s : State) (v : View) (c : Card) : Act Unit :=
  let known := fun (d : Side) => (liftX d.base (BitVec.ofNat 3 d.plane) (cardSuit c) (sidePos s v d.base)).map fun _ => ()
  match if cardQsrc c then .ok () else known (srcSide c) with
  | .error e => .error e
  | .ok () => if cardQdst c then .ok () else known (dstSide c)

/-- The sectors of the scratchpad that the blocks with these headers may take: the owner tags of all of them count (R241). -/
def blockPlaces (c : Card) (l : List ElemAt) : List Place :=
  if cardDc c then
    l.flatMap fun e => match e.place.tgt with
      | .mem loc _ => if loc < spadBase then [] else
          (tab (fun q => (⟨.mem (loc + 32 * q) 0, 256, 256⟩ : Place)) 1 16).filter fun p => match p.tgt with
            | .mem l _ => (l - spadBase) / 2 ^ 19 == (loc - spadBase) / 2 ^ 19
            | _ => false
      | _ => []
  else []

/-- A.CPY (R232, R237, R242). The 544 bytes of a block's footprint are those of storage from its header's location on, also where the
block crosses into a page that lies elsewhere (DESIGN CHOICE, log 33). -/
def cpyEffect (ch : BitVec 3) (r : BitVec 5) (s : State) : Act State :=
  let v := viewOf s s.core (getCore s s.core).active
  match (curBank s s.core).useA r.toNat with
  | .error e => .error e
  | .ok y =>
    match readCard s y with
    | .error e => .error e
    | .ok c =>
      match copyRegions s v c, cardChecks y (copyChecks s v c) with
      | .error e, _ => .error e
      | _, .error e => .error e
      | .ok (), .ok () =>
        if !slotFree s then stall
        else
          match copySource s v y c with
          | .error e => .error e
          | .ok src =>
            match copyDest s v y c with
            | .error e => .error e
            | .ok dst =>
              let t := tableOf s.core
              let whole := fun (p : Nat × Nat) => if cardDc c then (p.1, 544) else p
              let reads := if cardQsrc c then [queueKey t (cardSrc c).toNat]
                else src.elems.map fun e => whole (placeKey e.place)
              let writes := if cardQdst c then [queueKey t (cardDst c).toNat] else dst.elems.map fun e => placeKey e.place
              let (id, s) := fresh s
              let s := if (src.elems ++ dst.elems).any fun e => e.clamped then
                  modCore s s.core fun k => { k with clamps := k.clamps ||| (1 : BitVec 8) <<< ch.toNat } else s
              .ok (acceptJob s (newJob s id .copy ch c src.elems dst.elems [src.gran, dst.gran] (blockPlaces c src.elems) reads writes))

def execACpy (t : BitVec 4) (c : BitVec 3) (r : BitVec 5) (s : State) : Out :=
  issue (.aCpy t c r) .a t false (cpyEffect c r) s

/-! ### Beginning (R231, R234, R235) -/

/-- The address of source element number `k` of a job. -/
def srcAddr (j : Job) (k : Nat) : Word :=
  let n := cardVcols j.card
  (elemAddr (nth j.grans 0 none) (srcSide j.card) (k / n) (k % n)).1

/-- Read the local source elements, from number `k` on. -/
def readLocal (s : State) (c : Nat) (j : Job) : Nat → List Place → State × Job
  | _, [] => (s, j)
  | k, p :: l =>
    let su := cardSuit j.card
    match p.tgt with
    | .node _ _ => readLocal s c j (k + 1) l
    | _ =>
      match readElem s j p with
      | .val v => readLocal s c { j with got := sset j.got k v 0 } (k + 1) l
      | .poison d =>
        readLocal (recordError s c j (jobError .dataPoison 1 (srcAddr j k) (cardSplane j.card) su d)) c
          { j with pois := j.pois ++ [k] } (k + 1) l
      | .gone =>
        readLocal (recordError s c j (jobError .ownerMismatch 0 (srcAddr j k) (cardSplane j.card) su)) c
          { j with lost := j.lost ++ [k] } (k + 1) l

/-- The number of sector `q` of block `k` among a job's source elements. -/
def sectorNo (k q : Nat) : Nat := 2 ^ 20 + 17 * k + q

/-- The number of the 32-bit word `w` of block `k`. -/
def wordNo (k w : Nat) : Nat := 2 ^ 24 + 128 * k + w

/-- The numbers of the words of block `k`, whose header is `h`, that payload sector `q` holds (R245). -/
def sectorWords (h k q : Nat) : List Nat :=
  ((tab (fun w => w) 0 128).filter fun w => bit h w && 1 + ones w h / 8 == q).map (wordNo k)

/-- What a failure in reading a sector of a block does to the elements formed from it: they are poisoned, or not written (R241). -/
inductive SectorLoss where
  | poisoned
  | unwritten
  deriving DecidableEq, Repr

def sectorLoss : Stop → Option SectorLoss
  | .fault .dataPoison _ _ _ _ => some .poisoned
  | .fault .ownerMismatch _ _ _ _ => some .unwritten
  | _ => none

/-- The elements numbered in `l` are lost that way. -/
def Job.lose (j : Job) (l : List Nat) : SectorLoss → Job
  | .poisoned => { j with pois := j.pois ++ l }
  | .unwritten => { j with lost := j.lost ++ l }

/-- Sector `q` as a block is expanded: a payload sector that is lost counts as zeros, since it takes only the elements formed from it
along (R241). -/
def payloadSector (sec : Nat → Act Nat) (q : Nat) : Act Nat :=
  match q, sec q with
  | 0, r => r
  | _, .error e => if (sectorLoss e).isSome then .ok 0 else .error e
  | _, r => r

/-- The expansion of block `k`, whose sectors `sec` reads. -/
def jobBlock (j : Job) (k : Nat) (sec : Nat → Act Nat) : Act Nat :=
  expandBlock (blockAddr j.card k) (cardSuit j.card) (cardXr j.card) (payloadSector sec)

/-- The faults met in payload sectors `l`, in order, with their sectors. -/
def sectorStops (sec : Nat → Act Nat) (l : List Nat) : List (Nat × Stop) :=
  l.filterMap fun q => match sec q with
    | .error (.fault code a p u i) => some (q, .fault code a p u i)
    | _ => none

/-- Block `k` has been expanded, or not: its errors are recorded, but for sectors of another node, whose errors were as they came, and a
row whose block fails a check is written as zeros (R241).
R241's table has no row for a payload sector whose page faults while the job runs, or that lies in a position region: its fault is
recorded and the row written as zeros too (DESIGN CHOICE, log 33). -/
def takeBlock (s : State) (c : Nat) (j : Job) (k : Nat) (here : Bool) (sec : Nat → Act Nat) : State × Job :=
  let note := fun (s : State) (e : Stop) =>
    if here || (sectorLoss e).isNone then recordError s c j (stopError (cardSuit j.card) e) else s
  match sec 0, jobBlock j k sec with
  | .error e, _ => (note s e, match sectorLoss e with
      | some w => j.lose [k] w
      | none => j)
  | .ok _, .error (.fault .expansion a p u i) => (note s (.fault .expansion a p u i), j)
  | .ok h, r =>
    let stops := sectorStops sec (tab (fun q => q) 1 (fld h 136 8 - 1))
    (stops.foldl (fun s x => note s x.2) s,
      match r with
      | .error _ => j
      | .ok v => stops.foldl (fun j x => match sectorLoss x.2 with
          | some w => j.lose (sectorWords h k x.1) w
          | none => j) { j with got := sset j.got k v 0 })

/-- Read a sector of a block at `x` from its place. -/
def readBlockPlace (s : State) (j : Job) (x : Word) (p : Place) : Act Nat :=
  if !j.tagHolds s p then .error (.fault .ownerMismatch x 0 (cardSuit j.card) (faultInfo 0))
  else
    match placeFault s true false p with
    | some d => .error (.fault .dataPoison x 0 (cardSuit j.card) (faultInfo 1 0 0 d))
    | none => .ok (rdPlace s p)

/-- Sector `q` of block `k`, whose header was found at `p` at acceptance; the others are found now (R238). -/
def blockSector (s : State) (j : Job) (k : Nat) (p : Place) (q : Nat) : Act Nat :=
  let x := blockAddr j.card k + w64 (32 * q)
  if q = 0 then readBlockPlace s j x p
  else
    match findSector s j.view j.id x (cardSuit j.card) with
    | .error e => .error e
    | .ok p => readBlockPlace s j x p

/-- Expand the local blocks of a decompressing copy; the job waits where a sector does. -/
def readBlocks (s : State) (c : Nat) (j : Job) : Nat → List Place → Act (State × Job)
  | _, [] => .ok (s, j)
  | k, p :: l =>
    match p.tgt with
    | .node _ _ => readBlocks s c j (k + 1) l
    | _ =>
      match firstWait [jobBlock j k (blockSector s j k p)] with
      | some e => .error e
      | none =>
        let (s, j) := takeBlock s c j k true (blockSector s j k p)
        readBlocks s c j (k + 1) l

/-- Sectors `lo` to `hi` of block `k` on another node. -/
def blockSectors (k : Nat) (l : Label) (off : BitVec 40) (lo n : Nat) : List (Nat × Label × ElemReq) :=
  tab (fun q => (sectorNo k q, l, ⟨off + BitVec.ofNat 40 (32 * q), 0, 0, false⟩)) lo n

/-- The elements of a NODE side that a job reads: of a compressed block its header first (R246). -/
def remoteReads (j : Job) : List (Nat × Label × ElemReq) :=
  (numbered (fun k (p : Place) => (k, p)) 0 j.src).flatMap fun (k, p) =>
    match p.tgt with
    | .node l off =>
      if cardDc j.card then blockSectors k l off 0 1
      else
        let n := cardVcols j.card
        [(k, l, ⟨off, k % n * (srcSide j.card).width % 8, 0, false⟩)]
    | _ => []

/-- The packets by which a job reads on other nodes; compressed blocks are read in plane 0 (R246). -/
def readPackets (s : State) (c : Nat) (j : Job) (l : List (Nat × Label × ElemReq)) : List (Nat × Packet) :=
  if cardDc j.card then
    (jobPackets s c j .load 0 (cardSuit j.card) 256 l).map fun p => (p.1, { p.2 with op := 0x4D })
  else jobPackets s c j .load (cardSplane j.card) (cardSuit j.card) (srcSide j.card).width l

/-! ### Answers of other nodes (R241, R307) -/

/-- What an element number has come to: its data, poisoned data, or nothing. -/
def takeElem (j : Job) (k : Nat) (r : Nat × Option FaultRec) : Job :=
  match r.2 with
  | none => { j with got := sset j.got k r.1 0 }
  | some f => if f.code == FaultCode.dataPoison.num then { j with pois := j.pois ++ [k] } else { j with lost := j.lost ++ [k] }

/-- The answers for the elements of a packet, from element number `k` on. -/
def takeElems (s : State) (c : Nat) (j : Job) (p : Packet) : Nat → List (ElemReq × Nat × Option FaultRec) → State × Job
  | _, [] => (s, j)
  | k, (e, r) :: l =>
    let s := match r.2 with
      | some f =>
        recordError s c j { f with addr := w64 (3 * 2 ^ 62 + p.dst.toNat * 2 ^ 40 + e.off.toNat), plane := p.plane, suit := p.suit }
      | none => s
    takeElems s c (if p.kind == .load then takeElem j k r else j) p (k + 1) l

/-- An answer to a packet of a job, whose first element has number `k`. -/
def jobAnswer (s : State) (c : Nat) (j : Job) (p : Packet) (k : Nat) (r : Response) : State × Job :=
  match r with
  | .fault f => takeElems s c j p k (p.elems.map fun e => (e, 0, some f))
  | .many l cl =>
    let s := if cl then
        modCore s c fun x =>
          if j.kind == .coll then { x with cclamp := true } else { x with clamps := x.clamps ||| (1 : BitVec 8) <<< j.chan.toNat }
      else s
    takeElems s c j p k (List.zip p.elems l)
  | .data _ _ => (s, j)

/-- Packets of a job whose elements carry this node's own label are served here, as they are at any target (R195, R305). -/
def serveOwn (s : State) (c : Nat) (j : Job) : List (Nat × Packet) → Act (State × Job)
  | [] => .ok (s, j)
  | (k, p) :: l =>
    match serveElems s j.view j.id p with
    | .error e => .error e
    | .ok (s, r) =>
      let (s, j) := jobAnswer s c j p k r
      serveOwn s c j l

/-- Packets of a job go out, those toward this node's own label to be served at once; the job waits where one of these does. -/
def issuePackets (s : State) (c : Nat) (j : Job) (l : List (Nat × Packet)) : Act (State × Job) :=
  (serveOwn s c j (l.filter fun p => p.2.dst == s.fabric.label)).map fun r =>
    sendJob r.1 r.2 (l.filter fun p => p.2.dst != s.fabric.label)

/-- What a job does, with the walks ended that it meets, or that it waits: where for a walker, it joins the walk of its page (R227). -/
def jobStep (s : State) (c : Nat) (j : Job) (f : State → Act State) : State :=
  match lookUpState s j.view (.job j.id) f with
  | (_, .ok t) => t
  | (s, .error (.walk page)) => if (getBank s c j.view.bank).tenant = j.tenant then joinWalk s c j.view.bank page (some (.job j.id)) else s
  | (s, .error _) => s

/-- Every earlier job of the channel has begun (R231). -/
def channelTurn (s : State) (c : Nat) (j : Job) : Bool :=
  !((getCore s c).jobs.any fun i => i.kind == .copy && i.chan == j.chan && decide (i.id < j.id) && i.phase == .accepted)

/-- The queue that a job pops. -/
def srcQueue (s : State) (c : Nat) (j : Job) : List TileEntry :=
  sget (getTable s (tableOf c)).queues (cardSrc j.card).toNat []

/-- A job begins: it reads its sources, or pops its source entry (R234, R235). -/
def beginCopy (s : State) (c : Nat) (j : Job) : Act State :=
  let next : JobPhase := if cardQdst j.card then .pushing else .reading
  if cardQsrc j.card then
    match srcQueue s c j with
    | [] => stall
    | e :: l =>
      let s := modTable s (tableOf c) fun t => { t with queues := sset t.queues (cardSrc j.card).toNat l [] }
      if e.owner ≠ j.tenant then
        .ok (putJob (recordError s c j (jobError .ownerMismatch 0 0 0 (cardSuit j.card))) c { j with phase := .writing, stop := true })
      else if !cardCv j.card && e.fmt.toNat != cardDfmt j.card then
        .ok (putJob (recordError s c j (jobError .illegal 9 0 0 (cardSuit j.card))) c { j with phase := .writing, stop := true })
      else .ok (putJob s c { j with entry := some e, phase := next })
  else
    match if cardDc j.card then readBlocks s c j 0 j.src else .ok (readLocal s c j 0 j.src) with
    | .error e => .error e
    | .ok (s, j) =>
      (issuePackets s c j (readPackets s c j (remoteReads j))).map fun r => putJob r.1 c { r.2 with phase := next }

def execCopyJobBegin (core job : Nat) (s : State) : Out :=
  forCore core <|
    match getJob s core job with
    | none => s
    | some j =>
      if j.kind == .copy && j.phase == .accepted && mayBegin s core j (cardSuit j.card) && channelTurn s core j then
        jobStep s core j fun s => beginCopy s core j
      else s

/-! ### What is written (R234-R236) -/

/-- x / TSCALE, exact (R234). -/
def unscale (x t : Val) : Val :=
  match x with
  | .fin _ _ _ _ => vdiv x t
  | _ => x

/-- Conversion of an element of format `sf` under the card (R234). -/
def copyConvert (c : Card) (sf e idx : Nat) : Nat :=
  let m : RMode := ⟨cardRnd c, cardSat c, cardSeed c, idx, none⟩
  if cardTscale c = 0x3F800000 then (convert sf (cardDfmt c) m e).1
  else (roundTo (cardDfmt c) m (unscale (decode_ sf e) (decodeF 0 (cardTscale c)))).1

/-- Whether element `k` of row `i` is among the elements numbered in `l`: by itself, or by the word or the block that it is formed
from. -/
def amongElems (c : Card) (l : List Nat) (i k : Nat) : Bool :=
  if cardDc c then l.contains i || l.contains (wordNo i (k * fmtWidth (cardSfmt c) / 32)) else l.contains (i * cardVcols c + k)

/-- The source of cell (i, j): its bits and poison; none where its element could not be read. -/
def copyCell (j : Job) (i k : Nat) : Option (Nat × Bool) :=
  let c := j.card
  if cardVrows c ≤ i ∨ cardVcols c ≤ k then some (0, false)
  else
    match j.entry with
    | some e => if e.vrows.toNat ≤ i ∨ e.vcols.toNat ≤ k then some (0, false) else some (containerElem e i k, e.poison)
    | none =>
      let w := fmtWidth (cardSfmt c)
      if amongElems c j.lost i k then none
      else
        some (if cardDc c then elem (sget j.got i 0) w k else sget j.got (i * cardVcols c + k) 0, amongElems c j.pois i k)

/-- Whether the source of a cell lies outside the valid part: zero bits of DFMT are written. -/
def zeroFilled (j : Job) (i k : Nat) : Bool :=
  cardVrows j.card ≤ i || cardVcols j.card ≤ k ||
    match j.entry with
    | some e => e.vrows.toNat ≤ i || e.vcols.toNat ≤ k
    | none => false

/-- The bits for destination element (r, c). -/
def copyValue (j : Job) (r c : Nat) : Option (Nat × Bool) :=
  let (i, k) := if cardTr j.card then (c, r) else (r, c)
  if zeroFilled j i k then some (0, false)
  else
    (copyCell j i k).map fun (e, p) =>
      let sf := match j.entry with
        | some t => t.fmt.toNat
        | none => cardSfmt j.card
      let idx := (r * cardDcols j.card + c + cardDplane j.card * 2 ^ 28) % 2 ^ 32
      (if cardCv j.card then copyConvert j.card sf e idx else low (fmtWidth (cardDfmt j.card)) e, p)

/-! ### The queue side (R235) -/

/-- The cells `l` of the container that a job pushes join it. An element formed from poisoned data, and one whose source could not be
read, is a free value (R241, log 11). -/
def copyBytes (s : State) (j : Job) : List (Nat × Nat) → SMap Byte → State × SMap Byte
  | [], m => (s, m)
  | p :: l, m =>
    let f := cardDfmt j.card
    match copyValue j p.1 p.2 with
    | some (v, false) => copyBytes s j l (containerPut m f p.1 p.2 v)
    | _ =>
      let (v, s) := freeValue s (fmtWidth f)
      copyBytes s j l (containerPut m f p.1 p.2 v)

/-- The entry that a job pushes. -/
def copyEntry (s : State) (j : Job) : State × TileEntry :=
  let c := j.card
  let at_ := cells (cardDrows c) (cardDcols c)
  let (vr, vc) := if cardTr c then (cardVcols c, cardVrows c) else (cardVrows c, cardVcols c)
  let (s, bytes) := copyBytes s j at_ []
  (s, { owner := j.tenant
        job := 0
        seq := cardSeq c
        poison := at_.any fun p => (copyValue j p.1 p.2).any fun v => v.2
        vcols := BitVec.ofNat 8 vc
        vrows := BitVec.ofNat 8 vr
        fmt := BitVec.ofNat 4 (cardDfmt c)
        bytes := bytes })

def execCopyQueuePush (core job : Nat) (s : State) : Out :=
  forCore core <|
    match getJob s core job with
    | none => s
    | some j =>
      let q := (cardDst j.card).toNat
      if j.kind == .copy && j.phase == .pushing && j.quiet && tileRoom s (tableOf core) q then
        let (s, e) := copyEntry s j
        putJob (pushTile s (tableOf core) q e) core { j with phase := .writing }
      else s

/-- Sector `q` of block `k` on another node, as far as it has come. What a sector that could not be read is formed into is not
written, as where its storage has another owner (R241). -/
def cameSector (j : Job) (k q : Nat) : Act Nat :=
  let n := sectorNo k q
  let bad := fun code sub => .error (.fault code (blockAddr j.card k) 0 (cardSuit j.card) (faultInfo sub))
  if j.pois.contains n then bad .dataPoison 1
  else if j.lost.contains n then bad .ownerMismatch 0
  else match j.got.find? fun e => e.1 == n with
    | some e => .ok e.2
    | none => stall

/-- The payload sectors still to be asked for: those of each block whose header has come and passed its checks. -/
def payloadReads (j : Job) : List (Nat × Label × ElemReq) :=
  (numbered (fun k (p : Place) => (k, p)) 0 j.src).flatMap fun (k, p) =>
    match p.tgt, jobBlock j k (cameSector j k), cameSector j k 0 with
    | .node l off, .error .stall, .ok h => blockSectors k l off 1 (fld h 136 8 - 1)
    | _, _, _ => []

/-- The blocks of a decompressing copy whose sectors have come from a NODE side. -/
def joinBlocks (s : State) (c : Nat) (j : Job) : Nat → List Place → State × Job
  | _, [] => (s, j)
  | k, p :: l =>
    match p.tgt with
    | .node _ _ =>
      let (s, j) := takeBlock s c j k false (cameSector j k)
      joinBlocks s c j (k + 1) l
    | _ => joinBlocks s c j (k + 1) l

/-! ### Completion (R231) -/

/-- The writes of a job to storage, and those on a NODE side. -/
def copyPuts (j : Job) : List (Put ⊕ (Nat × Label × ElemReq)) :=
  let d := dstSide j.card
  let dc := cardDcols j.card
  (numbered (fun k (p : Place) => (k, p)) 0 j.dst).filterMap fun (k, p) =>
    (copyValue j (k / dc) (k % dc)).map fun (v, bad) =>
      match p.tgt with
      | .node l off => .inr (k, l, ⟨off, k % dc * d.width % 8, v, bad⟩)
      | _ => .inl ⟨p, (elemAddr (nth j.grans 1 none) d (k / dc) (k % dc)).1, v, bad⟩

def localPuts (l : List (Put ⊕ (Nat × Label × ElemReq))) : List Put :=
  l.filterMap fun x => match x with
    | .inl p => some p
    | .inr _ => none

def remotePuts (l : List (Put ⊕ (Nat × Label × ElemReq))) : List (Nat × Label × ElemReq) :=
  l.filterMap fun x => match x with
    | .inl _ => none
    | .inr p => some p

/-- The job writes its destination. -/
def writeCopy (s : State) (c : Nat) (j : Job) : Act (State × Job) :=
  let su := cardSuit j.card
  let l := if j.stop then [] else copyPuts j
  let s := writeAll s c j (cardDplane j.card) su (localPuts l)
  (issuePackets s c j (jobPackets s c j .store (cardDplane j.card) su (dstSide j.card).width (remotePuts l))).map fun r =>
    (r.1, { r.2 with phase := .writing })

/-- The generic address of offset 0 of a node's window. -/
def nodeBase (l : Label) : Word := w64 (3 * 2 ^ 62 + l.toNat * 2 ^ 40)

/-- A job that has nothing left to do completes and frees its slot. -/
def endCopy (s : State) (c : Nat) (j : Job) : State :=
  if j.phase == .writing && j.quiet then parkError (dropJob s c j) c j else s

def execCopyJobComplete (core job : Nat) (s : State) : Out :=
  forCore core <|
    match getJob s core job with
    | none => s
    | some j =>
      let more := if cardDc j.card then payloadReads j else []
      if j.kind == .copy && j.phase == .reading && j.quiet && !more.isEmpty then
        jobStep s core j fun s => (issuePackets s core j (readPackets s core j more)).map fun r => putJob r.1 core r.2
      else if j.kind == .copy && j.phase == .reading && j.quiet && j.dst.any (accBusy s) then s
      else if j.kind == .copy && j.phase == .reading && j.quiet then
        jobStep s core j fun s =>
          let (s, j) := if cardDc j.card then joinBlocks s core j 0 j.src else (s, j)
          (writeCopy s core j).map fun r => endCopy (putJob r.1 core r.2) core r.2
      else if j.kind == .copy then
        let (s, j) := sendJob s j []
        endCopy (putJob s core j) core j
      else s

/-! ### STO (R310) -/

/-- A header of a compressed block on node `n` is still to come, or its payload still to be asked for. -/
def Job.asksLater (j : Job) (n : Label) : Bool :=
  cardDc j.card && j.phase == .reading &&
    (j.sent.any (fun p => p.2.1 == n && p.1 == sectorNo ((p.1 - sectorNo 0 0) / 17) 0) ||
      (payloadReads j).any fun r => r.2.1 == n)

/-- Whether a job has an element on node `n` and has not sent it all its packets: its reads, where it reads there, and its writes,
where it writes there. -/
def Job.holdsSto (j : Job) (n : Label) : Bool :=
  j.nodes.contains n &&
    (j.phase == .accepted || (j.unsent.any fun p => p.2.dst == n) || j.asksLater n ||
      (j.phase != .writing && j.dst.any fun p => p.node == some n))

def stoEffect (t : BitVec 4) (r : BitVec 6) (base : BitVec 5) (p : BitVec 3) (su : BitVec 4) (s : State) : Act State :=
  let b := curBank s s.core
  match memAddr b base 8 with
  | .error e => .error e
  | .ok x =>
    match b.getASq r with
    | .error e => .error e
    | .ok (v, pops) =>
      if aperture x ≠ .node then .error (.fault .illegal x p su (faultInfo 9))
      else if (getCore s s.core).jobs.any (fun j => j.holdsSto (BitVec.ofNat 22 (fld x.toNat 40 22))) then stall
      else
        memEffect s t p su (locateAll s (ownView s) p su 8 false true false false [x]) { op := .sto, data := vecOf v, pops := pops }

def execASto (t : BitVec 4) (d : BitVec 6) (b : BitVec 5) (p : BitVec 3) (u : BitVec 4) (s : State) : Out :=
  issue (.aSto t d b p u) .a t true (stoEffect t d b p u) s

end Sys2Proof.Machine
end

