-- ==== Sys2Proof/Machine/Collective.lean ====
section
/-! DEFINITION. Collective jobs: A.COLL (R313, R316), the meeting of the partners (R315), the steps across the dimensions
(R81, R314) and completion. -/
namespace Sys2Proof.Machine

/-! ### The card (R313) -/

def collSrc (c : Card) : Word := c.extractLsb' 0 64
def collDst (c : Card) : Word := c.extractLsb' 64 64
def collTmp (c : Card) : Word := c.extractLsb' 128 64
def collCount (c : Card) : Nat := cardF c 192 32
def collDmask (c : Card) : Nat := cardF c 224 22
def collFmt (c : Card) : Nat := cardF c 248 4
def collOp (c : Card) : Nat := cardF c 252 3
def collPlane (c : Card) : Nat := cardF c 256 3
def collSuit (c : Card) : BitVec 4 := c.extractLsb' 259 4
def collTag (c : Card) : BitVec 16 := c.extractLsb' 272 16
def collGather (c : Card) : Bool := collOp c == 3
def collWidth (c : Card) : Nat := fmtWidth (collFmt c)

/-- The dimensions of the collective, ascending. -/
def collDims (c : Card) : List Nat := (tab (fun i => i) 0 22).filter fun d => bit (collDmask c) d

def collChecks (s : State) (c : Card) : List (Nat × Bool) :=
  let f := collFmt c
  let off := fun (x : Word) => aperture x == .node || x.toNat % (collWidth c / 8) != 0
  [(1, cardF c 504 8 != 1 || cardF c 246 2 != 0 || c.getLsbD 255 || cardF c 263 9 != 0 || cardF c 288 216 != 0),
   (2, 4 ≤ collOp c || !(f < 3 || (8 ≤ f && f ≤ 13))),
   (3, collCount c == 0 || 2 ^ 24 < collCount c || collDmask c == 0),
   (4, (collDims c).any fun d => !s.disc.ports.getLsbD d),
   (5, off (collSrc c) || off (collDst c) || off (collTmp c))]

/-- An area of the job as a side of one row. -/
def collSide (c : Card) (x : Word) (rd wr : Bool) : Side := ⟨x, 0, collPlane c, collWidth c, wr, rd⟩

/-- The elements of the result and of the receive area. -/
def collDstLen (c : Card) : Nat := if collGather c then collCount c * 2 ^ (collDims c).length else collCount c
def collTmpLen (c : Card) : Nat := if collGather c then collCount c * 2 ^ ((collDims c).length - 1) else collCount c

def collEffect (r : BitVec 5) (s : State) : Act State :=
  let v := viewOf s s.core (getCore s s.core).active
  match (curBank s s.core).useA r.toNat with
  | .error e => .error e
  | .ok y =>
    match readCard s y with
    | .error e => .error e
    | .ok c =>
      match cardChecks y (collChecks s c) with
      | .error e => .error e
      | .ok () =>
        if !slotFree s then stall
        else
          match resolveSide s v y (collSuit c) (collSide c (collSrc c) true false) (cells 1 (collCount c)),
              resolveSide s v y (collSuit c) (collSide c (collDst c) false true) (cells 1 (collDstLen c)),
              resolveSide s v y (collSuit c) (collSide c (collTmp c) true true) (cells 1 (collTmpLen c)) with
          | .error e, _, _ => .error e
          | .ok _, .error e, _ => .error e
          | .ok _, .ok _, .error e => .error e
          | .ok src, .ok dst, .ok tmp =>
            let grans := [src.gran, dst.gran, tmp.gran]
            let (src, dst, tmp) := (src.elems, dst.elems, tmp.elems)
            let keys := fun (l : List ElemAt) => l.map fun e => placeKey e.place
            let (id, s) := fresh s
            let s := if (src ++ dst ++ tmp).any fun e => e.clamped then modCore s s.core fun k => { k with cclamp := true } else s
            .ok (acceptJob s (newJob s id .coll 0 c src (dst ++ tmp) grans [] (keys (src ++ tmp)) (keys (dst ++ tmp))))

def execAColl (t : BitVec 4) (r : BitVec 5) (s : State) : Out := issue (.aColl t r) .a t false (collEffect r) s

/-! ### Ranks and partners (R314) -/

/-- The bits of a label at the dimensions, packed in order. -/
def rankOf (label : Nat) : List Nat → Nat
  | [] => 0
  | d :: l => b2n (bit label d) + 2 * rankOf label l

/-- The dimension and the partner of the job's current step. -/
def collPartner (s : State) (j : Job) : Option (Nat × Label) :=
  ((collDims j.card)[j.stepNo]?).map fun d => (d, BitVec.ofNat 22 (s.fabric.label.toNat ^^^ 2 ^ d))

/-- The first of the 2^j blocks that a rank holds before step j. -/
def heldBlocks (rank j : Nat) : Nat := rank / 2 ^ j * 2 ^ j

/-- Comb of R314: `l` comes from the lower label. -/
def combine2 (op f l u : Nat) : Nat :=
  let w := fmtWidth f
  if isFloat f then
    match op with
    | 0 => (fArith .add f .rne l u 0).1
    | 1 => fMinMax false f l u
    | _ => fMinMax true f l u
  else
    let less : Bool := if fmtSigned f then sx w l < sx w u else l < u
    match op with
    | 0 => low w (l + u)
    | 1 => if less then l else u
    | _ => if less then u else l

/-! ### Local reads and writes -/

/-- The address of element `i` of area `a` of the job: 0 SRC, 1 DST, 2 TMP. R314 has it at 'address + i × width'; in a position region
the addresses count positions, and an element takes those of one granule (DESIGN CHOICE, log 25). -/
def collAddr (j : Job) (a i : Nat) : Word :=
  let x := nth [collSrc j.card, collDst j.card, collTmp j.card] a 0
  (elemAddr (nth j.grans a none) (collSide j.card x true true) 0 i).1

/-- The writes of `n` elements to area `a` of the job from number `i0` on: `val` by index, those lost left out. -/
def collPuts (j : Job) (a i0 n : Nat) (val : Nat → Option (Nat × Bool)) : List Put :=
  let base := if a = 2 then collDstLen j.card else 0
  (tab (fun i => i) 0 n).filterMap fun i =>
    (val i).map fun (v, p) => ⟨nth j.dst (base + i0 + i) ⟨.mem 0 0, 0, 0⟩, collAddr j a (i0 + i), v, p⟩

/-- What the job holds at index `i`. -/
def Job.held (j : Job) (i : Nat) : Option (Nat × Bool) :=
  if j.lost.contains i then none else some (sget j.got i 0, j.pois.contains i)

/-- Read the elements of SRC, from number `k` on, into indexes from `base` on. -/
def readColl (s : State) (c : Nat) (j : Job) (base : Nat) : Nat → List Place → State × Job
  | _, [] => (s, j)
  | k, p :: l =>
    let addr := collAddr j 0 k
    let i := base + k
    let err := fun code sub d => recordError s c j (jobError code sub addr (collPlane j.card) (collSuit j.card) d)
    match readElem s j p with
    | .val v => readColl s c { j with got := sset j.got i v 0 } base (k + 1) l
    | .poison d => readColl (err .dataPoison 1 d) c { j with pois := j.pois ++ [i] } base (k + 1) l
    | .gone => readColl (err .ownerMismatch 0 0) c { j with lost := j.lost ++ [i] } base (k + 1) l

/-- Write blocks of DST: `n` elements from index `i` on. -/
def writeDst (s : State) (c : Nat) (j : Job) (i n : Nat) : State :=
  writeAll s c j (collPlane j.card) (collSuit j.card)
    (collPuts j 1 i n fun k => j.held (i + k))

/-! ### The steps (R314, R315) -/

/-- The packets that carry what the job holds to the partner's receive area. -/
def collPackets (s : State) (c : Nat) (j : Job) (q : Label) (tmp : Word) : List (Nat × Packet) :=
  let rank := rankOf s.fabric.label.toNat (collDims j.card)
  let (i, n) := if collGather j.card then (heldBlocks rank j.stepNo * collCount j.card, 2 ^ j.stepNo * collCount j.card)
    else (0, collCount j.card)
  let l := (tab (fun k => k) 0 n).filterMap fun k =>
    (j.held (i + k)).map fun (v, p) =>
      (k, q, (⟨BitVec.ofNat 40 (tmp.toNat + k * collWidth j.card / 8), 0, v, p⟩ : ElemReq))
  (jobPackets s c j .store (collPlane j.card) (collSuit j.card) (collWidth j.card) l).map fun (k, p) =>
    (k, { p with op := 0x73, opnd := tmp })

/-- Data goes out once both ready messages are. -/
def collSend (s : State) (c : Nat) (j : Job) : State × Job :=
  match j.partner, collPartner s j with
  | some m, some (_, q) => if j.mine && j.phase == .reading then sendJob s j (collPackets s c j q m.tmp) else (s, j)
  | _, _ => (s, j)

/-- The core's collective that runs: the first in acceptance order. -/
def firstColl (s : State) (c : Nat) : Option Job := (getCore s c).jobs.find? fun j => j.kind == .coll

/-- LINK of a collective: DETAIL holds the partner's label (R307, R315). -/
def collLink (j : Job) (sub : Nat) (q : Label) : FaultRec :=
  { jobError .link sub (nodeBase q) (collPlane j.card) (collSuit j.card) with info := faultInfo sub 0 0 q.toNat }

/-- The partner's ready message: remembered, or a mismatch (R315). -/
def execCollReadyMessage (core : Nat) (msg : ReadyMsg) (s : State) : Out :=
  forCore core <|
    let s := heardOf s msg.src
    match (getCore s core).jobs.find? fun j => j.kind == .coll && collTag j.card == msg.tag with
    | none => s
    | some j =>
      match collPartner s j with
      | none => s
      | some (_, q) =>
        if q ≠ msg.src ∨ j.partner.isSome ∨ j.stop then s
        else if msg.op.toNat ≠ collOp j.card ∨ msg.fmt.toNat ≠ collFmt j.card ∨ msg.count.toNat ≠ collCount j.card ∨
            msg.stepNo ≠ j.stepNo then
          putJob (recordError s core j (collLink j 2 q)) core { j with stop := true }
        else
          let (s, j) := collSend s core { j with partner := some msg }
          putJob s core j

/-- Element `i` of received bytes. -/
def dataElem (data : List Byte) (w i : Nat) : Nat := ofBytes ((data.drop (i * w / 8)).take (w / 8))

/-- What the step makes of element `i`, which the job holds, and the received one. -/
def stepElem (c : Card) (lower : Bool) (m : SMap Nat) (u i : Nat) : SMap Nat :=
  let v := sget m i 0
  sset m i (if lower then combine2 (collOp c) (collFmt c) v u else combine2 (collOp c) (collFmt c) u v) 0

/-- What the step makes of what the job holds and what it received; what is formed from a poisoned element is poisoned
(R241). -/
def combineStep (s : State) (j : Job) (q : Label) (data : List Byte) (pois : List Nat) : Job :=
  let w := collWidth j.card
  let n := collCount j.card
  let ids := fun k => tab (fun i => i) 0 k
  if collGather j.card then
    let from_ := heldBlocks (rankOf q.toNat (collDims j.card)) j.stepNo * n
    { j with got := (ids (2 ^ j.stepNo * n)).foldl (fun m i => sset m (from_ + i) (dataElem data w i) 0) j.got
             pois := (j.pois ++ pois.map fun i => from_ + i).eraseDups }
  else
    let lower : Bool := s.fabric.label.toNat < q.toNat
    { j with got := (ids n).foldl (fun m i => stepElem j.card lower m (dataElem data w i) i) j.got
             pois := (j.pois ++ pois).eraseDups }

/-- The partner's data arrives, with the numbers of its poisoned elements: it goes to TMP, the step is combined, and the next
one is announced. -/
def execCollectiveStep (core : Nat) (data : CollData) (s : State) : Out :=
  forCore core <|
    match firstColl s core with
    | none => s
    | some j =>
      match collPartner s j with
      | none => s
      | some (_, q) =>
        let n := if collGather j.card then 2 ^ j.stepNo * collCount j.card else collCount j.card
        if j.stop || j.phase != .reading || j.partner.isNone || !j.mine || data.bytes.length != n * collWidth j.card / 8 || j.dst.any (accBusy s) then s
        else
          let s := writeAll (heardOf s q) core j (collPlane j.card) (collSuit j.card)
            (collPuts j 2 0 n fun i => some (dataElem data.bytes (collWidth j.card) i, data.pois.contains i))
          let j' := combineStep s j q data.bytes data.pois
          let s := if collGather j.card then
              writeDst s core j' (heldBlocks (rankOf q.toNat (collDims j.card)) j.stepNo * collCount j.card) n
            else s
          putJob s core { j' with stepNo := j.stepNo + 1, partner := none }

/-! ### Beginning and completion (R315) -/

/-- The job begins: it takes its own elements, and its ready message goes out. -/
def beginColl (s : State) (c : Nat) (j : Job) : State :=
  let base := if collGather j.card then rankOf s.fabric.label.toNat (collDims j.card) * collCount j.card else 0
  let (s, j) := readColl s c j base 0 j.src
  let j := { j with phase := .reading, mine := true }
  let s := if collGather j.card then writeDst s c j base (collCount j.card) else s
  let (s, j) := collSend s c j
  putJob s c j

/-- A job that runs goes on: it stops, finds its partner unreachable because the port is down, or has its result. -/
def advanceColl (s : State) (c : Nat) (j : Job) : State × Job :=
  match collPartner s j with
  | none =>
    (if collGather j.card || j.stop then s else writeDst s c j 0 (collCount j.card), { j with phase := .writing })
  | some (d, q) =>
    if j.stop then (s, { j with phase := .writing })
    else if (getPort s d).st = 0 then (recordError s c j (collLink j 1 q), { j with phase := .writing, stop := true })
    else (s, j)

/-- A collective with nothing left to do completes. -/
def endColl (s : State) (c : Nat) (j : Job) : State :=
  let (s, j) := sendJob s j []
  if j.phase == .writing && j.quiet then parkError (dropJob s c j) c j else putJob s c j

def execCollectiveComplete (core : Nat) (s : State) : Out :=
  forCore core <|
    match firstColl s core with
    | none => s
    | some j =>
      if j.dst.any (accBusy s) then s
      else
        match j.phase with
        | .accepted =>
          if j.stop then parkError (dropJob s core j) core j
          else if mayBegin s core j (collSuit j.card) then beginColl s core j else s
        | .reading =>
          let (s, j) := advanceColl s core j
          endColl s core j
        | _ => endColl s core { j with phase := .writing }

end Sys2Proof.Machine
end

