-- ==== Sys2Proof/Machine/Control.lean ====
section
/-! DEFINITION. The shared words but ROUND (R130-R140), the KX prefix (R48), and a word that fails its decode (R55). -/
namespace Sys2Proof.Machine

/-! ### Branch targets (R131) -/

/-- The target of a branch: the offset of the branch word itself plus 4 × OFF. -/
def branchTarget (b : Bank) (e : Engine) (off n : Nat) : Word := b.wordPc e + 4 * combine off n (b.kxOf e)

/-- Whether a target lies in the text. -/
def Bank.inText (b : Bank) (t : Word) : Bool := t.toNat < b.textEnd

def execNop (s : State) : Out := issue .nop s.engine 0 false (fun s => .ok s) s

def execB (f : BitVec 18) (s : State) : Out :=
  let e := s.engine
  issueTo (.b f) e 0 false
    (fun s =>
      let b := curBank s s.core
      let t := branchTarget b e f.toNat 18
      if b.inText t then .ok (s, some t) else badValue) s

/-- ILLEGAL/STACK (R113). -/
def badStack {α : Type} : Act α := illegal 0x0D

def Bank.setStack (b : Bank) (e : Engine) (l : List Word) : Bank :=
  { b with issue := { b.issue with rstk := b.issue.rstk.set l e } }

def execCall (f : BitVec 18) (s : State) : Out :=
  let e := s.engine
  issueTo (.call f) e 0 false
    (fun s =>
      let b := curBank s s.core
      let t := branchTarget b e f.toNat 18
      let l := b.issue.rstk.get e
      if !b.inText t then badValue
      else if 16 ≤ l.length then badStack
      else .ok (modCur s s.core fun b => b.setStack e ((b.wordPc e + 4) :: l), some t)) s

def execRet (s : State) : Out :=
  let e := s.engine
  issueTo .ret e 0 false
    (fun s =>
      match (curBank s s.core).issue.rstk.get e with
      | [] => badStack
      | t :: l => .ok (modCur s s.core fun b => b.setStack e l, some t)) s

/-! ### Outcomes (R112) -/

/-- The outcome queue from `e` to `f`. -/
def oqKey (e f : Engine) : Nat :=
  match e, f with
  | .a, .x => 0
  | .a, _ => 1
  | .x, .a => 2
  | .x, _ => 3
  | .m, .a => 4
  | .m, _ => 5

/-- The two other engines. -/
def othersOf : Engine → Engine × Engine
  | .a => (.x, .m)
  | .x => (.a, .m)
  | .m => (.a, .x)

def Bank.oq (b : Bank) (k : Nat) : List (BitVec 32) := sget b.issue.oqs k []

def Bank.setOq (b : Bank) (k : Nat) (l : List (BitVec 32)) : Bank :=
  { b with issue := { b.issue with oqs := sset b.issue.oqs k l [] } }

/-- Both outcome queues of an evaluating engine have a free entry. -/
def Bank.oqRoom (b : Bank) (e : Engine) : Bool :=
  (b.oq (oqKey e (othersOf e).1)).length < 32 && (b.oq (oqKey e (othersOf e).2)).length < 32

/-- Push an outcome to both other engines. -/
def Bank.pushOutcome (b : Bank) (e : Engine) (v : BitVec 32) : Bank :=
  let b := b.setOq (oqKey e (othersOf e).1) (b.oq (oqKey e (othersOf e).1) ++ [v])
  b.setOq (oqKey e (othersOf e).2) (b.oq (oqKey e (othersOf e).2) ++ [v])

/-- The outcome of an outcome-bearing word on engine `me`: evaluated by `value` and pushed on engine `ev`, popped on
another. -/
def outcome (b : Bank) (ev me : Engine) (value : Act (BitVec 32)) : Act (BitVec 32 × Bank) :=
  if ev = me then
    if b.oqRoom ev then value.map fun v => (v, b.pushOutcome ev v) else stall
  else
    match b.oq (oqKey ev me) with
    | v :: l => .ok (v, b.setOq (oqKey ev me) l)
    | [] => stall

/-- The conditions of BC (R47, R132). -/
def branchCond (c : BitVec 3) (v : Word) : Bool :=
  match c.toNat with
  | 0 => v == 0
  | 1 => v != 0
  | 2 => v.toInt < 0
  | 3 => 0 ≤ v.toInt
  | 4 => 0 < v.toInt
  | _ => v.toInt ≤ 0

def execBc (g : BitVec 2) (c : BitVec 3) (r : BitVec 6) (f : BitVec 7) (s : State) : Out :=
  let me := s.engine
  let ev := (engineOf g).getD .a
  issueTo (.bc g c r f) me 0 false
    (fun s =>
      let b := curBank s s.core
      let t := branchTarget b me f.toNat 7
      let value : Act (BitVec 32) :=
        match b.useReg ev r.toNat with
        | .error x => .error x
        | .ok v => if branchCond c v then (if b.inText t then .ok 1 else badValue) else .ok 0
      match outcome b ev me value with
      | .error x => .error x
      | .ok (v, b1) => .ok (modCur s s.core fun _ => b1, if v = 0 then none else some t)) s

def execBi (g : BitVec 2) (r : BitVec 6) (s : State) : Out :=
  let me := s.engine
  let ev := (engineOf g).getD .a
  issueTo (.bi g r) me 0 false
    (fun s =>
      let b := curBank s s.core
      let value : Act (BitVec 32) :=
        match b.useReg ev r.toNat with
        | .error x => .error x
        | .ok v => if 4 * v.toNat < b.textEnd then .ok (v.setWidth 32) else badValue
      match outcome b ev me value with
      | .error x => .error x
      | .ok (v, b1) => .ok (modCur s s.core fun _ => b1, some (w64 (4 * v.toNat)))) s

/-! ### Hardware loops (R28, R114, R135) -/

/-- ILLEGAL/NEST. -/
def badNest {α : Type} : Act α := illegal 0x0A

def Bank.levels (b : Bank) : List Level :=
  match b.kern with
  | some k => k.levels
  | none => []

def levelAt (b : Bank) (l : Nat) : Option Level := b.levels[l]?

def isTemporal (v : Level) : Bool := v.kind == .temporal

/-- POS of the innermost loop active on an engine. -/
def innermost (b : Bank) (e : Engine) : Option Nat :=
  (List.zip (tab (fun i => i) 0 16) b.levels).foldl (fun m p =>
    if (loopOf b.issue e p.1).active then some (max p.2.pos.toNat (m.getD 0)) else m) none

/-- NestAllows (R28). -/
def nestAllows (b : Bank) (e : Engine) (v : Level) : Bool :=
  match innermost b e with
  | some p => p + 1 == v.pos.toNat
  | none => b.levels.all fun u => !isTemporal u || v.pos.toNat ≤ u.pos.toNat

/-- Whether a word is an ENDL that names level `l` (R135). -/
def isEndl (l : BitVec 4) (w : BitVec 32) : Bool := tagOf w == 3 && opOf w == 8 && w.extractLsb' 14 4 == l

/-- The offset of the first ENDL for `l` among the `n` words from `off` on. A word whose page is gone faults at its own
text address (R110). -/
def findEndl (s : State) (l : BitVec 4) : Nat → Word → Act (Option Word)
  | 0, _ => .ok none
  | n + 1, off =>
    match liftX (textAddr s off) 0 0 (fetchWord s off) with
    | .error x => .error x
    | .ok w => if isEndl l w then .ok (some off) else findEndl s l n (off + 4)

/-- The trip count of a level, sent as an outcome when a register gives it (R25, R112). -/
def tripCount (b : Bank) (me : Engine) (v : Level) : Act (BitVec 32 × Bank) :=
  match v.trip with
  | .fixed n => .ok (BitVec.ofNat 32 n, b)
  | .reg ev r => outcome b ev me ((b.useReg ev r.toNat).map fun w => w.setWidth 32)

/-- An engine that does not evaluate the trip count acts on LOOP once the outcome is there: a fault is the evaluating
engine's (R111). -/
def loopWaits (b : Bank) (me : Engine) (v : Level) : Bool :=
  match v.trip with
  | .fixed _ => false
  | .reg ev _ => ev != me && (b.oq (oqKey ev me)).isEmpty

def Bank.putLoop (b : Bank) (e : Engine) (l : Nat) (v : LoopState) : Bank := { b with issue := b.issue.setLoop e l v }

def execLoop (l : BitVec 4) (s : State) : Out :=
  let e := s.engine
  issueTo (.loop l) e 0 false
    (fun s =>
      let b := curBank s s.core
      match levelAt b l.toNat with
      | none => badNest
      | some v =>
        if loopWaits b e v then stall
        else if !isTemporal v || !nestAllows b e v then badNest
        else
          match tripCount b e v with
          | .error x => .error x
          | .ok (t, b1) =>
            let next := b.wordPc e + 4
            let old := loopOf b1.issue e l.toNat
            if t = 0 then
              match findEndl s l ((b.textEnd - next.toNat) / 4) next with
              | .error x => .error x
              | .ok none => badNest
              | .ok (some p) =>
                .ok (modCur s s.core fun _ => b1.putLoop e l.toNat { old with lc := 0 }, some (p + 4))
            else .ok (modCur s s.core fun _ => b1.putLoop e l.toNat ⟨0, t, next, true⟩, none)) s

def execEndl (l : BitVec 4) (s : State) : Out :=
  let e := s.engine
  issueTo (.endl l) e 0 false
    (fun s =>
      let b := curBank s s.core
      let v := loopOf b.issue e l.toNat
      match levelAt b l.toNat with
      | none => badNest
      | some u =>
        if !v.active || innermost b e != some u.pos.toNat then badNest
        else
          let v1 := { v with lc := v.lc + 1 }
          if v1.lc.toNat < v.trip.toNat then .ok (modCur s s.core fun b => b.putLoop e l.toNat v1, some v.body)
          else .ok (modCur s s.core fun b => b.putLoop e l.toNat { v1 with active := false }, none)) s

/-! ### Joining words (R137-R140) -/

/-- EXIT: no engine fetches again; loops and return stacks go. The rest of R368 is EXIT_COMPLETE. -/
def Bank.toExit (b : Bank) : Bank :=
  { b with exiting := true, issue := { b.issue with loops := Three.all [], rstk := Three.all [] } }

def execExit (s : State) : Out := join .exit (fun s => .ok (modCur s s.core Bank.toExit)) s

def execTrap (c : BitVec 16) (s : State) : Out :=
  join (.trap c) (fun _ => plainFault .trapped (faultInfo 0 0 c.toNat)) s

/-- The record of the fault that the handler runs for: a service fault inside it overwrites FAULT (R350); of a context that
was restored, what its FAULT images hold. -/
def Bank.trapFault (b : Bank) : FaultRec := b.trapRec.getD b.fault

/-- The engines that RESUME makes pass their faulting word without effect (R127). -/
def skipEngines (b : Bank) : Three Bool :=
  let f := b.trapFault
  let on := b.trapSkip && !f.info.getLsbD 63 && f.code != FaultCode.trapped.num
  let one := fun e => on && b.rpc.get e == f.pc && (f.engine == 3 || f.engine == e.tag)
  ⟨one .a, one .x, one .m⟩

/-- A word that an engine had to pass when the handler was entered is passed now if the engine goes back to it (log 30). -/
def resumeSkips (b : Bank) : Three Bool :=
  let one := fun e => (skipEngines b).get e || b.owed.get e == some (b.rpc.get e)
  ⟨one .a, one .x, one .m⟩

/-- An access that the handler issued pushes nothing into the issue state that comes back, and removes nothing from it (R127). -/
def orphan (x : Access) : Access :=
  { x with push := 0, pops := [], dest := match x.dest with
    | .queue _ _ => .none
    | d => d }

/-- RESUME of R127. What walks delivered to the handler's words goes with its step counts. -/
def Bank.resume (b : Bank) : Bank :=
  { b with
    skip := resumeSkips b
    owed := Three.all none
    issue := b.shadow
    shadow := Issue.zero
    trapActive := false
    trapRec := none
    pc := b.rpc
    kx := Three.all none
    inflight := b.inflight.map orphan
    walked := b.walked.filter fun r => match r.to_ with
      | .access _ => true
      | _ => false }

def execResume (s : State) : Out :=
  join .resume
    (fun s => if (curBank s s.core).trapActive then .ok (modCur s s.core Bank.resume) else badValue) s

def execHalt (s : State) : Out :=
  join .halt
    (fun s => .ok (switchBank (modCur s s.core fun b => { b.passAll with st := .halted }) s.core)) s

/-- ERET: bank 1 answers bank 0's service fault with RETRY (R352, R353). -/
def execEret (s : State) : Out :=
  join .eret
    (fun s =>
      let k := getCore s s.core
      if !k.active || !k.bank0.svcWaits then badValue
      else
        let s := modBank s s.core true Bank.passAll
        if k.bank0.st = .stopped then .ok (modBank s s.core false Bank.clearSvc)
        else .ok (makeRunnable s s.core false)) s

/-! ### KX (R48) -/

/-- The engine acts on a KX: its payload waits for the next word. -/
def execKx (e : BitVec 2) (p : BitVec 22) (s : State) : Out :=
  let g := s.engine
  let b := curBank s s.core
  if !canIssue (getCore s s.core) b g then .next (stay s g)
  else if (b.kxOf g).isSome then finish s g (.kx e p) (plainFault .illegal (faultInfo 4 0xFF))
  else .next (modCur s s.core fun b => { b with kx := b.kx.set (some p) g })

/-! ### A word that fails its decode (R55) -/

/-- The word at an offset, if it lies in the text and can be read. -/
def peekWord (s : State) (off : Word) : Option (BitVec 32) :=
  if off.toNat < (curBank s s.core).textEnd then
    match fetchWord s off with
    | .ok w => some w
    | .error _ => none
  else none

/-- Field D of the word that an engine cannot decode, and whether a KX stands before it: what comes after that KX is passed with it, a word
of another tag, a further KX and the end of the text included (DESIGN CHOICE, log 42). -/
def skippedWord (s : State) (e : Engine) : BitVec 4 × Bool :=
  let pc := (curBank s s.core).pcOf e
  match peekWord s pc with
  | none => (0, false)
  | some w =>
    match if isKx w then peekWord s (pc + 4) else some w with
    | some n => (if tagOf n = e.tag then dep n else 0, isKx w)
    | none => (0, isKx w)

/-- Pass an undecodable word without effect: RESUME with SKIP (R127). Field D of the word and the slip limit govern. A fault at the end of
the text is passed like one of a word there (DESIGN CHOICE, log 42). -/
def skipWord (s : State) (e : Engine) : Act State :=
  let (d, pair) := skippedWord s e
  passOver (if pair then modCur s s.core fun b => { b with kx := b.kx.set (some 0) e } else s) e d

/-- ILLEGAL with the subcode and the field that the decode found, raised by the first engine that reaches the word (DESIGN CHOICE,
log 42). -/
def execReservedOpcode (sub fbit : BitVec 8) (s : State) : Out :=
  let e := s.engine
  let b := curBank s s.core
  if !canIssue (getCore s s.core) b e then .next (stay s e)
  else if b.skip.get e then finish s e (.reservedOpcode sub fbit) (skipWord s e)
  else
    let shared := match peekWord s (b.pcOf e) with
      | some w => tagOf w == 3
      | none => false
    let pc := b.pcOf e
    let fr : FaultRec :=
      ⟨FaultCode.illegal.num, if shared then 3 else e.tag, pc, 0, 0, 0, faultInfo sub.toNat fbit.toNat⟩
    .next (raiseFault s s.core fr (if shared then some pc else none))

end Sys2Proof.Machine
end

