-- ==== Sys2Proof/Machine/Scalar.lean ====
section
/-! DEFINITION. The scalar integer words of A and X (R147-R149), the engines' NOPs (R129), and the step over another
engine's word (R41). -/
namespace Sys2Proof.Machine

/-! ### Results (R147) -/

/-- Bits [127:64] of the signed product. -/
def mulHigh (x y : Word) : Word := (x.signExtend 128 * y.signExtend 128).extractLsb' 64 64

/-- Bits [127:64] of the unsigned product. -/
def mulHighU (x y : Word) : Word := (x.setWidth 128 * y.setWidth 128).extractLsb' 64 64

/-- 1 if the condition holds, else 0. -/
def truth (p : Bool) : Word := if p then 1 else 0

/-! ### Forms -/

/-- Register-register on A: both sources are read before the result is written (R144). -/
def aluA (d a b : BitVec 6) (f : Word → Word → Word) (k : Bank) : Act Bank :=
  match k.useA a.toNat, k.useA b.toNat with
  | .ok x, .ok y => k.putA d (f x y)
  | _, _ => stall

/-- Register-immediate on A; `f` also takes the KX payload. -/
def aluAI (d a : BitVec 6) (f : Option (BitVec 22) → Word → Word) (k : Bank) : Act Bank :=
  match k.useA a.toNat with
  | .ok x => k.putA d (f (k.kxOf .a) x)
  | .error e => .error e

/-- Register-register on X: pops are made in field order, A then B (R44). -/
def aluX (d a b : BitVec 6) (f : Word → Word → Word) (k : Bank) : Act Bank :=
  match k.getS a with
  | .error e => .error e
  | .ok (x, k1) =>
    match k1.getS b with
    | .error e => .error e
    | .ok (y, k2) => k2.putS d (f x y)

/-- Register-immediate on X. -/
def aluXI (d a : BitVec 6) (f : Option (BitVec 22) → Word → Word) (k : Bank) : Act Bank :=
  match k.getS a with
  | .error e => .error e
  | .ok (x, k1) => k1.putS d (f (k.kxOf .x) x)

/-- LIHI: the upper half of a register replaced (R149). -/
def upperHalf (old : Word) (i : BitVec 12) (kx : Option (BitVec 22)) : Word :=
  (combine i.toNat 12 kx).setWidth 32 ++ old.setWidth 32

/-! ### A: register-register (R147) -/

def execAAdd (t : BitVec 4) (d a b : BitVec 6) (s : State) : Out :=
  issue (.aAdd t d a b) .a t false (onBank (aluA d a b fun x y => x + y)) s

def execASub (t : BitVec 4) (d a b : BitVec 6) (s : State) : Out :=
  issue (.aSub t d a b) .a t false (onBank (aluA d a b fun x y => x - y)) s

def execAAnd (t : BitVec 4) (d a b : BitVec 6) (s : State) : Out :=
  issue (.aAnd t d a b) .a t false (onBank (aluA d a b fun x y => x &&& y)) s

def execAOr (t : BitVec 4) (d a b : BitVec 6) (s : State) : Out :=
  issue (.aOr t d a b) .a t false (onBank (aluA d a b fun x y => x ||| y)) s

def execAXor (t : BitVec 4) (d a b : BitVec 6) (s : State) : Out :=
  issue (.aXor t d a b) .a t false (onBank (aluA d a b fun x y => x ^^^ y)) s

def execAAndn (t : BitVec 4) (d a b : BitVec 6) (s : State) : Out :=
  issue (.aAndn t d a b) .a t false (onBank (aluA d a b fun x y => x &&& ~~~y)) s

def execAShl (t : BitVec 4) (d a b : BitVec 6) (s : State) : Out :=
  issue (.aShl t d a b) .a t false (onBank (aluA d a b fun x y => x <<< (y.toNat % 64))) s

def execAShr (t : BitVec 4) (d a b : BitVec 6) (s : State) : Out :=
  issue (.aShr t d a b) .a t false (onBank (aluA d a b fun x y => x >>> (y.toNat % 64))) s

def execASar (t : BitVec 4) (d a b : BitVec 6) (s : State) : Out :=
  issue (.aSar t d a b) .a t false (onBank (aluA d a b fun x y => x.sshiftRight (y.toNat % 64))) s

def execAMul (t : BitVec 4) (d a b : BitVec 6) (s : State) : Out :=
  issue (.aMul t d a b) .a t false (onBank (aluA d a b fun x y => x * y)) s

def execAMulh (t : BitVec 4) (d a b : BitVec 6) (s : State) : Out :=
  issue (.aMulh t d a b) .a t false (onBank (aluA d a b fun x y => mulHigh x y)) s

def execAMulhu (t : BitVec 4) (d a b : BitVec 6) (s : State) : Out :=
  issue (.aMulhu t d a b) .a t false (onBank (aluA d a b fun x y => mulHighU x y)) s

def execAMin (t : BitVec 4) (d a b : BitVec 6) (s : State) : Out :=
  issue (.aMin t d a b) .a t false (onBank (aluA d a b fun x y => if x.slt y then x else y)) s

def execAMax (t : BitVec 4) (d a b : BitVec 6) (s : State) : Out :=
  issue (.aMax t d a b) .a t false (onBank (aluA d a b fun x y => if x.slt y then y else x)) s

def execAMinu (t : BitVec 4) (d a b : BitVec 6) (s : State) : Out :=
  issue (.aMinu t d a b) .a t false (onBank (aluA d a b fun x y => if x < y then x else y)) s

def execAMaxu (t : BitVec 4) (d a b : BitVec 6) (s : State) : Out :=
  issue (.aMaxu t d a b) .a t false (onBank (aluA d a b fun x y => if x < y then y else x)) s

def execASlt (t : BitVec 4) (d a b : BitVec 6) (s : State) : Out :=
  issue (.aSlt t d a b) .a t false (onBank (aluA d a b fun x y => truth (x.slt y))) s

def execASltu (t : BitVec 4) (d a b : BitVec 6) (s : State) : Out :=
  issue (.aSltu t d a b) .a t false (onBank (aluA d a b fun x y => truth (x < y))) s

def execASeq (t : BitVec 4) (d a b : BitVec 6) (s : State) : Out :=
  issue (.aSeq t d a b) .a t false (onBank (aluA d a b fun x y => truth (x == y))) s

/-! ### A: register-immediate (R148) -/

def execAAddi (t : BitVec 4) (d a i : BitVec 6) (s : State) : Out :=
  issue (.aAddi t d a i) .a t false (onBank (aluAI d a fun kx x => x + combine i.toNat 6 kx)) s

def execAAndi (t : BitVec 4) (d a i : BitVec 6) (s : State) : Out :=
  issue (.aAndi t d a i) .a t false (onBank (aluAI d a fun kx x => x &&& combine i.toNat 6 kx)) s

def execAOri (t : BitVec 4) (d a i : BitVec 6) (s : State) : Out :=
  issue (.aOri t d a i) .a t false (onBank (aluAI d a fun kx x => x ||| combine i.toNat 6 kx)) s

def execAXori (t : BitVec 4) (d a i : BitVec 6) (s : State) : Out :=
  issue (.aXori t d a i) .a t false (onBank (aluAI d a fun kx x => x ^^^ combine i.toNat 6 kx)) s

def execAShli (t : BitVec 4) (d a i : BitVec 6) (s : State) : Out :=
  issue (.aShli t d a i) .a t false (onBank (aluAI d a fun _ x => x <<< i.toNat)) s

def execAShri (t : BitVec 4) (d a i : BitVec 6) (s : State) : Out :=
  issue (.aShri t d a i) .a t false (onBank (aluAI d a fun _ x => x >>> i.toNat)) s

def execASari (t : BitVec 4) (d a i : BitVec 6) (s : State) : Out :=
  issue (.aSari t d a i) .a t false (onBank (aluAI d a fun _ x => x.sshiftRight i.toNat)) s

/-! ### X: register-register (R147) -/

def execXAdd (t : BitVec 4) (d a b : BitVec 6) (s : State) : Out :=
  issue (.xAdd t d a b) .x t false (onBank (aluX d a b fun x y => x + y)) s

def execXSub (t : BitVec 4) (d a b : BitVec 6) (s : State) : Out :=
  issue (.xSub t d a b) .x t false (onBank (aluX d a b fun x y => x - y)) s

def execXAnd (t : BitVec 4) (d a b : BitVec 6) (s : State) : Out :=
  issue (.xAnd t d a b) .x t false (onBank (aluX d a b fun x y => x &&& y)) s

def execXOr (t : BitVec 4) (d a b : BitVec 6) (s : State) : Out :=
  issue (.xOr t d a b) .x t false (onBank (aluX d a b fun x y => x ||| y)) s

def execXXor (t : BitVec 4) (d a b : BitVec 6) (s : State) : Out :=
  issue (.xXor t d a b) .x t false (onBank (aluX d a b fun x y => x ^^^ y)) s

def execXAndn (t : BitVec 4) (d a b : BitVec 6) (s : State) : Out :=
  issue (.xAndn t d a b) .x t false (onBank (aluX d a b fun x y => x &&& ~~~y)) s

def execXShl (t : BitVec 4) (d a b : BitVec 6) (s : State) : Out :=
  issue (.xShl t d a b) .x t false (onBank (aluX d a b fun x y => x <<< (y.toNat % 64))) s

def execXShr (t : BitVec 4) (d a b : BitVec 6) (s : State) : Out :=
  issue (.xShr t d a b) .x t false (onBank (aluX d a b fun x y => x >>> (y.toNat % 64))) s

def execXSar (t : BitVec 4) (d a b : BitVec 6) (s : State) : Out :=
  issue (.xSar t d a b) .x t false (onBank (aluX d a b fun x y => x.sshiftRight (y.toNat % 64))) s

def execXMul (t : BitVec 4) (d a b : BitVec 6) (s : State) : Out :=
  issue (.xMul t d a b) .x t false (onBank (aluX d a b fun x y => x * y)) s

def execXMulh (t : BitVec 4) (d a b : BitVec 6) (s : State) : Out :=
  issue (.xMulh t d a b) .x t false (onBank (aluX d a b fun x y => mulHigh x y)) s

def execXMulhu (t : BitVec 4) (d a b : BitVec 6) (s : State) : Out :=
  issue (.xMulhu t d a b) .x t false (onBank (aluX d a b fun x y => mulHighU x y)) s

def execXMin (t : BitVec 4) (d a b : BitVec 6) (s : State) : Out :=
  issue (.xMin t d a b) .x t false (onBank (aluX d a b fun x y => if x.slt y then x else y)) s

def execXMax (t : BitVec 4) (d a b : BitVec 6) (s : State) : Out :=
  issue (.xMax t d a b) .x t false (onBank (aluX d a b fun x y => if x.slt y then y else x)) s

def execXMinu (t : BitVec 4) (d a b : BitVec 6) (s : State) : Out :=
  issue (.xMinu t d a b) .x t false (onBank (aluX d a b fun x y => if x < y then x else y)) s

def execXMaxu (t : BitVec 4) (d a b : BitVec 6) (s : State) : Out :=
  issue (.xMaxu t d a b) .x t false (onBank (aluX d a b fun x y => if x < y then y else x)) s

def execXSlt (t : BitVec 4) (d a b : BitVec 6) (s : State) : Out :=
  issue (.xSlt t d a b) .x t false (onBank (aluX d a b fun x y => truth (x.slt y))) s

def execXSltu (t : BitVec 4) (d a b : BitVec 6) (s : State) : Out :=
  issue (.xSltu t d a b) .x t false (onBank (aluX d a b fun x y => truth (x < y))) s

def execXSeq (t : BitVec 4) (d a b : BitVec 6) (s : State) : Out :=
  issue (.xSeq t d a b) .x t false (onBank (aluX d a b fun x y => truth (x == y))) s

/-! ### X: register-immediate (R148) -/

def execXAddi (t : BitVec 4) (d a i : BitVec 6) (s : State) : Out :=
  issue (.xAddi t d a i) .x t false (onBank (aluXI d a fun kx x => x + combine i.toNat 6 kx)) s

def execXAndi (t : BitVec 4) (d a i : BitVec 6) (s : State) : Out :=
  issue (.xAndi t d a i) .x t false (onBank (aluXI d a fun kx x => x &&& combine i.toNat 6 kx)) s

def execXOri (t : BitVec 4) (d a i : BitVec 6) (s : State) : Out :=
  issue (.xOri t d a i) .x t false (onBank (aluXI d a fun kx x => x ||| combine i.toNat 6 kx)) s

def execXXori (t : BitVec 4) (d a i : BitVec 6) (s : State) : Out :=
  issue (.xXori t d a i) .x t false (onBank (aluXI d a fun kx x => x ^^^ combine i.toNat 6 kx)) s

def execXShli (t : BitVec 4) (d a i : BitVec 6) (s : State) : Out :=
  issue (.xShli t d a i) .x t false (onBank (aluXI d a fun _ x => x <<< i.toNat)) s

def execXShri (t : BitVec 4) (d a i : BitVec 6) (s : State) : Out :=
  issue (.xShri t d a i) .x t false (onBank (aluXI d a fun _ x => x >>> i.toNat)) s

def execXSari (t : BitVec 4) (d a i : BitVec 6) (s : State) : Out :=
  issue (.xSari t d a i) .x t false (onBank (aluXI d a fun _ x => x.sshiftRight i.toNat)) s

/-! ### Immediates (R149) -/

def execALi (t : BitVec 4) (d : BitVec 6) (i : BitVec 12) (s : State) : Out :=
  issue (.aLi t d i) .a t false (onBank fun k => k.putA d (combine i.toNat 12 (k.kxOf .a))) s

def execXLi (t : BitVec 4) (d : BitVec 6) (i : BitVec 12) (s : State) : Out :=
  issue (.xLi t d i) .x t false (onBank fun k => k.putS d (combine i.toNat 12 (k.kxOf .x))) s

def execALihi (t : BitVec 4) (d : BitVec 6) (i : BitVec 12) (s : State) : Out :=
  issue (.aLihi t d i) .a t false
    (onBank fun k => (k.useA d.toNat).map fun v => k.wa d.toNat (upperHalf v i (k.kxOf .a))) s

def execXLihi (t : BitVec 4) (d : BitVec 6) (i : BitVec 12) (s : State) : Out :=
  issue (.xLihi t d i) .x t false
    (onBank fun k => .ok (k.ws d.toNat (upperHalf (k.rs d.toNat) i (k.kxOf .x)))) s

/-! ### NOPs (R129) -/

def execANop (t : BitVec 4) (s : State) : Out := issue (.aNop t) .a t false (fun s => .ok s) s

def execXNop (t : BitVec 4) (s : State) : Out := issue (.xNop t) .x t false (fun s => .ok s) s

def execMNop (t : BitVec 4) (s : State) : Out := issue (.mNop t) .m t false (fun s => .ok s) s

/-! ### Another engine's word (R41) -/

/-- The engine whose turn it is passes its word without decoding it, within the slip limit (R110). -/
def execWordStepOver (s : State) : Out :=
  let e := s.engine
  let b := curBank s s.core
  if canIssue (getCore s s.core) b e && !b.slipBlocks e 1 then .next (modCur s s.core fun b => b.pass e) else .next s

end Sys2Proof.Machine
end

