-- ==== Sys2Proof/Machine/Vector.lean ====
section
/-! DEFINITION. Mask words (R150) and the vector integer words (R151-R161). -/
namespace Sys2Proof.Machine

/-! ### Forms -/

/-- A word that reads vectors A and B, in field order. -/
def withVV (k : Bank) (a b : BitVec 6) (f : Vec → Vec → Bank → Act Bank) : Act Bank :=
  match k.getV a with
  | .error e => .error e
  | .ok (x, k1) =>
    match k1.getV b with
    | .error e => .error e
    | .ok (y, k2) => f x y k2

/-- A word that reads vector A. -/
def withV (k : Bank) (a : BitVec 6) (f : Vec → Bank → Act Bank) : Act Bank :=
  match k.getV a with
  | .error e => .error e
  | .ok (x, k1) => f x k1

/-- A word that reads scalar A. -/
def withS (k : Bank) (a : BitVec 6) (f : Word → Bank → Act Bank) : Act Bank :=
  match k.getS a with
  | .error e => .error e
  | .ok (x, k1) => f x k1

/-- Element by element on A and B, committed by R145. -/
def lanes2 (w : Nat) (d a b : BitVec 6) (f : Nat → Nat → Nat) (k : Bank) : Act Bank :=
  withVV k a b fun x y k1 => k1.commit (predOf k (k.kxOf .x)) w d (List.zipWith f (lanesOf x w) (lanesOf y w))

/-- Element by element on A. -/
def lanes1 (w : Nat) (d a : BitVec 6) (f : Nat → Nat) (k : Bank) : Act Bank :=
  withV k a fun x k1 => k1.commit (predOf k (k.kxOf .x)) w d ((lanesOf x w).map f)

/-- A scalar result from vector A. -/
def reduce (d a : BitVec 6) (f : Vec → Word) (k : Bank) : Act Bank := withV k a fun x k1 => k1.putS d (f x)

/-! ### Masks (R150) -/

def execXKand (t : BitVec 4) (d a b : BitVec 6) (s : State) : Out :=
  issue (.xKand t d a b) .x t false (onBank fun k => .ok (k.wk d.toNat (k.rk a.toNat &&& k.rk b.toNat))) s

def execXKor (t : BitVec 4) (d a b : BitVec 6) (s : State) : Out :=
  issue (.xKor t d a b) .x t false (onBank fun k => .ok (k.wk d.toNat (k.rk a.toNat ||| k.rk b.toNat))) s

def execXKnot (t : BitVec 4) (d a : BitVec 6) (s : State) : Out :=
  issue (.xKnot t d a) .x t false (onBank fun k => .ok (k.wk d.toNat (~~~(k.rk a.toNat)))) s

def execXKmovs (t : BitVec 4) (d a : BitVec 6) (c : BitVec 4) (s : State) : Out :=
  issue (.xKmovs t d a c) .x t false
    (onBank fun k => k.putS d ((k.rk a.toNat).extractLsb' (64 * c.toNat) 64)) s

def execXKmovk (t : BitVec 4) (d a : BitVec 6) (c : BitVec 4) (s : State) : Out :=
  issue (.xKmovk t d a c) .x t false
    (onBank fun k => withS k a fun x k1 => .ok (k1.wk d.toNat (put64 (k1.rk d.toNat) (64 * c.toNat) x))) s

def execXKpopc (t : BitVec 4) (d a : BitVec 6) (s : State) : Out :=
  issue (.xKpopc t d a) .x t false (onBank fun k => k.putS d (w64 (ones 1024 (k.rk a.toNat).toNat))) s

/-! ### Width-coded element-wise words (R151) -/

def execXVadd (t : BitVec 4) (w : BitVec 2) (d a b : BitVec 6) (s : State) : Out :=
  let n := laneWidth w
  issue (.xVadd t w d a b) .x t false (onBank (lanes2 n d a b fun u v => u + v)) s

def execXVsub (t : BitVec 4) (w : BitVec 2) (d a b : BitVec 6) (s : State) : Out :=
  let n := laneWidth w
  issue (.xVsub t w d a b) .x t false (onBank (lanes2 n d a b fun u v => u + 2 ^ n - v)) s

def execXVshl (t : BitVec 4) (w : BitVec 2) (d a b : BitVec 6) (s : State) : Out :=
  let n := laneWidth w
  issue (.xVshl t w d a b) .x t false (onBank (lanes2 n d a b fun u v => u <<< (v % n))) s

def execXVshr (t : BitVec 4) (w : BitVec 2) (d a b : BitVec 6) (s : State) : Out :=
  let n := laneWidth w
  issue (.xVshr t w d a b) .x t false (onBank (lanes2 n d a b fun u v => u >>> (v % n))) s

def execXVsar (t : BitVec 4) (w : BitVec 2) (d a b : BitVec 6) (s : State) : Out :=
  let n := laneWidth w
  issue (.xVsar t w d a b) .x t false (onBank (lanes2 n d a b fun u v => wrapI n (sx n u >>> (v % n)))) s

def execXVmulh (t : BitVec 4) (w : BitVec 2) (d a b : BitVec 6) (s : State) : Out :=
  let n := laneWidth w
  issue (.xVmulh t w d a b) .x t false (onBank (lanes2 n d a b fun u v => wrapI n ((sx n u * sx n v) >>> n))) s

def execXVmin (t : BitVec 4) (w : BitVec 2) (d a b : BitVec 6) (s : State) : Out :=
  let n := laneWidth w
  issue (.xVmin t w d a b) .x t false (onBank (lanes2 n d a b fun u v => if sx n u < sx n v then u else v)) s

def execXVmax (t : BitVec 4) (w : BitVec 2) (d a b : BitVec 6) (s : State) : Out :=
  let n := laneWidth w
  issue (.xVmax t w d a b) .x t false (onBank (lanes2 n d a b fun u v => if sx n u < sx n v then v else u)) s

def execXVminu (t : BitVec 4) (w : BitVec 2) (d a b : BitVec 6) (s : State) : Out :=
  let n := laneWidth w
  issue (.xVminu t w d a b) .x t false (onBank (lanes2 n d a b fun u v => min u v)) s

def execXVmaxu (t : BitVec 4) (w : BitVec 2) (d a b : BitVec 6) (s : State) : Out :=
  let n := laneWidth w
  issue (.xVmaxu t w d a b) .x t false (onBank (lanes2 n d a b fun u v => max u v)) s

def execXVabs (t : BitVec 4) (w : BitVec 2) (d a : BitVec 6) (s : State) : Out :=
  let n := laneWidth w
  issue (.xVabs t w d a) .x t false (onBank (lanes1 n d a fun u => wrapI n (sx n u).natAbs)) s

def execXVpopc (t : BitVec 4) (w : BitVec 2) (d a : BitVec 6) (s : State) : Out :=
  let n := laneWidth w
  issue (.xVpopc t w d a) .x t false (onBank (lanes1 n d a fun u => ones n u)) s

def execXVclz (t : BitVec 4) (w : BitVec 2) (d a : BitVec 6) (s : State) : Out :=
  let n := laneWidth w
  issue (.xVclz t w d a) .x t false (onBank (lanes1 n d a fun u => clz n u)) s

/-! ### Words in 32-bit lanes (R152, R155) -/

def execXVand (t : BitVec 4) (d a b : BitVec 6) (s : State) : Out :=
  issue (.xVand t d a b) .x t false (onBank (lanes2 32 d a b fun u v => u &&& v)) s

def execXVor (t : BitVec 4) (d a b : BitVec 6) (s : State) : Out :=
  issue (.xVor t d a b) .x t false (onBank (lanes2 32 d a b fun u v => u ||| v)) s

def execXVxor (t : BitVec 4) (d a b : BitVec 6) (s : State) : Out :=
  issue (.xVxor t d a b) .x t false (onBank (lanes2 32 d a b fun u v => u ^^^ v)) s

def execXVandn (t : BitVec 4) (d a b : BitVec 6) (s : State) : Out :=
  issue (.xVandn t d a b) .x t false (onBank (lanes2 32 d a b fun u v => u &&& (2 ^ 32 - 1 - v))) s

def execXVmul24 (t : BitVec 4) (d a b : BitVec 6) (s : State) : Out :=
  issue (.xVmul24 t d a b) .x t false (onBank (lanes2 32 d a b fun u v => wrapI 32 (sx 24 (low 24 u) * sx 24 (low 24 v)))) s

def execXVmul24u (t : BitVec 4) (d a b : BitVec 6) (s : State) : Out :=
  issue (.xVmul24u t d a b) .x t false (onBank (lanes2 32 d a b fun u v => low 24 u * low 24 v)) s

def execXVmul32 (t : BitVec 4) (d a b : BitVec 6) (s : State) : Out :=
  issue (.xVmul32 t d a b) .x t false (onBank (lanes2 32 d a b fun u v => u * v)) s

def execXVmad24 (t : BitVec 4) (d a b : BitVec 6) (s : State) : Out :=
  issue (.xVmad24 t d a b) .x t false
    (onBank fun k => withVV k a b fun x y k1 =>
      let mac := fun (z : Nat) (p : Int) => wrapI 32 (z + p)
      let prod := List.zipWith (fun u v => sx 24 (low 24 u) * sx 24 (low 24 v)) (lanesOf x 32) (lanesOf y 32)
      k1.commit (predOf k (k.kxOf .x)) 32 d (List.zipWith mac (lanesOf (k1.rv d.toNat) 32) prod)) s

/-! ### Three-input logic and the funnel shift (R153, R154) -/

/-- The bits of truth table `t` at every position, the index being 4 d + 2 a + b. -/
def lop3 (t : BitVec 8) (d a b : Vec) : Vec :=
  let minterm := fun (q : Nat) =>
    (if bit q 2 then d else ~~~d) &&& (if bit q 1 then a else ~~~a) &&& (if bit q 0 then b else ~~~b)
  (tab (fun q => if t.getLsbD q then minterm q else 0) 0 8).foldl (fun u v => u ||| v) 0

def execXVlop3 (t : BitVec 4) (d a b : BitVec 6) (s : State) : Out :=
  issue (.xVlop3 t d a b) .x t false
    (onBank fun k => withVV k a b fun x y k1 =>
      k1.putV d (lop3 ((((k.kxOf .x).getD 0)).setWidth 8) (k1.rv d.toNat) x y)) s

def execXVfun (t : BitVec 4) (d a b : BitVec 6) (s : State) : Out :=
  issue (.xVfun t d a b) .x t false
    (onBank fun k => withVV k a b fun x y k1 =>
      let n := ((k.kxOf .x).getD 0).toNat % 32
      let res := List.zipWith (fun u v => (u * 2 ^ 32 + v) >>> n) (lanesOf x 32) (lanesOf y 32)
      k1.putV d (BitVec.ofNat 4096 (pack 32 res))) s

/-! ### Compares (R156) -/

/-- The mask of a compare: disabled bits below n stay or become 0; bits from n on are 0. -/
def Bank.commitMask (k : Bank) (p : Pred) (d : BitVec 6) (res : List Bool) : Act Bank :=
  let old := elems (k.rk d.toNat).toNat 1 res.length
  .ok (k.wk d.toNat (BitVec.ofNat 1024 (pack 1 (commitLanes p 0 (res.map b2n) old))))

/-- Compare element by element. -/
def compare2 (n : Nat) (d a b : BitVec 6) (f : Nat → Nat → Bool) (k : Bank) : Act Bank :=
  withVV k a b fun x y k1 => k1.commitMask (predOf k (k.kxOf .x)) d (List.zipWith f (lanesOf x n) (lanesOf y n))

def execXVcmpeq (t : BitVec 4) (w : BitVec 2) (d a b : BitVec 6) (s : State) : Out :=
  let n := laneWidth w
  issue (.xVcmpeq t w d a b) .x t false (onBank (compare2 n d a b fun u v => u == v)) s

def execXVcmplt (t : BitVec 4) (w : BitVec 2) (d a b : BitVec 6) (s : State) : Out :=
  let n := laneWidth w
  issue (.xVcmplt t w d a b) .x t false (onBank (compare2 n d a b fun u v => sx n u < sx n v)) s

def execXVcmpltu (t : BitVec 4) (w : BitVec 2) (d a b : BitVec 6) (s : State) : Out :=
  let n := laneWidth w
  issue (.xVcmpltu t w d a b) .x t false (onBank (compare2 n d a b fun u v => u < v)) s

/-! ### Widening and narrowing (R157, R158) -/

/-- The result width W of a widening word. -/
def wideWidth (w : BitVec 2) : Nat := if w = 3 then 16 else 32

/-- Every `g`-th element of a list, the first one at `i`. -/
def every (g : Nat) (l : List Nat) (i : Nat) (n : Nat) : List Nat := tab (fun j => nth l (i + g * j) 0) 0 n

/-- Register `r` of the group: element j of it is the result of source element r + g j. -/
def wideReg (p : Pred) (w g : Nat) (old : Vec) (res : List Nat) (r : Nat) : Vec :=
  let n := 4096 / w
  let m : Mask := BitVec.ofNat 1024 (pack 1 (tab (fun j => b2n (p.mask.getLsbD (r + g * j))) 0 n))
  BitVec.ofNat 4096 (pack w (commitLanes { p with mask := m } 0 (every g res r n) (elems old.toNat w n)))

/-- Write the registers of the group, from the last down. -/
def wideWrite (p : Pred) (w g : Nat) (d : Nat) (res : List Nat) : Nat → Bank → Bank
  | 0, k => k
  | r + 1, k => wideWrite p w g d res r (k.wv (d + r) (wideReg p w g (k.rv (d + r)) res r))

/-- VWIDE of R157. -/
def widen (w : BitVec 2) (d a b : BitVec 6) (f : Int → Int → Int) (k : Bank) : Act Bank :=
  withVV k a b fun x y k1 =>
    let n := laneWidth w
    let res := List.zipWith (fun u v => wrapI (wideWidth w) (f (sx n u) (sx n v))) (lanesOf x n) (lanesOf y n)
    .ok (wideWrite (predOf k (k.kxOf .x)) (wideWidth w) (wideGroup w) d.toNat res (wideGroup w) k1)

def execXVwadd (t : BitVec 4) (w : BitVec 2) (d a b : BitVec 6) (s : State) : Out :=
  issue (.xVwadd t w d a b) .x t false (onBank (widen w d a b fun x y => x + y)) s

def execXVwmul (t : BitVec 4) (w : BitVec 2) (d a b : BitVec 6) (s : State) : Out :=
  issue (.xVwmul t w d a b) .x t false (onBank (widen w d a b fun x y => x * y)) s

def execXVnarrow (t : BitVec 4) (w : BitVec 2) (d a : BitVec 6) (s : State) : Out :=
  let n := laneWidth w
  issue (.xVnarrow t w d a) .x t false
    (onBank fun k => withV k a fun x k1 =>
      k1.commit (predOf k (k.kxOf .x)) (n / 2) d ((lanesOf x n).map fun u => wrapI (n / 2) (satS (n / 2) (sx n u)))) s

/-! ### Reduction (R159) -/

def execXVredadd (t : BitVec 4) (w : BitVec 2) (d a : BitVec 6) (s : State) : Out :=
  let n := laneWidth w
  issue (.xVredadd t w d a) .x t false
    (onBank (reduce d a fun x =>
      sext64 n ((treeSum (fun _ _ u v => low n (u + v)) (7 + w.toNat) 1 (lanesOf x n)).headD 0))) s

/-! ### Data movement (R160, R161) -/

def execXVsel (t : BitVec 4) (d a b : BitVec 6) (s : State) : Out :=
  issue (.xVsel t d a b) .x t false
    (onBank fun k => withVV k a b fun x y k1 =>
      let p := predOf k (k.kxOf .x)
      let n := if p.z then 8 else 32
      let pick := commitLanes { p with z := false } 0 (lanesOf x n) (lanesOf y n)
      k1.putV d (BitVec.ofNat 4096 (pack n pick))) s

def execXVperm (t : BitVec 4) (d a b : BitVec 6) (s : State) : Out :=
  issue (.xVperm t d a b) .x t false
    (onBank fun k => withVV k a b fun x y k1 =>
      k1.commit (predOf k (k.kxOf .x)) 32 d ((lanesOf y 32).map fun v => elem x.toNat 32 (v % 128))) s

def execXVmov (t : BitVec 4) (d a : BitVec 6) (s : State) : Out :=
  issue (.xVmov t d a) .x t false (onBank (lanes1 32 d a fun u => u)) s

def execXVrot (t : BitVec 4) (w : BitVec 2) (d a b : BitVec 6) (s : State) : Out :=
  let n := laneWidth w
  issue (.xVrot t w d a b) .x t false
    (onBank fun k => withV k a fun x k1 => withS k1 b fun c k2 =>
      let m := lanes n
      k2.commit (predOf k (k.kxOf .x)) n d (tab (fun i => elem x.toNat n ((i + c.toNat) % m)) 0 m)) s

def execXVbcast (t : BitVec 4) (w : BitVec 2) (d a : BitVec 6) (s : State) : Out :=
  let n := laneWidth w
  issue (.xVbcast t w d a) .x t false
    (onBank fun k => withS k a fun x k1 =>
      k1.commit (predOf k (k.kxOf .x)) n d (List.replicate (lanes n) (low n x.toNat))) s

def execXVext (t : BitVec 4) (w : BitVec 2) (d a b : BitVec 6) (s : State) : Out :=
  let n := laneWidth w
  issue (.xVext t w d a b) .x t false
    (onBank fun k => withV k a fun x k1 => withS k1 b fun c k2 =>
      k2.putS d (sext64 n (elem x.toNat n (c.toNat % lanes n)))) s

/-- A vector with element `i` of width `n` replaced. -/
def putElem (v : Vec) (n i e : Nat) : Vec :=
  merge v (BitVec.ofNat 4096 (low n e <<< (n * i))) (BitVec.ofNat 4096 ((2 ^ n - 1) <<< (n * i)))

def execXVins (t : BitVec 4) (w : BitVec 2) (d a b : BitVec 6) (s : State) : Out :=
  let n := laneWidth w
  issue (.xVins t w d a b) .x t false
    (onBank fun k => withS k a fun x k1 => withS k1 b fun c k2 =>
      .ok (k2.wv d.toNat (putElem (k2.rv d.toNat) n (c.toNat % lanes n) x.toNat))) s

end Sys2Proof.Machine
end

