-- ==== Sys2Proof/Machine/Float.lean ====
section
/-! DEFINITION. The floating-point words of X (R162-R186): mode and flags, scalar and vector arithmetic, special
functions, conversions and NQ4 blocks. -/
namespace Sys2Proof.Machine

/-! ### Mode and flags (R165, R166) -/

def execXXrmode (t : BitVec 4) (m : BitVec 3) (s : State) : Out :=
  issue (.xXrmode t m) .x t false (onBank fun k => .ok { k with xrm := m }) s

def execXXflags (t : BitVec 4) (d : BitVec 6) (c : BitVec 1) (s : State) : Out :=
  issue (.xXflags t d c) .x t false
    (onBank fun k =>
      let k1 := if c = 1 then { k with xflags := 0 } else k
      k1.putS d (k.xflags.setWidth 64)) s

/-! ### Scalar words (R169) -/

/-- A scalar FP32 result with its flags. -/
def putF (k : Bank) (d : BitVec 6) (r : Nat × Nat) : Act Bank := (k.raiseFlags r.2).putS d (w64 r.1)

/-- A scalar FP32 word on A and B; `f` also takes the context before the pops. -/
def floatSS (d a b : BitVec 6) (f : Bank → Nat → Nat → Nat × Nat) (k : Bank) : Act Bank :=
  withS k a fun x k1 => withS k1 b fun y k2 => putF k2 d (f k (low 32 x.toNat) (low 32 y.toNat))

/-- A scalar FP32 word on A. -/
def floatS (d a : BitVec 6) (f : Nat → Nat × Nat) (k : Bank) : Act Bank :=
  withS k a fun x k1 => putF k1 d (f (low 32 x.toNat))

def execXFrcp (t : BitVec 4) (d a : BitVec 6) (s : State) : Out :=
  issue (.xFrcp t d a) .x t false (onBank (floatS d a fRcp)) s

def execXFrsq (t : BitVec 4) (d a : BitVec 6) (s : State) : Out :=
  issue (.xFrsq t d a) .x t false (onBank (floatS d a fRsq)) s

def execXFadd (t : BitVec 4) (d a b : BitVec 6) (s : State) : Out :=
  issue (.xFadd t d a b) .x t false (onBank (floatSS d a b fun k x y => fArith .add 0 (k.rounding 0) x y 0)) s

def execXFsub (t : BitVec 4) (d a b : BitVec 6) (s : State) : Out :=
  issue (.xFsub t d a b) .x t false (onBank (floatSS d a b fun k x y => fArith .sub 0 (k.rounding 0) x y 0)) s

def execXFmul (t : BitVec 4) (d a b : BitVec 6) (s : State) : Out :=
  issue (.xFmul t d a b) .x t false (onBank (floatSS d a b fun k x y => fArith .mul 0 (k.rounding 0) x y 0)) s

def execXFma (t : BitVec 4) (d a b : BitVec 6) (s : State) : Out :=
  issue (.xFma t d a b) .x t false
    (onBank (floatSS d a b fun k x y => fArith .fma 0 (k.rounding 0) x y (low 32 (k.rs d.toNat).toNat))) s

def execXFmin (t : BitVec 4) (d a b : BitVec 6) (s : State) : Out :=
  issue (.xFmin t d a b) .x t false (onBank (floatSS d a b fun _ x y => (fMinMax false 0 x y, 0))) s

def execXFmax (t : BitVec 4) (d a b : BitVec 6) (s : State) : Out :=
  issue (.xFmax t d a b) .x t false (onBank (floatSS d a b fun _ x y => (fMinMax true 0 x y, 0))) s

/-- The condition of a compare (R170). -/
def condOf (k : Bank) : Nat := ((k.kxOf .x).getD 0).toNat % 8

def execXFcmp (t : BitVec 4) (d a b : BitVec 6) (s : State) : Out :=
  issue (.xFcmp t d a b) .x t false
    (onBank (floatSS d a b fun k x y => let r := fCompare 0 (condOf k) x y; (b2n r.1, r.2))) s

/-- The formats of a conversion's KX (R180). -/
def convSrc (k : Bank) : Nat := ((k.kxOf .x).getD 0).toNat % 16
def convDst (k : Bank) : Nat := ((k.kxOf .x).getD 0).toNat / 16 % 16

/-- A converted value as FCVT writes it: sign-extended for iN, zero-extended otherwise (R182). -/
def convWrite (f e : Nat) : Word := if fmtSigned f then sext64 (fmtWidth f) e else w64 e

def execXFcvt (t : BitVec 4) (d a : BitVec 6) (s : State) : Out :=
  issue (.xFcvt t d a) .x t false
    (onBank fun k => withS k a fun x k1 =>
      let f := convDst k
      let r := convert (convSrc k) f (k.convMode ((k.kxOf .x).getD 0) 0) (low (fmtWidth (convSrc k)) x.toNat)
      (k1.raiseFlags r.2).putS d (convWrite f r.1)) s

/-! ### Vector arithmetic (R172-R174) -/

/-- Element by element on A and B with flags; `f` also takes the element index. -/
def floatVV (n : Nat) (d a b : BitVec 6) (f : Bank → Nat → Nat → Nat → Nat × Nat) (k : Bank) : Act Bank :=
  withVV k a b fun x y k1 =>
    k1.commitF (predOf k (k.kxOf .x)) n d (tab (fun i => f k i (elem x.toNat n i) (elem y.toNat n i)) 0 (lanes n))

/-- Element by element on A with flags, in FP32 lanes. -/
def floatV (d a : BitVec 6) (f : Bank → Nat → Nat → Nat × Nat) (k : Bank) : Act Bank :=
  withV k a fun x k1 => k1.commitF (predOf k (k.kxOf .x)) 32 d (tab (fun i => f k i (elem x.toNat 32 i)) 0 128)

def execXVfadd (t : BitVec 4) (f : BitVec 2) (d a b : BitVec 6) (s : State) : Out :=
  issue (.xVfadd t f d a b) .x t false
    (onBank (floatVV (fmtWidth f.toNat) d a b fun k i x y => fArith .add f.toNat (k.rounding i) x y 0)) s

def execXVfsub (t : BitVec 4) (f : BitVec 2) (d a b : BitVec 6) (s : State) : Out :=
  issue (.xVfsub t f d a b) .x t false
    (onBank (floatVV (fmtWidth f.toNat) d a b fun k i x y => fArith .sub f.toNat (k.rounding i) x y 0)) s

def execXVfmul (t : BitVec 4) (f : BitVec 2) (d a b : BitVec 6) (s : State) : Out :=
  issue (.xVfmul t f d a b) .x t false
    (onBank (floatVV (fmtWidth f.toNat) d a b fun k i x y => fArith .mul f.toNat (k.rounding i) x y 0)) s

def execXVfma (t : BitVec 4) (f : BitVec 2) (d a b : BitVec 6) (s : State) : Out :=
  let n := fmtWidth f.toNat
  issue (.xVfma t f d a b) .x t false
    (onBank (floatVV n d a b fun k i x y => fArith .fma f.toNat (k.rounding i) x y (elem (k.rv d.toNat).toNat n i))) s

def execXVfmin (t : BitVec 4) (f : BitVec 2) (d a b : BitVec 6) (s : State) : Out :=
  issue (.xVfmin t f d a b) .x t false
    (onBank (floatVV (fmtWidth f.toNat) d a b fun _ _ x y => (fMinMax false f.toNat x y, 0))) s

def execXVfmax (t : BitVec 4) (f : BitVec 2) (d a b : BitVec 6) (s : State) : Out :=
  issue (.xVfmax t f d a b) .x t false
    (onBank (floatVV (fmtWidth f.toNat) d a b fun _ _ x y => (fMinMax true f.toNat x y, 0))) s

def execXVfcmp (t : BitVec 4) (f : BitVec 2) (d a b : BitVec 6) (s : State) : Out :=
  let n := fmtWidth f.toNat
  issue (.xVfcmp t f d a b) .x t false
    (onBank fun k => withVV k a b fun x y k1 =>
      let res := List.zipWith (fCompare f.toNat (condOf k)) (lanesOf x n) (lanesOf y n)
      (k1.raiseFlags (res.foldl (fun m r => m ||| r.2) 0)).commitMask ⟨false, false, 0⟩ d (res.map fun r => r.1)) s

def execXVfabs (t : BitVec 4) (d a : BitVec 6) (s : State) : Out :=
  issue (.xVfabs t d a) .x t false (onBank (floatV d a fun _ _ x => (fSignOp false x, 0))) s

def execXVfneg (t : BitVec 4) (d a : BitVec 6) (s : State) : Out :=
  issue (.xVfneg t d a) .x t false (onBank (floatV d a fun _ _ x => (fSignOp true x, 0))) s

/-! ### Special functions (R176-R178) -/

def execXVrcp (t : BitVec 4) (d a : BitVec 6) (s : State) : Out :=
  issue (.xVrcp t d a) .x t false (onBank (floatV d a fun _ _ x => fRcp x)) s

def execXVrsq (t : BitVec 4) (d a : BitVec 6) (s : State) : Out :=
  issue (.xVrsq t d a) .x t false (onBank (floatV d a fun _ _ x => fRsq x)) s

def execXVexp2 (t : BitVec 4) (d a : BitVec 6) (s : State) : Out :=
  issue (.xVexp2 t d a) .x t false (onBank (floatV d a fun _ _ x => fExp2 x)) s

def execXVlog2 (t : BitVec 4) (d a : BitVec 6) (s : State) : Out :=
  issue (.xVlog2 t d a) .x t false (onBank (floatV d a fun _ _ x => fLog2 x)) s

def execXVrcpstep (t : BitVec 4) (d a : BitVec 6) (s : State) : Out :=
  issue (.xVrcpstep t d a) .x t false
    (onBank (floatV d a fun k i x => fStep false (k.rounding i) x (elem (k.rv d.toNat).toNat 32 i))) s

def execXVrsqstep (t : BitVec 4) (d a : BitVec 6) (s : State) : Out :=
  issue (.xVrsqstep t d a) .x t false
    (onBank (floatV d a fun k i x => fStep true (k.rounding i) x (elem (k.rv d.toNat).toNat 32 i))) s

/-! ### Reduction (R179) -/

/-- One addition of the tree, with the flags of both sides. -/
def redAdd (k : Bank) (j i : Nat) (x y : Nat × Nat) : Nat × Nat :=
  let r := fArith .add 0 (k.rounding (128 * (j - 1) + i)) x.1 y.1 0
  (r.1, x.2 ||| y.2 ||| r.2)

def execXVfredadd (t : BitVec 4) (d a : BitVec 6) (s : State) : Out :=
  issue (.xVfredadd t d a) .x t false
    (onBank fun k => withV k a fun x k1 =>
      putF k1 d ((treeSum (redAdd k) 7 1 ((lanesOf x 32).map fun e => (e, 0))).headD (0, 0))) s

/-! ### Conversions (R180, R181) -/

def execXVfcvt (t : BitVec 4) (d a : BitVec 6) (s : State) : Out :=
  issue (.xVfcvt t d a) .x t false
    (onBank fun k => withV k a fun x k1 =>
      let f := convSrc k
      let g := convDst k
      let n := 4096 / max (fmtWidth f) (fmtWidth g)
      let res := tab (fun i => convert f g (k.convMode ((k.kxOf .x).getD 0) i) (elem x.toNat (fmtWidth f) i)) 0 n
      let k2 := k1.raiseFlags (res.foldl (fun m r => m ||| r.2) 0)
      k2.putV d (BitVec.ofNat 4096 (pack (fmtWidth g) (res.map fun r => r.1)))) s

/-! ### NQ4 blocks in registers (R183-R186) -/

/-- The larger of two magnitudes; anything but a finite nonzero value counts as 0. -/
def maxMag (m x : Val) : Val :=
  match m, x with
  | .fin _ n d e, .fin _ p q f =>
    match vadd false (.fin false p q f) (.fin true n d e) with
    | .fin false _ _ _ => x.abs
    | _ => m
  | _, .fin _ _ _ _ => x.abs
  | _, _ => m

/-- The scale that VQSCALE gives a block of FP32 elements under superscale `super` (R184). -/
def blockScale (super : Nat) (xs : List Nat) : Nat :=
  let vs := xs.map (decodeF 0)
  if !superOk super || vs.any Val.isNan then 0xFFF
  else
    match vs.foldl maxMag (.zero false) with
    | .fin s n d e => if super = 0 then 0xFFF else (roundTo 6 ⟨3, true, 0, 0, none⟩ (vdiv (.fin s n d e) (decodeF 0 super))).1
    | _ => 0

/-- Block `k` of a register of FP32 lanes. -/
def nqBlock (x : Vec) (k : Nat) : List Nat := tab (elem x.toNat 32) (64 * k) 64

def execXVqscale (t : BitVec 4) (d a b : BitVec 6) (s : State) : Out :=
  issue (.xVqscale t d a b) .x t false
    (onBank fun k => withVV k a b fun x y k1 =>
      let super := elem y.toNat 32 0
      let out := [blockScale super (nqBlock x 0), blockScale super (nqBlock x 1),
        if (decodeF 0 super).isNan then canonNan 0 else super]
      k1.putV d (BitVec.ofNat 4096 (pack 32 out))) s

/-- The codes of a block, and its flags (R185). An element −0, which code 7 gives back as +0, counts as decoding to itself: no NX (DESIGN
CHOICE, log 53). -/
def packBlock (sc super : Nat) (xs : List Nat) : List Nat × Nat :=
  let none7 := List.replicate xs.length 7
  if (s12Value sc).isNan || !superOk super then (none7, 0)
  else
    let bv := vmul (s12Value sc) (decodeF 0 super)
    let vs := xs.map (decodeF 0)
    if vs.any Val.isNan then (none7, flNV)
    else
      let cs := vs.map fun v => (nq4Code v bv true).getD 7
      let same := fun (v : Val) (c : Nat) =>
        match v, nq4Value c sc super with
        | .zero _, .zero _ => true
        | v, w => match vadd false v w.neg with
          | .zero _ => true
          | _ => false
      (cs, if (List.zipWith same vs cs).all id then 0 else flNX)

def execXVqpack (t : BitVec 4) (d a b : BitVec 6) (s : State) : Out :=
  issue (.xVqpack t d a b) .x t false
    (onBank fun k => withVV k a b fun x y k1 =>
      let super := elem y.toNat 32 2
      let r0 := packBlock (low 16 (elem y.toNat 32 0)) super (nqBlock x 0)
      let r1 := packBlock (low 16 (elem y.toNat 32 1)) super (nqBlock x 1)
      (k1.raiseFlags (r0.2 ||| r1.2)).putV d (BitVec.ofNat 4096 (pack 4 (r0.1 ++ r1.1)))) s

def execXVqunpk (t : BitVec 4) (d a b : BitVec 6) (s : State) : Out :=
  issue (.xVqunpk t d a b) .x t false
    (onBank fun k => withVV k a b fun x y k1 =>
      let super := elem y.toNat 32 2
      let res := tab (fun i =>
        roundTo 0 .rne (nq4Value (elem x.toNat 4 i) (low 16 (elem y.toNat 32 (i / 64))) super)) 0 128
      (k1.raiseFlags (res.foldl (fun m r => m ||| r.2) 0)).putV d
        (BitVec.ofNat 4096 (pack 32 (res.map fun r => r.1)))) s

end Sys2Proof.Machine
end

