-- ==== Sys2Proof/Machine/Shoe.lean ====
section
/-! DEFINITION. The shoe: launch queues (R82-R85), the choice and dispatch of a launch (R91-R97), core starts (R98-R102,
R22), A.LAUNCH (R106), A.WNEXT and the cut (R103-R107), and the end of a core's work and of a launch (R368-R371). -/
namespace Sys2Proof.Machine

/-! ### Completion counters (R88, R89) -/

def ccOf (s : State) (c : Nat) : BitVec 32 := sget s.shoe.cc c 0

def setCc (s : State) (c : Nat) (v : BitVec 32) : State := { s with shoe := { s.shoe with cc := sset s.shoe.cc c v 0 } }

/-- The enabled waits of a record that are not satisfied. -/
def waitsOpen (s : State) (r : Rec) : Bool :=
  (tab (fun i => recWen r i && decide (2 ^ 31 ≤ (ccOf s (recWc r i) - BitVec.ofNat 32 (recWt r i)).toNat)) 0 4).contains true

/-- Eligibility of each head record is latched once its waits are satisfied (R89). -/
def latchQueues (s : State) : List Nat → State
  | [] => s
  | q :: l =>
    let v := getLq s q
    let ok := match v.copy with
      | some r => !v.copyOk || !waitsOpen s r
      | none => false
    latchQueues (if v.en && ok then setLq s q { v with eligible := true } else s) l

def latch (s : State) : State := latchQueues s (tab (fun i => i) 0 16)

/-- A launch completes: its counter is bumped if it asks so (R90). -/
def bump (s : State) (r : Rec) : State :=
  if recBen r then latch (setCc s (recBcnt r) (ccOf s (recBcnt r) + 1)) else s

/-! ### Queue control (R83-R85) -/

/-- Nothing is kept of the head record. -/
def LaunchQueue.forget (v : LaunchQueue) : LaunchQueue :=
  { v with copy := none, copyOk := false, copyRepl := false, eligible := false, dies := 0, sent := 0, acked := 0, flight := none,
           banksBad := false }

/-- HEAD passes the head record. -/
def LaunchQueue.advance (v : LaunchQueue) : LaunchQueue :=
  { v.forget with head := v.head + 1, replicaSlots := v.replicaSlots.filter (· != v.head) }

/-- The replicas among the records before `t`: a slot that TAIL no longer covers is free. -/
def LaunchQueue.replicasBefore (v : LaunchQueue) (t : BitVec 32) : List (BitVec 32) :=
  v.replicaSlots.filter fun i => decide ((i - v.head).toNat < (t - v.head).toNat)

/-- `n` slots of the queue are taken, and with 2^`log2` slots and TAIL at `t` they would not be free: the host's write waits until
their records are in the queue (log 48). -/
def LaunchQueue.leavesNoRoom (v : LaunchQueue) (n log2 : Nat) (t : BitVec 32) : Bool :=
  n != 0 && decide (2 ^ log2 < (t - v.head).toNat + n)

/-- A write of LQn.TAIL while `n` slots are taken (R83, R84). With EN = 0 any value is accepted, since HEAD takes it too: R84's
refusal of a TAIL more than 2^LOG2 past HEAD is read as one of an enabled queue (DESIGN CHOICE, log 48). -/
def LaunchQueue.setTail (v : LaunchQueue) (n : Nat) (t : BitVec 32) : LaunchQueue :=
  if !v.en then { v.forget with tail := t, head := t, replicaSlots := [] }
  else if 2 ^ v.log2.toNat < (t - v.head).toNat then { v with ovf := true }
  else if v.leavesNoRoom n v.log2.toNat t then v
  else { v with tail := t, replicaSlots := v.replicasBefore t }

def execLqTailWrite (q : BitVec 4) (v : BitVec 32) (s : State) : Out :=
  .next (hostWrite s .shoe (0x40 * q.toNat + 0x18) v.toNat (modLq s q.toNat fun l => l.setTail (claimed s q.toNat) v))

def LaunchQueue.skip (v : LaunchQueue) : LaunchQueue :=
  if v.rej then { v.advance with rej := false, check := 0 } else v

def LaunchQueue.retry (v : LaunchQueue) : LaunchQueue :=
  if v.rej then { v.forget with rej := false, check := 0 } else v

/-- A write of LQn.CTL. -/
def LaunchQueue.setCtl (v : LaunchQueue) (w : BitVec 32) : LaunchQueue :=
  let en := w.getLsbD 0 && v.log2 != 0
  let v := { v with maxp := w.extractLsb' 2 2, dev := w.getLsbD 1, en := en }
  let v := if en then v else v.forget
  match w.getLsbD 4, w.getLsbD 5 with
  | true, false => v.skip
  | false, true => v.retry
  | _, _ => v

def execLqEnableWrite (q : BitVec 4) (v : BitVec 32) (s : State) : Out :=
  .next (hostWrite s .shoe (0x40 * q.toNat + 0x20) v.toNat (modLq s q.toNat fun l => l.setCtl v))

def execLqRetry (q : BitVec 4) (s : State) : Out := .next (modLq s q.toNat LaunchQueue.retry)

def execLqSkip (q : BitVec 4) (s : State) : Out := .next (modLq s q.toNat LaunchQueue.skip)

/-- The head record is read once (R85), through the queue's tenant record (R84). -/
def readHead (s : State) (q : Nat) : State :=
  let v := getLq s q
  if v.en && !v.rej && v.copy.isNone && v.head != v.tail then
    let got := (tenantXlat s v.ten).bind fun x => readNum s (tenantView v.ten x) (v.slotVa v.head) 64
    latch <| setLq s q { v with
      copy := some (BitVec.ofNat 512 (got.getD 0))
      copyOk := got.isSome
      copyRepl := v.replicaSlots.contains v.head }
  else s

def execHeadRecordRead (q : BitVec 4) (s : State) : Out := .next (readHead s q.toNat)

/-! ### Rejection (R93) -/

def reject (s : State) (q n : Nat) : State :=
  let v := getLq s q
  let s := setLq s q { v with rej := true, check := BitVec.ofNat 8 n, dies := 0, sent := 0, acked := 0, flight := none, banksBad := false }
  postPlain s 2 0 0 (BitVec.ofNat 8 n) (BitVec.ofNat 4 q) v.head 0 0

/-! ### Replicas (R96, R97) -/

/-- The core number under which the shoe's packets travel: no core has it. -/
def shoeCore : Nat := 1024

/-- The replica that carries DIES tuple `d`. -/
def replicaOf (r : Rec) (d : Nat) : Rec := recPut (recPut r 420 1 1) 460 22 d

/-- Where replica `d` goes. -/
def replicaLabel (r : Rec) (d : Nat) : Label := BitVec.ofNat 22 (recLbase r + d)

/-- Send the replicas that can go now: one at a time to other nodes, at once to this node's own queue; when all are
delivered HEAD advances, unless check 23 fails (R92). -/
def sendReplicas (s : State) (q : Nat) : Nat → State
  | 0 => s
  | n + 1 =>
    let v := getLq s q
    match v.copy with
    | none => s
    | some r =>
      if v.dies = 0 ∨ v.sent ≠ v.acked then s
      else if v.acked = v.dies then (if v.banksBad then reject s q 23 else setLq s q v.advance)
      else
        let d := v.acked
        let dst := replicaLabel r d
        if dst = s.fabric.label then
          if !v.en || !v.dev then reject s q 21
          else if queueFull s q then s
          else
            let s := appendRecord s q (replicaOf r d) true
            sendReplicas (modLq s q fun v => { v with sent := d + 1, acked := d + 1 }) q n
        else
          let p := { blankPacket s shoeCore dst 0 .replica (recTenant r) 0 with
                     size := 64, op := BitVec.ofNat 8 q, data := bytesOf (replicaOf r d).toNat 64 }
          let (n, s) := sendPacket s p
          modLq s q fun v => { v with sent := d + 1, flight := some (dst, n) }

/-- The answer of a target to the replica that packet `p` carries: delivered, no room (code 0), or no delivery (R97). An answer to
a replica of an attempt that EN = 0 has ended (R85) counts for nothing. -/
def replicaAnswer (s : State) (p : Packet) (r : Response) : State :=
  let q := p.op.toNat
  let v := getLq s q
  if v.dies = 0 ∨ v.flight ≠ some (p.dst, p.num) then s
  else
    let v := { v with flight := none }
    match r with
    | .data _ _ | .many _ _ => sendReplicas (setLq s q { v with acked := v.sent }) q 3
    | .fault f => if f.code = 0 then setLq s q { v with sent := v.acked } else reject s q 21

def execReplicaResend (q : BitVec 4) (s : State) : Out := .next (sendReplicas s q.toNat 3)

/-- A replica from another node: appended where the queue takes it (R96, R97). -/
def execReplicaReceive (q : BitVec 4) (rec : BitVec 512) (s : State) : Out :=
  let v := getLq s q.toNat
  .next (if v.en && v.dev && !queueFull s q.toNat then appendRecord s q.toNat rec true else s)

/-! ### Choosing and dispatching (R91, R95) -/

/-- A queue whose head record may be chosen. Once the shoe has its copy of the head record, a TAIL lowered to HEAD with EN = 1 does
not take it back, and HEAD then passes TAIL (DESIGN CHOICE, log 48). -/
def LaunchQueue.candidate (v : LaunchQueue) : Bool := v.en && v.eligible && !v.rej && v.copy.isSome && v.dies == 0

/-- PRIO of the head record; a slot that could not be read competes with 0 (log 48). -/
def LaunchQueue.prio (v : LaunchQueue) : Nat := if v.copyOk then recPrio (v.copy.getD 0) else 0

/-- The queues in the order from SHOE.QPTR on. -/
def queueOrder (s : State) : List Nat := tab (fun i => (s.shoe.qptr.toNat + i) % 16) 0 16

/-- The queue to dispatch from. -/
def chooseQueue (s : State) : Option Nat :=
  (queueOrder s).foldl (fun m q =>
    if (getLq s q).candidate && (match m with
      | some p => decide ((getLq s p).prio < (getLq s q).prio)
      | none => true) then some q else m) none

/-- The slot numbers of launches. -/
def launchSlots : List Nat := tab (fun i => i) 0 64

def freeSlot (s : State) : Option Nat := launchSlots.find? fun n => (getLaunch s n).isNone

/-- The launch of an admitted record. -/
def newLaunch (r : Rec) (a : Admitted) (order : Nat) (q : BitVec 4) (head : BitVec 32) : Launch where
  record := r
  kern := a.kern
  preloads := a.preloads
  order := order
  queue := q
  head := head
  next := 0
  total := a.total
  lo := []
  hi := []
  began := false
  started := []
  exited := []
  roundScope := 0
  sentDims := []
  gotDims := []

/-- SHOE.QPTR after a dispatch from queue `q`. -/
def turnPtr (s : State) (q : Nat) : State := { s with shoe := { s.shoe with qptr := BitVec.ofNat 4 (q + 1) } }

/-- Dispatch the head record of queue `q` into a free launch slot. A record whose replication begins, or that completes for
a zero count, moves SHOE.QPTR as a dispatch does; a DIES record with a zero count completes where it is submitted and sends
no replica (log 48). -/
def dispatch (s : State) (q slot : Nat) : State :=
  let v := getLq s q
  let r := v.copy.getD 0
  match admission s v.copyOk v.copyRepl r with
  | .error n => reject s q n
  | .ok a =>
    let zero := a.total == 0 || (a.kern.hasDies && a.dies == 0)
    if a.kern.hasDies && !v.copyRepl && !zero then
      sendReplicas (setLq (turnPtr s q) q { v with dies := a.dies, sent := 0, acked := 0, banksBad := a.banksBad }) q 3
    else if a.banksBad then reject s q 23
    else if zero then bump (setLq (turnPtr s q) q v.advance) r
    else
      let s := turnPtr s q
      let (id, s) := fresh s
      setLaunch (setLq s q v.advance) slot (some (newLaunch r a id (BitVec.ofNat 4 q) v.head))

def execLaunchDispatch (s : State) : Out :=
  .next (match chooseQueue s, freeSlot s with
    | some q, some slot => dispatch s q slot
    | _, _ => s)

/-! ### Starting a core (R22, R102, R190, R215, R372) -/

/-- Storage of the scratchpad banks in `mask` of core `c` reads zero, unpoisoned, under a new owner (R372). -/
def takeSpad (s : State) (c mask : Nat) (t : Tenant) : State :=
  let own := fun loc => spadBase ≤ loc && (loc - spadBase) / 2 ^ 19 == c && bit mask ((loc - spadBase) % 2 ^ 19 / 32768)
  let s := { s with mem := s.mem.filter (fun p => !own p.1), poison := s.poison.filter (fun p => !own (32 * p.1)) }
  modCore s c fun k =>
    { k with spadOwner := (tab (fun i => i) 0 16).foldl (fun m b => if bit mask b then sset m b (some t) none else m) k.spadOwner }

/-- Copy bytes to the scratchpad from offset `o` on, into the banks of `mask` only (R403). -/
def spadBytes (s : State) (c mask : Nat) : Nat → List Byte → State
  | _, [] => s
  | o, b :: l => spadBytes (if bit mask (o / 32768) then wrByte s (spadLoc c o) b else s) c mask (o + 1) l

/-- Copy the scratchpad image, page by page; a page that cannot be read when the core starts leaves its bytes zero
(log 47). -/
def copyImage (s : State) (v : View) (c mask va : Nat) : List (Nat × Nat) → State
  | [] => s
  | (a, n) :: l =>
    let s := match readGlobal s v a n with
      | some bytes => spadBytes s c mask (a - va) bytes
      | none => s
    copyImage s v c mask va l

/-- Apply a preload entry. -/
def preload (b : Bank) (p : Preload) : Bank :=
  match p.file.toNat with
  | 0 => b.wa p.reg.toNat p.val
  | 1 => b.ws p.reg.toNat p.val
  | 2 => b.wv p.reg.toNat p.vec
  | _ => b.wm p.reg.toNat p.val

/-- The context of a core that starts on iteration `p` (R22, R102). -/
def startBank (s : State) (slot : Nat) (l : Launch) (c p : Nat) (x : Xlat) : Bank :=
  let t := recTenant l.record
  let b := { Bank.zero with
    st := .stopped
    tenant := t
    owner := some t
    pc := Three.all (w64 (4 * l.kern.entry))
    slipwin := if l.kern.slipInit = 0 then 1024 else l.kern.slipInit.setWidth 13
    handlen := if l.kern.handLen = 0 then 32 else l.kern.handLen.setWidth 9
    privBase := (s.shoe.privBase + w64 c * s.shoe.privStride) &&& 0x0000FFFFFFFFF000
    privSize := s.shoe.privStride
    xlat := x
    kern := some l.kern
    launch := some slot
    pe := recPe l.record }
  let b := l.preloads.foldl preload b
  let b := (if l.kern.hasDies then indexWrites l.kern .dies (recDidx l.record) else []).foldl (fun b w => b.wa w.1 w.2) b
  (indexWrites l.kern .cores p).foldl (fun b w => b.wa w.1 w.2) b

/-- The shoe starts core `c` on iteration `p` of the launch in `slot`; COPY.STAT but for JOBS starts at zero (R22). A tenant
record that is no longer usable gives the context a translation of zeros (log 47). -/
def startCore (s : State) (slot : Nat) (l : Launch) (c p : Nat) : State :=
  let t := recTenant l.record
  let x := (tenantXlat s t).getD ⟨0, 0, 0, 0⟩
  let mask := fld (getCore s c).spmask.toNat 0 16
  let s := modCore (takeSpad s c mask t) c fun k => { k with clamps := 0, cclamp := false, errs := [], collErr := none, errBy := [], hcount := 0 }
  let va := l.kern.spadImg.toNat
  let s := if l.kern.spadLen = 0 then s else copyImage s (tenantView t x) c mask va (pageParts va l.kern.spadLen)
  let (id, s) := fresh s
  makeRunnable (setBank s c false { startBank s slot l c p x with
    ctx := id, hdrw := (getBank s c false).hdrw, svcPast := (getBank s c false).answered }) c false

/-- A core is free while its first bank runs no kernel (R98). -/
def coreFree (s : State) (c : Nat) : Bool := (getBank s c false).st == .empty && !(getCore s c).gated

/-- Launches by slot. -/
def active (s : State) : List (Nat × Launch) := launchSlots.filterMap fun n => (getLaunch s n).map fun l => (n, l)

/-- A RANGE launch not yet started reserves core `c` against `l` (R100). -/
def reservedAgainst (s : State) (l : Launch) (c : Nat) : Bool :=
  (active s).any fun (_, r) => recRange r.record && !r.began && decide (r.order < l.order) &&
    decide (recPrio l.record ≤ recPrio r.record) && (recCores r.record).contains c

/-- Of two launches, the one to be offered a core first (R98). -/
def dealFirst (a b : Launch) : Bool :=
  decide (recPrio b.record < recPrio a.record) || (recPrio a.record == recPrio b.record && decide (a.order < b.order))

/-- The DEAL launch that takes core `c`. -/
def dealLaunch (s : State) (c : Nat) : Option (Nat × Launch) :=
  (active s).foldl (fun m x =>
    if !recRange x.2.record && decide (x.2.next < x.2.total) && (recCores x.2.record).contains c &&
        !reservedAgainst s x.2 c && (match m with
          | some y => dealFirst x.2 y.2
          | none => true) then some x else m) none

/-- SHOE.CPTR after core `c` has been served (R99). -/
def moveCptr (s : State) (c : Nat) : State := { s with shoe := { s.shoe with cptr := BitVec.ofNat 10 (c + 1) } }

/-- The cores that come before core `c` in the rotating order from SHOE.CPTR on (R99). -/
def coresBefore (s : State) (c : Nat) : List Nat :=
  tab (fun i => (s.shoe.cptr.toNat + i) % 1024) 0 ((c + 1024 - s.shoe.cptr.toNat) % 1024)

/-- The A engine of the core waits at A.WNEXT of the launch in `slot`. -/
def asksIn (s : State) (slot c : Nat) : Bool :=
  let b := curBank s c
  b.launch == some slot && canIssue (getCore s c) b .a &&
    match b.wait with
    | .wnext _ _ => true
    | _ => false

/-- A core asks for an iteration of the DEAL launch in `slot`: by starting, or by A.WNEXT (R99). -/
def asksDeal (s : State) (slot c : Nat) : Bool :=
  asksIn s slot c || (coreFree s c && (dealLaunch s c).map (fun x => x.1) == some slot)

/-- The turn of core `c` among those that ask for iterations of the DEAL launch in `slot` (R99, log 49). -/
def dealTurn (s : State) (slot c : Nat) : Bool := !(coresBefore s c).any (asksDeal s slot)

def execDealCoreStart (core : Nat) (s : State) : Out :=
  forCore core <|
    if !coreFree s core then s
    else
      match dealLaunch s core with
      | none => s
      | some (slot, l) =>
        if dealTurn s slot core then
          let s := setLaunch s slot (some { l with next := l.next + 1, started := l.started ++ [core] })
          startCore (moveCptr s core) slot l core l.next
        else s

/-- Start the cores of a RANGE launch from index `j` of `n` on (R100). -/
def startRange (s : State) (slot n total : Nat) : Nat → List Nat → State
  | _, [] => s
  | j, c :: cs =>
    let lo := j * total / n
    let hi := (j + 1) * total / n
    match getLaunch s slot with
    | none => s
    | some l =>
      let s :=
        if lo < hi then
          let l := { l with lo := sset l.lo c (lo + 1) 0, hi := sset l.hi c hi 0, started := l.started ++ [c] }
          startCore (setLaunch s slot (some l)) slot l c lo
        else setLaunch s slot (some { l with lo := sset l.lo c lo 0, hi := sset l.hi c hi 0 })
      startRange s slot n total (j + 1) cs

def execRangeLaunchStart (slot : Nat) (s : State) : Out :=
  forUnit slot 64 <|
    match getLaunch s slot with
    | none => s
    | some l =>
      let cs := recCores l.record
      if recRange l.record && !l.began && cs.all (fun c => coreFree s c && !reservedAgainst s l c) then
        startRange (setLaunch s slot (some { l with began := true })) slot cs.length l.total 0 cs
      else s

/-! ### A.WNEXT (R99, R103-R107) -/

/-- The rest of a core's range. -/
def Launch.left (l : Launch) (c : Nat) : Nat := sget l.hi c 0 - sget l.lo c 0

/-- Take the next index of core `c`'s own range. -/
def Launch.takeOwn (l : Launch) (c : Nat) : Nat × Launch := (sget l.lo c 0, { l with lo := sset l.lo c (sget l.lo c 0 + 1) 0 })

/-- The cut at victim `v` for thief `c`. -/
def Launch.cut (l : Launch) (c v : Nat) : Launch :=
  let m := sget l.lo v 0 + (l.left v + 1) / 2
  let h := sget l.hi v 0
  { l with lo := sset l.lo c m 0, hi := sset (sset l.hi c h 0) v m 0 }

/-- The victim of RangeNext: `n` hops around the cluster's ring remain, the next to the core after `v`. The whole ring is
walked in one step (log 49). -/
def Launch.victimFrom (l : Launch) (c : Nat) : Nat → Nat → Option Nat
  | 0, _ => none
  | n + 1, v =>
    let w := 64 * clusterOf c + (v + 1) % 64
    if 2 ≤ l.left w then some w else l.victimFrom c n w

/-- The core from which core `c` would steal; none where a full ring refuses. -/
def Launch.victim (l : Launch) (c : Nat) : Option Nat := l.victimFrom c 63 c

/-- DealNext and RangeNext; a cut and the index that it serves come in one step (log 49). -/
def Launch.nextIndex (l : Launch) (c : Nat) : Option (Nat × Launch) :=
  if recRange l.record then
    (if 0 < l.left c then some (l.takeOwn c) else (l.victim c).map fun v => (l.cut c v).takeOwn c)
  else if l.next < l.total then some (l.next, { l with next := l.next + 1 })
  else none

/-- The turn of core `c` at A.WNEXT: in DEAL mode by the rotating order; a steal comes after the victim's own A.WNEXT, and
after steals at the same victim that come before it in the rotating order (R99, R104, log 49). -/
def wnextTurn (s : State) (slot c : Nat) (l : Launch) : Bool :=
  if !recRange l.record then dealTurn s slot c
  else if 0 < l.left c then true
  else
    match l.victim c with
    | none => true
    | some v => !asksIn s slot v && !(coresBefore s c).any fun d => asksIn s slot d && l.left d == 0 && l.victim d == some v

/-- A.WNEXT on the running context completes with an index, or with none. A context that belongs to no launch gets none, as from an
exhausted one, and an A.WNEXT that gets none does not move SHOE.CPTR (DESIGN CHOICE, log 49). An A.WNEXT of a RANGE launch moves
SHOE.CPTR too, the start of a RANGE launch does not (log 49). -/
def serveIndex (s : State) (c : Nat) (d : BitVec 6) (toks : BitVec 4) : State :=
  let b := curBank s c
  let got := b.launch.bind fun slot => (getLaunch s slot).bind fun l => (l.nextIndex c).map fun x => (slot, x)
  let (s, f) : State × (Bank → Bank) := match got with
    | none => (s, fun b => b.wa d.toNat 0xFFFFFFFFFFFFFFFF)
    | some (slot, p, l) =>
      (moveCptr (setLaunch s slot (some l)) c,
        fun b => ((indexWrites l.kern .cores p).foldl (fun b w => b.wa w.1 w.2) b).wa d.toNat (w64 p))
  modCur s c fun b => leaveWord .a toks false none (f { b with wait := .none })

def execAWnext (t : BitVec 4) (d : BitVec 6) (s : State) : Out :=
  issue (.aWnext t d) .a t false
    (fun s =>
      match (curBank s s.core).wait with
      | .wnext _ _ => stall
      | _ => .error (.hold (modCur s s.core fun b => { b with wait := .wnext d t }))) s

def execWnextServed (core : Nat) (s : State) : Out :=
  forCore core <|
    let b := curBank s core
    match b.wait with
    | .wnext d t =>
      let turn := match b.launch.bind fun slot => (getLaunch s slot).map fun l => wnextTurn s slot core l with
        | some r => r
        | none => true
      if canIssue (getCore s core) b .a && turn then serveIndex s core d t else s
    | _ => s

/-! ### A.LAUNCH (R106) -/

/-- A.LAUNCH: where its queue has a slot that no other A.LAUNCH has taken, the engine takes it and passes the word, whose record is
read after every earlier access and then appended; on a full queue the word stalls with its record read, until there is room (R106,
R120). -/
def launchEffect (t : BitVec 4) (r : BitVec 5) (q : BitVec 4) (s : State) : Act State :=
  let b := curBank s s.core
  let v := getLq s q.toNat
  let full := queueFull s q.toNat
  match b.wait with
  | .launch _ _ (some rec) =>
    if full then stall
    else .ok (modCur (appendRecord s q.toNat rec false) s.core fun b => { b.pushToks .a (t &&& 3) with wait := .none })
  | .launch _ _ none => stall
  | _ =>
    match b.useA r.toNat with
    | .error e => .error e
    | .ok x =>
      if x.toNat % 64 ≠ 0 then .error (.fault .illegal x 0 0 (faultInfo 9))
      else if !v.en || !v.dev then plainFault .privilege 0
      else
        match memEffect s t 0 0 (locateAll s (ownView s) 0 0 64 true false false false [x]) { op := .record q full } with
        | .error e => .error e
        | .ok s' => if full then .error (.hold (modCur s' s.core fun b => { b with wait := .launch q s.seq none })) else .ok s'

def execALaunch (t : BitVec 4) (r : BitVec 5) (q : BitVec 4) (s : State) : Out :=
  issue (.aLaunch t r q) .a t true (launchEffect t r q) s

/-! ### The end of a core's work and of a launch (R368-R371) -/

/-- The number of nodes that run replicas of the launch's source record. -/
def replicaCount (l : Launch) : Nat := if l.kern.hasDies then diesTotal l.kern else 1

/-- The labels of the replica nodes form a subcube: they are 2^k labels in a row from a multiple of 2^k, or all (R96, R297). -/
def isSubcube (l : Launch) : Bool :=
  let n := replicaCount l
  n == 2 ^ n.log2 && (recLbase l.record % n == 0 || n == 2 ^ 22)

/-- The dimensions in which the replica labels differ, ascending. -/
def roundDims (l : Launch) : List Nat := tab (fun i => i) 0 (replicaCount l).log2

/-- ROUND of this launch faults ILLEGAL/VALUE (R341). -/
def roundBad (l : Launch) (scope : BitVec 2) : Bool :=
  (!recRange l.record && l.kern.hasCores) || (scope == 2 && !isSubcube l) || (l.roundScope != 0 && l.roundScope != scope)

/-- A launch that retires stays in the job-scope rounds of its replicas (R341, R343). -/
def keepRelay (s : State) (l : Launch) : State :=
  if roundBad l 2 || (roundDims l).isEmpty then s else { s with shoe := { s.shoe with relays := s.shoe.relays ++ [l] } }

/-- The launch retires once everything is handed out and every core that started has exited. -/
def retireIf (s : State) (slot : Nat) : State :=
  match getLaunch s slot with
  | none => s
  | some l =>
    let dealt := if recRange l.record then l.began else l.next == l.total
    if dealt && !l.started.isEmpty && l.exited.length == l.started.length then
      bump (keepRelay (setLaunch s slot none) l) l.record
    else s

/-- The waits of EXIT are over. -/
def exitReady (s : State) (c : Nat) : Bool :=
  let k := getCore s c
  k.queued == 0 && k.session.isNone && !(getTable s (tableOf c)).feeds.any (fun f => f.core == c) && k.jobs.isEmpty &&
    (k.bank k.active).inflight.isEmpty && k.pathTotal == 0

/-- The lowest recorded error of the core, and the core without it. -/
def takeError (k : Core) : Option (FaultRec × Core) :=
  match (tab (fun i => i) 0 8).find? fun c => (sget k.errs c none).isSome with
  | some c => (sget k.errs c none).map fun r =>
      ({ r with info := raisedInfo r c }, { k with errs := sset k.errs c none none })
  | none => k.collErr.map fun r => ({ r with info := raisedInfo r 8 }, { k with collErr := none })

/-- Release of R370; the array is bank 0's. -/
def release (s : State) (c : Nat) : State :=
  let b := (getCore s c).active
  let slot := (getBank s c b).launch
  let s := if b then s else releaseHand s c
  let s := vacate s c b
  match slot with
  | none => s
  | some n => match getLaunch s n with
    | none => s
    | some l => retireIf (setLaunch s n (some { l with exited := l.exited ++ [c] })) n

def execExitComplete (core : Nat) (s : State) : Out :=
  forCore core <|
    let b := curBank s core
    if b.st != .running || !b.exiting || b.stopping || b.pend.isSome || !b.due.isEmpty || !exitReady s core then s
    else
      match takeError (getCore s core) with
      | some (r, k) =>
        let pc := b.pcOf .a
        takeFault (setCore s core k) core { r with engine := 3, pc := pc } (some pc)
      | none => release s core

end Sys2Proof.Machine
end

