-- ==== Sys2Proof/Machine/Tempo.lean ====
section
/-! DEFINITION. Tempo: M.TEMPO with its checks (R280, R281), M.TCUT, M.TLOOK and M.TSTAT (R289, R292, R295), the session at
its boundaries and in its waits (R282-R285, R326), its events and their delivery (R286-R288), and its end (R290, R291). -/
namespace Sys2Proof.Machine

/-! ### The parameters (R280) -/

/-- The step time of a slot's formats (R250, R280). -/
def stepTime (f : FmtSlot) : Nat := if f.fa == 1 || f.fa == 2 then 64 else if f.fb == 5 then 16 else 32

/-- Registers m1 to m8 whose reserved bits are set or a field is out of range (R280, R281). -/
def tempoRegBad (f : FmtSlot) (r n : Nat) : Bool :=
  match r with
  | 1 => fld n 24 40 != 0 || fld n 0 24 < stepTime f
  | 2 => fld n 33 31 != 0 || fld n 0 33 == 0 || 2 ^ 32 < fld n 0 33
  | 3 =>
    let qa := fld n 0 7
    let qb := fld n 8 7
    fld n 23 41 != 0 || bit n 19 || bit n 15 || bit n 7 || 4 < fld n 20 3 || 4 < fld n 16 3 ||
      !((8 ≤ qb && qb ≤ 15) || isInLink qb || qb == 127) || !(qa ≤ 7 || isInLink qa)
  | 4 => fld n 7 57 != 0 || !((16 ≤ fld n 0 7 && fld n 0 7 ≤ 23) || isOutLink (fld n 0 7))
  | 5 => fld n 6 58 != 0
  | 6 => fld n 16 48 != 0 || fld n 0 16 == 0
  | 7 => fld n 16 48 != 0 || fld n 1 7 != 0 || (bit n 0 == (fld n 8 8 == 0))
  | _ => fld n 16 48 != 0 || fld n 0 16 == 0

/-! ### M.TEMPO (R281) -/

/-- The first set bit of a mask at or after place `i`, counting upward modulo 16. -/
def nextBit (mask i : Nat) : Nat := ((tab (fun j => (i + j) % 16) 0 16).find? fun j => bit mask j).getD 0

/-- A session that nothing has been done for. -/
def newSession (b : Bank) (order : Option Nat) : Session where
  par := (tab (fun r => r) 1 8).foldl (fun m r => sset m r (b.rm r) 0) []
  phase := .queued
  c := 0
  na := fld (b.rm 3).toNat 16 3
  nb := fld (b.rm 3).toNat 20 3
  nd := 0
  ptr := BitVec.ofNat 4 (nextBit (fld (b.rm 8).toNat 0 16) 0)
  cut := none
  kill := false
  pushed := 0
  remain := 0
  launch := order
  ctx := b.ctx
  mark := 0
  look := Three.all 0
  left := TempoRegs.zero

/-- TEMPO's CSRs at the issue of M.TEMPO (R281, R294): the lookaheads stay. -/
def TempoRegs.start (r : TempoRegs) (z : Session) : TempoRegs :=
  { TempoRegs.zero with
    looka := r.looka, lookb := r.lookb, lookd := r.lookd, kprog := r.kprog, pacc := r.pacc, st := 1
    policy := z.strict, maxMiss := BitVec.ofNat 8 z.maxMiss }

def tempoEffect (i : Instr) (s : State) : Act State := do
  let b := curBank s s.core
  let z := newSession b (launchOrder s s.core)
  need (b.mat.member && (getCore s s.core).session.isNone) badValue
  let f ← b.curSlot
  match (tab (fun r => r) 1 8).find? fun r => tempoRegBad f r (z.reg r) with
  | some r => badNumber r
  | none => .ok ()
  need (z.accOf 0 != z.accOf 1 && z.accOf 0 < b.mat.nacc.toNat && z.accOf 1 < b.mat.nacc.toNat) (badNumber 5)
  need (b.mat.shapeM != 0 && b.mat.shapeN != 0 && b.mat.shapeK != 0) badValue
  need (!(z.qb == 127 && (!b.mat.held || b.mat.heldFmt != f.fb))) (badNumber 3)
  need (linkBound s z.qa && linkBound s z.qb) (badNumber 3)
  need (linkBound s z.qd) (badNumber 4)
  let s ← queueCmd i s
  .ok (modCore (modCur s s.core fun b => { b with tempo := b.tempo.start z }) s.core fun k => { k with session := some z })

def execMTempo (t : BitVec 4) (s : State) : Out := issue (.mTempo t) .m t false (tempoEffect (.mTempo t)) s

/-! ### M.TCUT, M.TLOOK and M.TSTAT (R289, R292, R295) -/

/-- A later cut with ABT = 1 turns CUT into ABORT; one with ABT = 0 leaves an ABORT as it is. -/
def Session.cutBy (z : Session) (abt : Bool) : Session := { z with cut := some (abt || z.cut.getD false) }

/-- The kind of the pending cut: 3 ABORT, 2 CUT (R290). -/
def cutKind (abt : Bool) : Nat := if abt then 3 else 2

/-- The cut is left pending on the core's session; one that waits after a miss ends at once (R285, R292). -/
def cutSession (s : State) (c : Nat) (abt : Bool) : State :=
  match (getCore s c).session with
  | some z =>
    let z := z.cutBy abt
    endWaiting s c z (cutKind (z.cut.getD false))
  | none => s

def execMTcut (t : BitVec 4) (a : BitVec 1) (s : State) : Out :=
  issue (.mTcut t a) .m t false (fun s => .ok (cutSession s s.core (a == 1))) s

def Bank.setLook (b : Bank) (x y z : Word) : Act Bank :=
  if 255 < x.toNat ∨ 255 < y.toNat ∨ 255 < z.toNat then badValue
  else .ok { b with tempo := { b.tempo with looka := x.setWidth 8, lookb := y.setWidth 8, lookd := z.setWidth 8 } }

def execMTlook (t : BitVec 4) (d a b : BitVec 6) (s : State) : Out :=
  issue (.mTlook t d a b) .m t false (onBank fun k => k.setLook (k.rm d.toNat) (k.rm a.toNat) (k.rm b.toNat)) s

def execMTstat (t : BitVec 4) (d : BitVec 6) (n : BitVec 4) (s : State) : Out :=
  issue (.mTstat t d n) .m t false
    (fun s =>
      let b := curBank s s.core
      let w := csrValue s s.core (getCore s s.core).active b.issue (0x0B0 + n.toNat)
      .ok (modCur s s.core fun b => b.wm d.toNat w)) s

/-! ### The session and its record -/

/-- The session of a core, with its record, the oldest of the command queue. -/
def tempoNow (s : State) (c : Nat) : Option (Session × Cmd) :=
  let k := getCore s c
  match k.session, k.cmds with
  | some z, m :: _ => if m.op == 0x40 then some (z, m) else none
  | _, _ => none

/-- A session that ends, or that raises the events of a boundary, goes on while its context is being stopped (R355). -/
def tempoEnds (s : State) (c : Nat) : Bool :=
  let k := getCore s c
  (getTable s (tableOf c)).holder == some c && !k.bank0.still

/-- The session moves: its core holds the hand, its context is not stopped, and the events held at its last RUN are out
(R284, R355, R357). -/
def tempoMoves (s : State) (c : Nat) (z : Session) : Bool :=
  let k := getCore s c
  tempoEnds s c && !k.halting && !(k.heldEvents.any fun e => decide (e.id < z.mark))

/-- The session reaches the head of the queue and starts: boundary 0 (R281, R284). -/
def execTempoSessionStart (core : Nat) (s : State) : Out :=
  forCore core <|
    match tempoNow s core with
    | none => s
    | some (z, m) =>
      if z.phase != .queued || !tempoMoves s core z || turnOver s core 0 then s
      else
        let s := putCmd s core 0 { m with begun := true }
        modTempo (putSession s core { z with phase := .boundary }) core z fun r => { r with st := 2 }

/-! ### Events (R286-R288) -/

/-- An event word (R286). -/
def eventOf (kind queue seq beat : Nat) : Word :=
  w64 (kind * 2 ^ 56 + low 8 queue * 2 ^ 48 + low 16 seq * 2 ^ 32 + low 32 beat)

/-- The events that a session can hold (R288). -/
def heldDepth : Nat := 16

/-- The places for events that are free. -/
def heldRoom (s : State) (c : Nat) : Nat := heldDepth - (getCore s c).heldEvents.length

/-- Hold an event of session `z` for a table-local core. -/
def holdEvent (s : State) (c : Nat) (z : Session) (i : Nat) (w : Word) : State :=
  let (id, s) := fresh s
  modCore s c fun k => { k with heldEvents := k.heldEvents ++ [⟨id, 16 * tableOf c + i, z.launch, w⟩] }

/-- Raise an event for the next core of FMASK in turn. -/
def raiseNext (s : State) (c : Nat) (z : Session) (w : Word) : State × Session :=
  let i := nextBit z.fmask z.ptr.toNat
  (holdEvent s c z i w, { z with ptr := BitVec.ofNat 4 (nextBit z.fmask (i + 1)) })

/-- Raise an event for every core of FMASK, in ascending order. -/
def raiseAll (s : State) (c : Nat) (z : Session) (w : Word) : State :=
  ((tab (fun i => i) 0 16).filter fun i => bit z.fmask i).foldl (fun s i => holdEvent s c z i w) s

/-- Whether the places for an event to every core of FMASK are free (R288, log 41). -/
def roomForAll (s : State) (c : Nat) (z : Session) : Bool := ones 16 z.fmask ≤ heldRoom s c

/-- The SEQ that the entry of group `j` carries or will carry (R263). -/
def drainSeq (s : State) (c : Nat) (z : Session) (j : Nat) : Nat :=
  (sget (getTable s (tableOf c)).pushes z.qd 0 + BitVec.ofNat 32 j - BitVec.ofNat 32 z.pushed).toNat

/-- The next event that RaiseDue raises at boundary `c`, and the session after it (R287), by the lookaheads of the boundary (R289).
With LOOKD = 0 the DRAINED of an entry that is in QD is due. -/
def nextDue (s : State) (c : Nat) (z : Session) : Option (Word × Session) :=
  let hi := fun (look : BitVec 8) => min z.limit (z.c + look.toNat + 1)
  let hd := if z.look.m == 0 then z.pushed else min z.limit (z.c + z.look.m.toNat) / z.kt
  if !isLink z.qa && decide (z.na < hi z.look.a) then some (eventOf 1 z.qa z.na z.na, { z with na := z.na + 1 })
  else if !isLink z.qb && z.qb != 127 && decide (z.nb < hi z.look.x) then
    some (eventOf 2 z.qb z.nb z.nb, { z with nb := z.nb + 1 })
  else if !isLink z.qd && decide (z.nd < hd) then
    some (eventOf 3 z.qd (drainSeq s c z z.nd) ((z.nd + 1) * z.kt - 1), { z with nd := z.nd + 1 })
  else none

/-- RaiseDue, as far as at most `n` free places let it go (R287, R288). -/
def raiseDue (s : State) (c : Nat) : Nat → Session → State × Session
  | 0, z => (s, z)
  | n + 1, z =>
    match nextDue s c z with
    | none => (s, z)
    | some (w, z) =>
      let (s, z) := raiseNext s c z w
      raiseDue s c n z

/-- An event can leave: it is discarded where its target runs no context of the launch, and otherwise its EVQ has room. -/
def canDeliver (s : State) (e : HeldEvent) : Bool := !e.arrives s || (getBank s e.target false).evq.length < 64

/-- An event that is discarded counts in TEMPO.STAT.LOST of its holder (R288). -/
def countLost (s : State) (c : Nat) (e : HeldEvent) : State :=
  match (getCore s c).shownSession with
  | some z =>
    if z.launch == e.launch then modTempo s c z fun r => { r with lost := if r.lost = 0xFFFF then 0xFFFF else r.lost + 1 }
    else s
  | none => s

/-- The oldest event that can leave is delivered, or discarded and counted (R288). -/
def execEventDeliver (core : Nat) (s : State) : Out :=
  forCore core <|
    let k := getCore s core
    match (if k.bank0.st == .stopped then none else lfind (canDeliver s) k.heldEvents 0) with
    | none => s
    | some i =>
      match k.heldEvents[i]? with
      | none => s
      | some e =>
        let free := fun (s : State) => modCore s core fun k => { k with heldEvents := ldel k.heldEvents i }
        if e.arrives s then modBank (free s) e.target false fun b => { b with evq := b.evq ++ [e.word] }
        else free (countLost s core e)

/-! ### Beats (R282, R283) -/

/-- The link queue for which the session ends with KILL (R326): one that the beat needs and for which the session is stale, or an
empty or full one whose port is lost. -/
def beatLink (s : State) (c : Nat) (z : Session) (m : Cmd) : Option (Nat × Nat) :=
  let n := fun q => (tileQueue s (tableOf c) q).length
  let needs : List (Nat × Bool) := [(z.qa, n z.qa == 0), (z.qb, decide (n z.qb < if z.qb = z.qa then 2 else 1))] ++
    (if z.completes then [(z.qd, !tileRoom s (tableOf c) z.qd)] else [])
  match needs.find? fun p => m.stale.contains p.1 with
  | some p => some (4, p.1)
  | none => (needs.find? fun p => p.2 && linkDead s p.1).map fun p => (3, p.1)

/-- The multiplication that beat `c` performs. -/
def beatCmd (z : Session) (m : Cmd) : Cmd :=
  { m with
    kx := none
    word := mk 2 0 0x30 (BitVec.ofNat 3 (z.accOf (z.c / z.kt)) ++ BitVec.ofNat 7 z.qa ++ BitVec.ofNat 7 z.qb ++
      BitVec.ofBool (z.c % z.kt != 0)) }

/-- All groups of a multiplication, one after the other. -/
def mulAll (k : Core) (m : Cmd) (ea eb : TileEntry) : Core :=
  (tab (fun g => g) 0 m.groups).foldl (fun k g => mulGroup k m ea eb g) k

/-- RunBeat (R282). An entry that fails its checks ends the session as KILL. -/
def runBeat (s : State) (c : Nat) (z : Session) (m : Cmd) : State :=
  match popTile s (tableOf c) z.qa with
  | none => s
  | some (ea, s) =>
    let w := beatCmd z m
    match popB s c w with
    | none => s
    | some (eb, s) =>
      let own := (getCore s c).arrayOwner
      let eb := if z.qb = 127 then { eb with owner := own } else eb
      match badEntry own [(z.qa, ea, some w.fa), (z.qb, eb, some w.fb)] with
      | some f => finishTempo (entryFault s c z.ctx f) c z 5
      | none =>
        let s := modCore s c fun k =>
          let k := mulAll k w ea eb
          if ea.poison || eb.poison then setPois k w.acc else k
        let s := putSession s c { z with c := z.c + 1, phase := .boundary }
        modTempo s c z fun r => { r with beat := BitVec.ofNat 33 (z.c + 1) }

/-- A drain whose link destination is lost or stale, and full, is discarded (R326). -/
def drainLost (s : State) (c : Nat) (z : Session) (m : Cmd) : Bool :=
  isLink z.qd && (linkDead s z.qd || m.stale.contains z.qd) &&
    decide (tileDepth z.qd ≤ (tileQueue s (tableOf c) z.qd).length)

/-- BeginDrain: the entry of group `j` is pushed into its reserved place (R282), and announced if LOOKD is 0 (R287). -/
def tempoDrain (s : State) (c : Nat) (z : Session) (m : Cmd) (j : Nat) : State × Session :=
  if drainLost s c z m then (s, z)
  else
    let s := pushNumbered s (tableOf c) z.qd (drainEntry (getCore s c) m (z.accOf j))
    let z := { z with pushed := z.pushed + 1 }
    if z.look.m == 0 && z.nd ≤ j && !isLink z.qd then
      raiseNext s c { z with nd := j + 1 } (eventOf 3 z.qd (drainSeq s c z j) ((j + 1) * z.kt - 1))
    else (s, z)

/-- What ends a session that does not go on: a pending cut, or the end of its launch (R285). -/
def Session.ender (z : Session) : Option Nat :=
  match z.cut with
  | some abt => some (cutKind abt)
  | none => if z.kill then some 5 else none

/-- A miss (R283): MISS is raised, and under STRICT the session may end with TEMPO_MISS. A cut that is pending by then ends it at once
(R292). -/
def tempoMiss (s : State) (c : Nat) (z : Session) (sub q : Nat) : State :=
  let r := tempoOf s c z
  let miss : BitVec 32 := if r.miss = 0xFFFFFFFF then r.miss else r.miss + 1
  let consec : BitVec 8 := if r.consec = 255 then 255 else r.consec + 1
  let s := modTempo s c z fun r => { r with miss := miss, consec := consec }
  let s := raiseAll s c z (eventOf 5 q miss.toNat z.c)
  if z.strict && consec.toNat == z.maxMiss then
    finishTempo (arrayFault s c z.ctx .tempoMiss (faultInfo sub 0 0 z.c)) c z 4
  else
    match z.ender with
    | some kind => finishTempo s c z kind
    | none => putSession s c { z with phase := .waiting }

/-- The cause for which the session ends at this boundary; none where it goes on (R285). -/
def boundaryEnd (z : Session) (link : Option (Nat × Nat)) : Option Nat :=
  if z.c = z.limit then some 1
  else z.ender.or (if link.isSome then some 5 else none)

/-- The rest of a boundary at which the session goes on: the due events, as places are free for them, then the beat or a miss.
A miss comes once there is room for all of its events (R287, R288, log 41). -/
def goOn (s : State) (c : Nat) (z : Session) (m : Cmd) : State :=
  let (s, z) := raiseDue s c (heldRoom s c) z
  let s := putSession s c z
  if (nextDue s c z).isSome then s
  else
    match notReady s c z with
    | none => runBeat (modTempo s c z fun r => { r with consec := 0 }) c z m
    | some (sub, q) => if roomForAll s c z then tempoMiss s c z sub q else s

/-- Boundary `c` (R285): the end, or the due events and the beat or a miss. -/
def tempoBoundary (s : State) (c : Nat) (z : Session) (m : Cmd) : State :=
  let r := tempoOf s c z
  let z := { z with look := ⟨r.looka, r.lookb, r.lookd⟩ }
  let link := if z.kill then none else beatLink s c z m
  let done := boundaryEnd z link
  let due := z.c != 0 && z.kt != 0 && z.c % z.kt == 0 && z.pushed < z.c / z.kt && done != some 3 && done != some 5
  let (s, z) := if due then tempoDrain s c z m (z.c / z.kt - 1) else (s, z)
  match done with
  | some kind =>
    let s := match (if kind = 5 then link else none) with
      | some (sub, q) => linkFault s c z.ctx sub q
      | none => s
    finishTempo s c z kind
  | none => goOn s c { z with phase := .raising } m

/-- The session passes a boundary unless 16 events are still held (R288), or goes on with the events of one. -/
def execTempoBoundary (core : Nat) (s : State) : Out :=
  forCore core <|
    match tempoNow s core with
    | none => s
    | some (z, m) =>
      if heldRoom s core = 0 then s
      else if z.phase == .boundary && tempoMoves s core z then tempoBoundary s core z m
      else if z.phase == .raising && tempoEnds s core then goOn s core z m
      else s

/-- The wait after a miss ends: the session is stale for a queue that the beat needs, or the beat is ready and runs, or the session
ends (R285, R326). -/
def execTempoMissWaitEnd (core : Nat) (s : State) : Out :=
  forCore core <|
    match tempoNow s core with
    | none => s
    | some (z, m) =>
      if z.phase != .waiting || !tempoMoves s core z then s
      else
        match beatLink s core z m with
        | some (sub, q) => finishTempo (linkFault s core z.ctx sub q) core z 5
        | none =>
          if (notReady s core z).isNone then runBeat s core z m
          else
            match z.ender with
            | some kind => finishTempo s core z kind
            | none => s

/-! ### The end (R290, R291) -/

/-- Steps 3 and 4 of Finish: the accumulator left in place, CAUSE and STATE. -/
def finishMark (z : Session) (kind : BitVec 3) (r : TempoRegs) : TempoRegs :=
  let r := { r with cause := kind, st := 0 }
  if z.c % z.kt ≠ 0 then
    { r with pvalid := true, pacc := BitVec.ofNat 3 (z.accOf (z.c / z.kt)), kprog := BitVec.ofNat 16 (z.c % z.kt) }
  else if (kind = 3 ∨ kind = 5) ∧ z.c ≠ 0 then
    { r with pvalid := true, pacc := BitVec.ofNat 3 (z.accOf (z.c / z.kt - 1)), kprog := BitVec.ofNat 16 z.kt }
  else r

/-- A void entry of R291. -/
def voidEntry (k : Core) (m : Cmd) : TileEntry :=
  { owner := k.arrayOwner, job := 0, seq := 0, poison := false, vcols := 0, vrows := 0, fmt := m.fo, bytes := [] }

/-- Finish (R291): a void entry for a group announced and not pushed once there is room, or else, once there is room for END, the
marks, END and the end of the command. -/
def execTempoFinish (core : Nat) (s : State) : Out :=
  forCore core <|
    match tempoNow s core with
    | none => s
    | some (z, m) =>
      match z.phase with
      | .finishing kind =>
        if !tempoEnds s core then s
        else if z.pushed < z.nd then
          (if tileRoom s (tableOf core) z.qd then
            putSession (pushNumbered s (tableOf core) z.qd (voidEntry (getCore s core) m)) core { z with pushed := z.pushed + 1 }
           else s)
        else if roomForAll s core z then
          let s := modTempo s core z (finishMark z kind)
          let s := raiseAll s core z (eventOf 4 kind.toNat z.pushed z.c)
          let s := modCore s core fun k =>
            { k with session := none, lastSession := some z, cmds := k.cmds.drop 1 }.countCmd
          passHand s (tableOf core)
        else s
      | _ => s

end Sys2Proof.Machine
end

