-- ==== Sys2Proof/Machine/Interruption.lean ====
section
/-! DEFINITION. Taking the faults that wait for the core to drain (R123, R349), stopping a context (R355-R357), and the
commands of CCc.CTL: RUN with what its snapshot window was given (R357-R362), EVICT, RESTORE, RELEASE, RETRY and ABORT
(R352, R354, R361). -/
namespace Sys2Proof.Machine

/-! ### Faults that wait (R123, R349) -/

/-- A pending fault of the running context is taken once every issued word has completed. -/
def takePending (s : State) (c : Nat) (service : Bool) : State :=
  let b := curBank s c
  match b.pend with
  | some p => if !p.abort && isService p.fr.code == service && b.st == .running && b.drained then takeFault s c p.fr p.all else s
  | none => s

def execServiceFaultDrain (core : Nat) (s : State) : Out := forCore core (takePending s core true)

/-- A context whose kernel has been aborted gives up its bank once every issued word has completed (R128). -/
def endAbort (s : State) (c : Nat) : State :=
  let b := getBank s c false
  if (b.pend.map fun p => p.abort) == some true && b.drained then vacate s c false else s

def execFaultTake (core : Nat) (s : State) : Out := forCore core (endAbort (takePending s core false) core)

/-- The owner mismatch of a job that is raised on its context leaves ERR (R363). Errors of commands of the array are the M
engine's. -/
def clearMismatch (s : State) (c : Nat) (r : FaultRec) : State :=
  if r.code == FaultCode.ownerMismatch.num && r.engine == Engine.tag .a then
    modCore s c fun k =>
      let ch := fld r.info.toNat 16 16
      let same := fun (o : Option FaultRec) => match o with
        | some q => q.code == r.code && q.addr == r.addr
        | none => false
      if ch = 8 then (if same k.collErr then { k with collErr := none } else k)
      else if same (sget k.errs ch none) then { k with errs := sset k.errs ch none none } else k
  else s

/-- The oldest asynchronous fault is taken at an instruction boundary of its engine (R123). -/
def execAsyncFaultTake (core : Nat) (s : State) : Out :=
  forCore core <|
    let b := curBank s core
    match b.due with
    | [] => s
    | r :: l =>
      if b.st != .running || b.stopping || b.pend.isSome || !b.drained || b.round.waiting then s
      else
        let s := clearMismatch (modCur s core fun x => { x with due := l }) core r
        takeFault s core { r with pc := b.pcOf ((engineOf r.engine).getD .a) } none

/-! ### STOP (R355-R357) -/

/-- A CTL write with command `n`: BANK keeps its number (R347). -/
def forBank (c b n : Nat) (r : Bool → State → State) (s : State) : Out :=
  forCore c <|
    if b < 2 then
      let v := b == 1
      hostWrite s .core (0x40 * c) (256 * b + n) (r v (modCore s c fun k => { k with ctlBank := v }))
    else s

/-- A command that the bank's state does not allow is refused. -/
def refuse (s : State) (c : Nat) (cause : BitVec 4) : State := modCore s c fun k => { k with err := cause }

/-- STOP: no engine of the context issues another word until the stop is complete. -/
def ccStop (c : Nat) (b : Bool) (s : State) : State :=
  let x := getBank s c b
  if !(x.st == .running || x.st == .ready || x.st == .halted || x.st == .serviceWait) then refuse s c 2
  else if !b && !x.pe then refuse s c 1
  else setBank s c b { x with stopping := true }

def execCcStop (core bank : Nat) (s : State) : Out := forBank core bank 1 (ccStop core) s

/-- The array stands where R356 and R357 let a context stop: at most its oldest command is under way, at a group boundary,
and its session, if it runs, is at a boundary or in a wait. -/
def Core.arrayStill (k : Core) : Bool :=
  !(k.cmds.any fun m => m.finished) && !(k.cmds.drop 1).any (fun m => m.begun) &&
    match k.session with
    | some z => match z.phase with
      | .finishing _ | .raising => false
      | _ => true
    | none => true

/-- The entries that the oldest command popped go back to the heads of their queues; a drain starts afresh and keeps no place
(R356). -/
def unpop (s : State) (c : Nat) : State :=
  match (getCore s c).cmds with
  | [] => s
  | m :: l =>
    let t := tableOf c
    let back := fun (s : State) (q : Nat) (e : Option TileEntry) => match e with
      | some e => if q = 127 then s else setTileQueue s t q (e :: tileQueue s t q)
      | none => s
    let s := if m.op == 0x32 then s else back (back s m.qb m.eb) m.qa m.ea
    let m := if m.op == 0x32 then { m with begun := false, gnext := 0 } else m
    modCore s c fun k => { k with cmds := { m with ea := none, eb := none } :: l }

/-- The session stands still: REMAIN is a free value while a boundary is ahead (log 11). -/
def standStill (s : State) (c : Nat) : State :=
  match (getCore s c).session with
  | some z =>
    if z.phase == .boundary then
      let (v, s) := freeValue s 24
      modCore s c fun k => { k with session := some { z with remain := BitVec.ofNat 24 v } }
    else s
  | none => s

/-- Registers of the window that a context in bank 1 has no use for keep what was written to them (R345, R358). -/
def Bank.kept (x : Bank) : SMap Word := x.staged.filter fun p => 0x1D00 ≤ p.1 && p.1 < 0x2000 && p.1 != 0x1D08

/-- The context in a bank of core `c` is stopped: words that wait count as unissued. -/
def Bank.halt (x : Bank) (c n : Nat) : Bank :=
  let y := { x with
    st := .stopped
    stopping := false
    wait := .none
    walked := []
    kx := Three.all none
    exiting := false
    round := { x.round with waiting := false }
    svcPend := x.svcWaits
    shsel := false
    staged := x.kept }
  { y.showDue with hdr := y.liveHdr c n }

/-- The stop is complete once every issued word has completed and the array stands still. -/
def stopDone (s : State) (c : Nat) (b : Bool) : State :=
  let k := getCore s c
  let x := k.bank b
  if !x.stopping || !x.drained || x.pend.isSome || !(b || k.arrayStill) then s
  else
    let s := if b then s else standStill (unpop s c) c
    let s := modBank s c b fun x => x.halt c (k.accsOf b)
    if x.st == .running then switchBank s c else s

def execStopComplete (core bank : Nat) (s : State) : Out :=
  forCore core (if bank < 2 then stopDone s core (bank == 1) else s)

/-! ### What RUN takes from the snapshot window (R358-R362) -/

/-- The staged value of a register of the window, or what it read before. -/
def Bank.stagedAt (x : Bank) (key : Nat) (live : Word) : Word := sget x.staged key live

/-- The issue state that the window holds; `base` tells the live parts from the trap shadow's (R362). -/
def Bank.restoredIssue (x : Bank) (base : Nat) (i : Issue) : Issue :=
  let g := fun off => (x.stagedAt (base + off) (snapIssue i off)).toNat
  let stack := fun e => ((tab (fun n => w64 (g (0x400 + 0x100 * e + 8 * n))) 0 (min 16 (low 5 (g (0x480 + 0x100 * e)))))).reverse
  let outcomes := fun q =>
    tab (fun n => BitVec.ofNat 32 (g (0x800 + 0x100 * q + n / 2 * 8) >>> (32 * (n % 2)))) 0 (min 32 (low 6 (g (0x880 + 0x100 * q))))
  let entry := fun j n (vec : Bool) =>
    let at_ := if j = 6 then 0x1A00 + 8 * n else 0x2000 + 0x1000 * j + 512 * n
    (⟨vec, BitVec.ofNat 4096 (pack 64 (tab (fun w => g (at_ + 8 * w)) 0 (if vec && j != 6 then 64 else 1))), true, 0⟩ : QEntry)
  let queue := fun j =>
    let q := g (0x1A80 + 8 * j)
    tab (fun n => entry j n (bit q (8 + n) && n < 8)) 0 (min (queueDepth j) (low 7 q))
  { i with
    rstk := ⟨stack 0, stack 1, stack 2⟩
    oqs := (tab (fun q => q) 0 6).foldl (fun m q => sset m q (outcomes q) []) []
    queues := (tab (fun j => j) 0 7).foldl (fun m j => sset m j (queue j) []) [] }

/-- The link queues that a stale record of the window is stale for: all that it names, or for M.TEMPO its session (log 20). -/
def Cmd.linkNames (m : Cmd) (z : Session) : List Nat :=
  (if m.op = 0x40 then [z.qa, z.qb, z.qd] else [m.qa, m.qb] ++ m.fwd.toList).filter isLink

/-- A command record of the window (R359), but for what it is stale for. -/
def cmdFrom (g : Nat → Nat) (id n cur ctx : Nat) : Cmd :=
  let w0 := g (0x1B00 + 32 * n)
  let w1 := g (0x1B08 + 32 * n)
  let first := n == 0 && bit cur 0
  { Cmd.blank id ctx (BitVec.ofNat 32 w0) with
    kx := if bit w0 54 then some (BitVec.ofNat 22 (w0 >>> 32)) else none
    shapeM := BitVec.ofNat 8 w1
    shapeN := BitVec.ofNat 8 (w1 >>> 8)
    shapeK := BitVec.ofNat 8 (w1 >>> 16)
    slot := BitVec.ofNat 8 (w1 >>> 24)
    fa := BitVec.ofNat 4 (w1 >>> 32)
    fb := BitVec.ofNat 4 (w1 >>> 36)
    fo := BitVec.ofNat 4 (w1 >>> 40)
    sat := bit w1 44
    mode := BitVec.ofNat 3 (w1 >>> 45)
    seed := BitVec.ofNat 32 (g (0x1B10 + 32 * n))
    begun := first
    gnext := if first then BitVec.ofNat 8 (cur >>> 8) else 0
    fwdDone := first && bit cur 1 }

/-- The session of the window, as its context's TEMPO CSRs place it; `old` is the one that it replaces. -/
def sessionFrom (g : Nat → Nat) (r : TempoRegs) (old : Option Session) (order : Option Nat) (ctx : Nat) : Session :=
  let ses := g 0x1D80
  let par := (tab (fun j => j) 1 8).foldl (fun m j => sset m j (w64 (g (0x1D38 + 8 * j))) 0) []
  let waits := bit ses 0
  let z : Session := {
    par := par
    phase := if r.st = 1 then .queued else if waits then .waiting else .boundary
    c := r.beat.toNat
    na := low 32 (g 0x1D88)
    nb := fld (g 0x1D88) 32 32
    nd := low 32 (g 0x1D90)
    ptr := BitVec.ofNat 4 (ses >>> 28)
    cut := if bit ses 37 then some (bit ses 38) else none
    kill := (old.map fun z => z.kill).getD false
    pushed := 0
    remain := BitVec.ofNat 24 (ses >>> 1)
    launch := ((old.map fun z => z.launch).getD order)
    ctx := ctx
    mark := 0
    look := Three.all 0
    left := TempoRegs.zero }
  let whole := z.c / z.kt
  { z with pushed := if z.c != 0 && z.c % z.kt == 0 && !waits then whole - 1 else whole }

/-- The highest set bit of a 16-bit mask below place `i`, counting downward modulo 16. -/
def prevBit (mask i : Nat) : Nat := ((tab (fun j => (i + 31 - j) % 16) 0 16).find? fun j => bit mask j).getD 0

/-- The table-local targets of held events, the youngest first: NEEDA, NEEDB and DRAINED came in turn up to the delivery
pointer, MISS and END to every core in ascending order (R286, R288; log 23). -/
def targetsBack (mask : Nat) : Nat → Option (Word × Nat) → List Word → List Nat
  | _, _, [] => []
  | p, last, w :: l =>
    if fld w.toNat 56 8 ≤ 3 then
      let i := prevBit mask p
      i :: targetsBack mask i none l
    else
      let i := match last with
        | some (v, j) => if v = w then prevBit mask j else prevBit mask 16
        | none => prevBit mask 16
      i :: targetsBack mask p (some (w, i)) l

/-- The held events of the window, numbered from `id` on. -/
def heldFrom (g : Nat → Nat) (c id : Nat) (z : Session) (old : List HeldEvent) : List HeldEvent :=
  let words := tab (fun i => w64 (g (0x1E00 + 8 * i))) 0 (min 16 (fld (g 0x1D80) 32 5))
  if old.map (fun e => e.word) = words then old
  else
    let is := (targetsBack (fld (sget z.par 8 0).toNat 0 16) z.ptr.toNat none words.reverse).reverse
    numbered (fun i (p : Nat × Word) => (⟨id + i, 16 * tableOf c + p.1, z.launch, p.2⟩ : HeldEvent)) 0 (List.zip is words)

/-- The command records of the window, numbered from `id` on. -/
def recordsFrom (g : Nat → Nat) (id cur : Nat) (z : Session) : List Cmd :=
  tab (fun i =>
    let m := cmdFrom g (id + i) i cur z.ctx
    if bit (g (0x1B00 + 32 * i)) 55 then { m with stale := m.linkNames z } else m) 0 (min 16 (low 5 (g 0x1D08)))

/-- What bank 1's window holds: of its records only those that need no hand run, since the context has no use of the array (R345,
log 53). -/
def restoreQueue (s : State) (c : Nat) : State :=
  let g := fun off => (snapGet s c true off).toNat
  let l := recordsFrom g s.seq 0 (sessionFrom g TempoRegs.zero none none 0)
  modCore { s with seq := s.seq + l.length } c fun k => { k with cmds1 := l.filter fun m => !m.needsHand }

/-- The commands, the session and the held events that bank 0's window holds. The events of a session that has ended are held
under the parameters that the window shows (R357). -/
def restoreArray (s : State) (c : Nat) : State :=
  let g := fun off => (snapGet s c false off).toNat
  let k := getCore s c
  let n := min 16 (low 5 (g 0x1D08))
  let z := sessionFrom g k.bank0.tempo k.shownSession (launchOrder s c) k.bank0.ctx
  let cmds := recordsFrom g s.seq (g 0x1D00) z
  let runs := cmds.any fun m => m.op == 0x40
  let held := heldFrom g c (s.seq + n) z k.heldEvents
  setCore { s with seq := s.seq + n + held.length } c
    { k with cmds := cmds, session := if runs then some z else none
             lastSession := if runs then k.lastSession else some z, heldEvents := held }

/-- The fault code that APEND stands for (R359). -/
def apendFault (n : Nat) : FaultCode :=
  if n = 1 then .tempoMiss else if n = 2 then .link else if n = 3 then .ownerMismatch else .illegal

/-- The asynchronous faults of a context that runs again: the first as APEND and the FAULT images say. -/
def Bank.apendDue (x : Bank) : List FaultRec :=
  let n := fld x.hdr.toNat 28 3
  if n = 0 then []
  else { x.fault with code := (apendFault n).num, info := x.fault.info ||| (1 : Word) <<< 63 } :: x.due.drop 1

/-- Something else than a CSR image was written to the window. -/
def Bank.wasPut (x : Bank) : Bool := x.staged.any fun p => !isImage p.1

/-- The context takes what was written to its window. -/
def takeSnapshot (s : State) (c : Nat) (b : Bool) : State :=
  let x := getBank s c b
  let s := if !x.wasPut then s else if b then restoreQueue s c else restoreArray s c
  modBank s c b fun y =>
    let y := if !x.wasPut then y else
      { y with
        issue := x.restoredIssue 0 x.issue
        shadow := if x.trapActive then x.restoredIssue 0x10000 x.shadow else x.shadow
        evq := tab (fun i => x.stagedAt (0x1800 + 8 * i) (nth x.evq i 0)) 0
          (min 64 (low 7 (x.stagedAt 0x1AB8 (w64 x.evq.length)).toNat)) }
    { y with due := x.apendDue, staged := if b then x.kept else [] }

/-- RUN (R361). -/
def ccRun (c : Nat) (b : Bool) (s : State) : State :=
  let x := getBank s c b
  if x.st != .stopped then refuse s c 2
  else if fld x.hdr.toNat 0 16 ≠ 0x0103 then refuse s c 3
  else if fld x.hdr.toNat 38 10 ≠ c then refuse s c 4
  else
    let (id, s) := fresh (takeSnapshot s c b)
    let s := if b then s else modCore s c fun k => { k with session := k.session.map fun z => { z with mark := id } }
    if x.svcPend then modBank s c b fun y => { y with st := .serviceWait, svcPend := false, svcSeen := true }
    else makeRunnable s c b

def execCcRun (core bank : Nat) (s : State) : Out := forBank core bank 2 (ccRun core) s

/-! ### EVICT, RESTORE and RELEASE (R354, R361) -/

/-- The array side of an evicted context goes at once. -/
def evictArray (s : State) (c : Nat) : State :=
  let s := releaseHand s c
  let s := modCore s c fun k => { k with cmds := [], session := none, lastSession := none, heldEvents := [] }
  arbitrate s (tableOf c)

/-- EVICT empties the bank; the core remembers whose jobs may still run (R361, R363). -/
def evict (s : State) (c : Nat) (b : Bool) : State :=
  let s := if b then s else evictArray s c
  let order := ((getBank s c b).launch.bind fun n => getLaunch s n).map fun l => l.order
  let s := modCore s c fun k =>
    let x := k.bank b
    { k with evicted := k.evicted ++ [⟨x.ctx, x.tenant, x.priv, order, []⟩] }
  emptyBank s c b

/-- EVICT (R361). -/
def ccEvict (c : Nat) (b : Bool) (s : State) : State :=
  if (getBank s c b).st == .stopped then evict s c b else refuse s c 2

def execCcEvict (core bank : Nat) (s : State) : Out := forBank core bank 3 (ccEvict core) s

/-- The launch that an evicted context belongs to, while it is active (R371). -/
def evictedLaunch (s : State) (e : Evicted) : Option (Nat × Launch) := (active s).find? fun p => e.launch == some p.2.order

/-- The scratchpad banks of a mask whose owner tag is not `t`. -/
def foreignBanks (k : Core) (mask : Nat) (t : Tenant) : Nat :=
  (tab (fun i => i) 0 16).foldl (fun m i => if bit mask i && sget k.spadOwner i none != some t then m + 2 ^ i else m) 0

/-- The evicted context that RESTORE brings back to bank `b`: of those with the tenant and the privilege of the header the oldest that
belongs to a launch, for bank 0, or to none, for bank 1; else the oldest of them, or a new one (log 46). -/
def Core.returning (k : Core) (b : Bool) (t : Tenant) (priv : Bool) (id : Nat) : Evicted :=
  let l := k.evicted.filter fun e => e.tenant == t && e.priv == priv
  ((l.find? fun e => e.launch.isSome != b).or l.head?).getD ⟨id, t, priv, none, []⟩

/-- The context that RESTORE makes of a header: registers of another owner read zero (R361, R370). -/
def Bank.restored (x : Bank) (t : Tenant) (from_ : Option (Nat × Launch)) (e : Evicted) : Bank :=
  let y := if x.owner = some t then { Bank.zero with a := x.a, s := x.s, m := x.m, v := x.v, k := x.k } else Bank.zero
  Bank.showDue { y with
    st := .stopped
    owner := some t
    tenant := t
    ctx := e.ctx
    due := e.due
    priv := x.hdrw.getLsbD 31
    svcPend := x.hdrw.getLsbD 27
    svcPast := x.answered
    hdr := x.hdrw &&& ~~~((1 : Word) <<< 26)
    hdrw := x.hdrw
    kern := from_.map fun p => p.2.kern
    launch := from_.map fun p => p.1
    pe := match from_ with
      | some p => recPe p.2.record
      | none => false }

/-- RESTORE (R361). -/
def ccRestore (c : Nat) (b : Bool) (s : State) : State :=
  let x := getBank s c b
  let n := x.hdrw.extractLsb' 32 4
  if x.st != .empty || (b && n != 0) then refuse s c 2
  else
    let t : Tenant := x.hdrw.extractLsb' 48 16
    let (id, s) := fresh s
    let e := (getCore s c).returning b t (x.hdrw.getLsbD 31) id
    let mask := fld (getCore s c).spmask.toNat (if b then 16 else 0) 16
    let s := takeSpad s c (foreignBanks (getCore s c) mask t) t
    let s := modCore s c fun k => { k with evicted := k.evicted.filter fun i => i.ctx != e.ctx }
    let s := modBank s c b fun x => x.restored t (if b then none else evictedLaunch s e) e
    if n = 0 then s
    else
      let s := modBank s c b fun x => { x with st := .restoring }
      arbitrate (modTable s (tableOf c) fun y => { y with reqs := y.reqs ++ [⟨c, some n⟩] }) (tableOf c)

def execCcRestore (core bank : Nat) (s : State) : Out := forBank core bank 4 (ccRestore core) s

/-- RELEASE: a halted context goes on after its HALT. -/
def ccRelease (c : Nat) (b : Bool) (s : State) : State :=
  if (getBank s c b).st == .halted then makeRunnable s c b else refuse s c 2

def execCcRelease (core bank : Nat) (s : State) : Out := forBank core bank 5 (ccRelease core) s

/-! ### Answers to a service fault (R352) -/

/-- A RETRY that comes after the latest fault of the bank's context has been answered; an ABORT, after the bank's latest one has. -/
def Bank.answeredAlready (x : Bank) (abort : Bool) : Bool := (if abort then x.answered else x.svcSeen) && !x.svcWaits

def setLate (s : State) (c : Nat) (v : Bool) : State := modCore s c fun k => { k with late := v }

/-- RETRY. -/
def ccRetry (c : Nat) (b : Bool) (s : State) : State :=
  let x := getBank s c b
  let late := x.answeredAlready false
  let s := setLate s c late
  if x.st == .serviceWait then makeRunnable s c b
  else if x.svcWaits then setBank s c b x.clearSvc
  else if late then s
  else refuse s c 2

def execCcRetry (core bank : Nat) (s : State) : Out := forBank core bank 6 (ccRetry core) s

/-- ABORT: a stopped bank empties as EVICT empties it, and the launch ends (R352, R361, R371). -/
def ccAbort (c : Nat) (b : Bool) (s : State) : State :=
  let x := getBank s c b
  let late := x.answeredAlready true && x.st != .stopped
  let s := setLate s c late
  if x.st == .serviceWait then abortKernel s c b (x.svcRec.getD x.fault)
  else if x.st == .stopped then
    let s := if x.svcPend then setBank s c b x.clearSvc else s
    abortKernel (if b then s else evictArray s c) c b (if x.svcPend then x.svcRec.getD x.fault else x.fault)
  else if late then s
  else refuse s c 2

def execCcAbort (core bank : Nat) (s : State) : Out := forBank core bank 7 (ccAbort core) s

end Sys2Proof.Machine
end

