-- ==== Sys2Proof/Machine/Sync.lean ====
section
/-! DEFINITION. Synchronisation words of the A engine: flags (R336-R339), events (R296, R340), TRICK (R335), DRAIN (R244),
RFENCE (R312), and rounds (R136, R341-R343). -/
namespace Sys2Proof.Machine

/-! ### Flags (R336-R339) -/

/-- Some context of tenant `t` runs on a core of cluster `cl`, in either bank. -/
def tenantInCluster (s : State) (cl : Nat) (t : Tenant) : Bool :=
  (tab (fun i => getCore s (64 * cl + i)) 0 64).any fun k =>
    (k.bank0.st != .empty && k.bank0.tenant == t) || (k.bank1.st != .empty && k.bank1.tenant == t)

/-- SPACE/DENIED on a flag cell that another tenant in the cluster owns. -/
def flagDenied (s : State) (f : BitVec 6) : Bool :=
  let v := flagCell s (clusterOf s.core) f.toNat
  v.valid && v.tag != (curBank s s.core).tenant && tenantInCluster s (clusterOf s.core) v.tag

/-- The cell is taken over where it is free for the running context's tenant (R336). -/
def takeFlag (s : State) (f : BitVec 6) : State :=
  let cl := clusterOf s.core
  let v := flagCell s cl f.toNat
  if v.valid && v.tag == (curBank s s.core).tenant then s else setFlag s cl f.toNat (v.owned (curBank s s.core).tenant)

/-- FLAGSET and FLAGADD issue: the cell is taken over, and written once the covered accesses have performed. -/
def flagRelease (t : BitVec 4) (set : Bool) (f : BitVec 6) (i : BitVec 12) (s : State) : Act State :=
  let (v, mask) := flagKx i ((curBank s s.core).kxOf .a)
  if flagDenied s f then plainFault .space (faultInfo 3)
  else memEffect (takeFlag s f) t 0 0 (.ok ⟨[], false, [], []⟩) { op := .release set f v mask }

def execAFlagset (t : BitVec 4) (f : BitVec 6) (i : BitVec 12) (s : State) : Out :=
  issue (.aFlagset t f i) .a t true (flagRelease t true f i) s

def execAFlagadd (t : BitVec 4) (f : BitVec 6) (i : BitVec 12) (s : State) : Out :=
  issue (.aFlagadd t f i) .a t true (flagRelease t false f i) s

/-- The wait of the A engine's word is over. -/
def endWait (s : State) : State := modCur s s.core fun b => { b with wait := .none }

/-- FLAGWAIT: the cell is taken over if need be, and the word stalls until a write of the cell reaches its value. -/
def flagWaitEffect (f : BitVec 6) (i : BitVec 12) (s : State) : Act State :=
  let b := curBank s s.core
  let (v, _) := flagKx i (b.kxOf .a)
  match b.wait with
  | .flag _ _ met => if met then .ok (endWait s) else stall
  | _ =>
    if flagDenied s f then plainFault .space (faultInfo 3)
    else
      let s := takeFlag s f
      if v.toNat ≤ (flagCell s (clusterOf s.core) f.toNat).val.toNat then .ok s
      else .error (.hold (modCur s s.core fun b => { b with wait := .flag f v false }))

def execAFlagwait (t : BitVec 4) (f : BitVec 6) (i : BitVec 12) (s : State) : Out :=
  issue (.aFlagwait t f i) .a t false (flagWaitEffect f i) s

/-! ### Events (R296, R340) -/

/-- The entries of EVQ (R118). -/
def evqDepth : Nat := 64

/-- Put an event behind those already there. -/
def pushEvent (s : State) (c : Nat) (v : Word) : State := modBank s c false fun b => { b with evq := b.evq ++ [v] }

def qpushEffect (ra rb : BitVec 6) (s : State) : Act State :=
  let b := curBank s s.core
  match b.useA ra.toNat, b.useA rb.toNat with
  | .ok t, .ok v =>
    if 63 < t.toNat ∨ fld v.toNat 56 8 < 0x80 then badValue
    else if !b.inflight.isEmpty then stall
    else
      let c := 64 * clusterOf s.core + t.toNat
      match b.launch with
      | none => .ok s
      | some slot =>
        if !runsLaunch s slot c then .ok s
        else if evqDepth ≤ (getBank s c false).evq.length then stall
        else .ok (pushEvent s c v)
  | _, _ => stall

def execAQpush (t : BitVec 4) (a b : BitVec 6) (s : State) : Out :=
  issue (.aQpush t a b) .a t false (qpushEffect a b) s

def execAEvpop (t : BitVec 4) (d : BitVec 6) (s : State) : Out :=
  issue (.aEvpop t d) .a t false (onBank fun b => .ok ({ b with evq := b.evq.tail }.wa d.toNat (b.evq.headD 0))) s

def execAEvpeek (t : BitVec 4) (d : BitVec 6) (s : State) : Out :=
  issue (.aEvpeek t d) .a t false (onBank fun b => .ok (b.wa d.toNat (b.evq.headD 0))) s

/-! ### Recorded errors (R241, R244) -/

/-- A recorded error as a fault of the A engine's current word, which stands. -/
def raiseRecorded (s : State) (r : FaultRec) (tcode : Nat) : Act State :=
  let pc := (curBank s s.core).pcOf .a
  .error (.hold (raiseFault s s.core { r with engine := 0, pc := pc, info := raisedInfo r tcode } none))

/-! ### TRICK (R335) -/

/-- Bit 10: the matrix commands, sessions and feeds accepted before `mark` have completed. -/
def matrixClear (s : State) (c mark : Nat) : Bool :=
  let k := getCore s c
  !(k.inQueue.any fun m => decide (m.id < mark)) &&
    !((getTable s (tableOf c)).feeds.any fun f => f.core == c && decide (f.cmd < mark))

/-- Bit 11: every event that a session of the table had raised for this context before `mark` has been placed or discarded; sessions
raise none for a context in bank 1 (R288). A QPUSH of the core has completed by its own (R340). -/
def eventsClear (s : State) (c mark : Nat) : Bool :=
  (getCore s c).active || (tab (fun i => getCore s (16 * tableOf c + i)) 0 16).all fun k =>
    !(k.heldEvents.any fun e => e.target == c && e.arrives s && decide (e.id < mark))

/-- Bit 12: every walk begun for the core before `mark` has ended. A plane-frame fill begins and ends in one step. -/
def walksClear (s : State) (c mark : Nat) : Bool :=
  !((getCluster s (clusterOf c)).walks.any fun w => w.core == c && decide (w.id < mark))

/-- What each bit of a TRICK mask waits for is over, for entries accepted before `mark`. -/
def trickClear (s : State) (c mark : Nat) (m : BitVec 13) : Bool :=
  let k := getCore s c
  let jobs := fun (p : Job → Bool) => !(k.jobs.any fun j => p j && decide (j.id < mark))
  (tab (fun ch => !m.getLsbD ch || jobs fun j => j.kind == .copy && j.chan.toNat == ch) 0 8).all id &&
    (!m.getLsbD 8 || jobs fun j => j.kind == .coll) && (!m.getLsbD 9 || jobs fun j => j.kind == .swap) &&
    (!m.getLsbD 10 || matrixClear s c mark) && (!m.getLsbD 11 || eventsClear s c mark) &&
    (!m.getLsbD 12 || walksClear s c mark)

def trickEffect (m : BitVec 13) (s : State) : Act State :=
  let b := curBank s s.core
  let (mark, s) := match b.wait with
    | .trick k => (k, s)
    | _ =>
      let (id, s) := fresh s
      (id, modCur s s.core fun b => { b with wait := .trick id })
  if !trickClear s s.core mark m then .error (.hold s)
  else
    let s := endWait s
    let k := getCore s s.core
    match (if m.getLsbD 8 then k.collErr else none) with
    | some r => raiseRecorded (setCore s s.core { k with collErr := none }) r 8
    | none => .ok s

def execATrick (t : BitVec 4) (m : BitVec 13) (s : State) : Out := issue (.aTrick t m) .a t false (trickEffect m) s

/-! ### DRAIN (R244) and RFENCE (R312) -/

def drainEffect (ch : BitVec 3) (s : State) : Act State :=
  let k := getCore s s.core
  if k.jobs.any (fun j => j.kind == .copy && j.chan == ch && j.ctx == (curBank s s.core).ctx) then stall
  else
    match sget k.errs ch.toNat none with
    | some r => raiseRecorded (setCore s s.core { k with errs := sset k.errs ch.toNat none none }) r ch.toNat
    | none => .ok s

def execADrain (t : BitVec 4) (c : BitVec 3) (s : State) : Out := issue (.aDrain t c) .a t false (drainEffect c) s

/-- An access of the bank still has write packets to send. -/
def Bank.sendsWrites (b : Bank) : Bool := b.inflight.any fun x => x.unsent.any fun p => packetWrites p.2

/-- The waits of RFENCE: jobs with a NODE location, and remote writes not yet acknowledged, those still to be sent among
them. -/
def rfenceEffect (s : State) : Act State :=
  let k := getCore s s.core
  if k.jobs.any (fun j => j.kind != .swap && !j.nodes.isEmpty) || k.bank0.sendsWrites || k.bank1.sendsWrites ||
      k.pathTotal != 0 then stall
  else .ok s

def execARfence (t : BitVec 4) (s : State) : Out := issue (.aRfence t) .a t false rfenceEffect s

/-! ### Rounds (R136, R341-R343) -/

/-- Link transfers on a round port from an outbound queue of the table that are not yet at their receiver. -/
def roundTraffic (s : State) (c : Nat) : Bool :=
  (tab (fun d => getPort s d) 0 22).any fun p => p.bound && p.round && p.table.toNat == tableOf c && !p.outq.isEmpty

/-- The core's own part of the step is done (R342); `k` is the round's number. -/
def ownPartDone (s : State) (c k : Nat) : Bool :=
  let x := getCore s c
  (x.bank x.active).inflight.isEmpty &&
    (k % 2 == 1 || (!(x.jobs.any fun j => j.kind != .swap) && x.cmds.isEmpty && x.cmds1.isEmpty && !roundTraffic s c))

/-- What ROUND does once all engines have joined (R341, R342). A context of no launch (bank 1, R353) has no round to join: ILLEGAL/VALUE
(DESIGN CHOICE, log 49). -/
def roundEffect (scope : BitVec 2) (s : State) : Act State :=
  let b := curBank s s.core
  match b.launch.bind fun slot => (getLaunch s slot).map fun l => (slot, l) with
  | none => badValue
  | some (slot, l) =>
    if roundBad l scope then badValue
    else if !ownPartDone s s.core (b.round.count.toNat + 1) then stall
    else
      let s := setLaunch s slot (some { l with roundScope := scope })
      .ok (modCur s s.core fun b => { b with round := { b.round with waiting := true, scope := scope } })

/-- ROUND joins (R111); field SC is 0 for node and 1 for job, SCOPE one more (R344). -/
def execRound (c : BitVec 2) (s : State) : Out := join (.round c) (roundEffect (c + 1)) s

/-- A participant has arrived: it waits at the round, or has exited (R341). -/
def hasArrived (s : State) (slot : Nat) (l : Launch) (c : Nat) : Bool :=
  l.exited.contains c ||
    (let b := getBank s c false
     b.launch == some slot && b.round.waiting && b.st == .running)

/-- The participants that wait. -/
def roundWaiters (s : State) (slot : Nat) (l : Launch) : List Nat :=
  l.started.filter fun c => (getBank s c false).launch == some slot && (getBank s c false).round.waiting

/-- Every participant passes the ROUND. -/
def releaseRound (s : State) : List Nat → State
  | [] => s
  | c :: l =>
    releaseRound (modBank s c false fun b =>
      { b with round := { b.round with count := b.round.count + 1, waiting := false } }.passAll) l

/-- The round faults LINK on every participant of the node (R343). -/
def failRound (s : State) (d : Nat) : List Nat → State
  | [] => s
  | c :: l =>
    let pc := (getBank s c false).pcOf .a
    let s := modBank s c false fun b => { b with round := { b.round with waiting := false } }
    let fr : FaultRec := ⟨FaultCode.link.num, 3, pc, 0, 0, 0, faultInfo 3 0 0 d⟩
    failRound (if (getCore s c).active then modBank s c false fun b => { b with pend := some ⟨fr, some pc, false⟩ }
               else raiseFault s c fr (some pc)) d l

/-- What the exchange of notices comes to: it waits, it has ended, or the link of a dimension is lost. -/
inductive Exchange where
  | waits
  | ended
  | lost (d : Nat)
  deriving DecidableEq, Repr

/-- Exchange notices from a dimension on (R343): a notice goes out once the port is up; the next dimension follows once
the partner's has come. -/
def exchangeNotices (s : State) (l : Launch) : List Nat → State × Launch × Exchange
  | [] => (s, { l with sentDims := [], gotDims := (roundDims l).foldl (fun g d => g.erase d) l.gotDims }, .ended)
  | d :: ds =>
    let sent := l.sentDims.contains d
    if sent && l.gotDims.contains d then exchangeNotices s l ds
    else if (getPort s d).lost then (s, l, .lost d)
    else if sent || !portIsUp s d then (s, l, .waits)
    else
      let l := { l with sentDims := l.sentDims ++ [d] }
      let s := { s with fabric := { s.fabric with roundOut := s.fabric.roundOut ++ [⟨l.record, d⟩] } }
      if l.gotDims.contains d then exchangeNotices s l ds else (s, l, .waits)

/-- The round goes as far as it can once every participant has arrived. -/
def advanceRound (s : State) (slot : Nat) : State :=
  match getLaunch s slot with
  | none => s
  | some l =>
    let cs := roundWaiters s slot l
    if cs.isEmpty || !(l.started.all (hasArrived s slot l)) then s
    else if l.roundScope != 2 then releaseRound s cs
    else
      let (s, l, r) := exchangeNotices s l (roundDims l)
      let s := setLaunch s slot (some l)
      match r with
      | .waits => s
      | .ended => releaseRound s cs
      | .lost d => failRound s d cs

/-- A retired launch goes on exchanging notices, round after round: the participants here have exited (R341). -/
def advanceRelay (s : State) (i : Nat) : State :=
  match s.shoe.relays[i]? with
  | none => s
  | some l =>
    let (s, l, _) := exchangeNotices s l (roundDims l)
    { s with shoe := { s.shoe with relays := lset s.shoe.relays i l } }

/-- A round advances: of the launch in `slot`, or, from 64 on, of a relay. -/
def execRoundComplete (slot : Nat) (s : State) : Out :=
  forUnit slot (64 + s.shoe.relays.length) (if slot < 64 then advanceRound s slot else advanceRelay s (slot - 64))

/-- The partner's arrival notice across dimension `d` comes in, for the launch in `slot` or, from 64 on, for a relay. -/
def execRoundArrivalNotice (slot d : Nat) (s : State) : Out :=
  forUnit slot (64 + s.shoe.relays.length) <|
    if slot < 64 then
      match getLaunch s slot with
      | none => s
      | some l => advanceRound (setLaunch (modPort s d Port.heard) slot (some { l with gotDims := l.gotDims ++ [d] })) slot
    else
      match s.shoe.relays[slot - 64]? with
      | none => s
      | some l =>
        let l := { l with gotDims := l.gotDims ++ [d] }
        let s := modPort s d Port.heard
        advanceRelay { s with shoe := { s.shoe with relays := lset s.shoe.relays (slot - 64) l } } (slot - 64)

end Sys2Proof.Machine
end

