-- ==== Sys2Proof/Machine/System.lean ====
section
/-! DEFINITION. System words of the A engine: CSRs (R367), shoot-downs (R364, R365), REMAP (R366) and LQBIND (R319). -/
namespace Sys2Proof.Machine

/-! ### CSRs (R367) -/

/-- The CSR `n` as the word with dependency field `t` reads it: its issue has popped its tokens (R116, R124). -/
def csrAtIssue (s : State) (t : BitVec 4) (n : Nat) : Word :=
  csrRead (modCur s s.core fun b => b.popToks .a t) s.core (getCore s s.core).active n

def execACsrr (t : BitVec 4) (d : BitVec 6) (c : BitVec 12) (s : State) : Out :=
  issue (.aCsrr t d c) .a t false
    (fun s =>
      let b := curBank s s.core
      if csrPrivileged c.toNat && !b.priv then plainFault .privilege 0
      else .ok (modCur s s.core fun b => b.wa d.toNat (csrAtIssue s t c.toNat))) s

/-- Whether the written value passes the checks of the CSR's entry (R110, R125, R197, R216, R257). A PSDN beyond 65,536 sets no
reserved bit and is kept, though R215 gives 0 to 65,536 (DESIGN CHOICE, log 43). -/
def csrAccepts (b : Bank) (n : Nat) (v : Word) : Bool :=
  match n with
  | 0x010 => 16 ≤ fld v.toNat 0 13 && fld v.toNat 0 13 ≤ 4096
  | 0x049 | 0x04A | 0x04B => v.toNat % 4 == 0 && v.toNat < b.textEnd
  | 0x074 => v &&& ~~~0x0000FFFFFFFFF000 == 0
  | 0x075 => v &&& ~~~0x1FFFFFFFFFF == 0
  | 0x080 => v &&& ~~~0xFFFFFFF000 == 0
  | 0x081 => v &&& ~~~0xFFFFFFFFC0 == 0
  | 0x082 => v &&& ~~~0x1FFFF == 0
  | 0x083 => v &&& ~~~3 == 0
  | 0x084 => v &&& ~~~1 == 0
  | 0x0A0 => 1 ≤ fld v.toNat 0 9 && fld v.toNat 0 9 ≤ 256
  | _ => true

/-- The write itself: the writable fields of the CSR. -/
def csrWrite (s : State) (n : Nat) (v : Word) : State :=
  let put := fun (f : Bank → Bank) => modCur s s.core f
  match n with
  | 0x010 => put fun b => { b with slipwin := v.setWidth 13 }
  | 0x048 => put fun b => if b.trapActive then { b with trapSkip := v.getLsbD 1 } else b
  | 0x049 => put fun b => if b.trapActive then { b with rpc := b.rpc.set v .a } else b
  | 0x04A => put fun b => if b.trapActive then { b with rpc := b.rpc.set v .x } else b
  | 0x04B => put fun b => if b.trapActive then { b with rpc := b.rpc.set v .m } else b
  | 0x061 => put fun b => { b with xseed := v.setWidth 32 }
  | 0x071 => put fun b => { b with chipGrant := v.setWidth 10 &&& 0x33F }
  | 0x074 => { s with fabric := { s.fabric with winBase := v } }
  | 0x075 => { s with fabric := { s.fabric with winSize := v } }
  | 0x080 => put fun b => { b with xlat := { b.xlat with root := v } }
  | 0x081 => put fun b => { b with xlat := { b.xlat with psdt := v } }
  | 0x082 => put fun b => { b with xlat := { b.xlat with psdn := v } }
  | 0x083 => put fun b => { b with xlat := { b.xlat with view := v } }
  | 0x084 => put fun b => { b with clamp := b.clamp && !v.getLsbD 0 }
  | 0x090 =>
    modCore s s.core fun k =>
      { k with clamps := k.clamps &&& ~~~v.setWidth 8, cclamp := k.cclamp && !v.getLsbD 23 }
  | 0x0A0 => put fun b => { b with handlen := v.setWidth 9 }
  | _ => s

def execACsrw (t : BitVec 4) (d : BitVec 6) (c : BitVec 12) (s : State) : Out :=
  issue (.aCsrw t d c) .a t false
    (fun s =>
      let b := curBank s s.core
      match b.useA d.toNat with
      | .error e => .error e
      | .ok v =>
        if csrPrivileged c.toNat && !b.priv then plainFault .privilege 0
        else if !csrWritable c.toNat then badValue
        else if !csrAccepts b c.toNat v then badValue
        else .ok (csrWrite s c.toNat v)) s

/-! ### Shoot-downs (R364, R365) -/

/-- The contexts that a shoot-down covers: those of one tenant, or all. -/
def coversTenant (ten : Option Tenant) (t : Tenant) : Bool := ten.isNone || ten == some t

/-- Whether what an access was translated through is covered. -/
def Used.covered (kind x n : Nat) : Used → Bool
  | .leaf base level psdid _ =>
    let sh := leafShift level.toNat
    let lo := base.toNat / 2 ^ sh * 2 ^ sh
    match kind with
    | 0 => lo < x + 4096 * n && x < lo + 2 ^ sh
    | 1 => psdid.map BitVec.toNat == some x
    | _ => true
  | .frame psdid _ =>
    match kind with
    | 0 => false
    | 1 => psdid.toNat == x
    | _ => true

/-- A cached leaf, as an access that goes through it records it. -/
def TlbEntry.used (e : TlbEntry) : Used :=
  .leaf e.vbase e.level (if e.leaf.getLsbD 2 then some (e.leaf.extractLsb' 48 16) else none) none

/-- Whether a cached leaf is covered. -/
def coversLeaf (kind x n : Nat) (ten : Option Tenant) (e : TlbEntry) : Bool :=
  coversTenant ten e.tenant && e.used.covered kind x n

/-- Whether a plane-frame cache entry is covered. -/
def coversFrame (kind x : Nat) (ten : Option Tenant) (e : PfcEntry) : Bool :=
  coversTenant ten e.tenant && (Used.frame e.psdid e.pa).covered kind x 0

/-- The covered entries go; no walk now in flight will be cached (R365). -/
def invalidate (s : State) (kind x n : Nat) (ten : Option Tenant) : State :=
  let leaf := fun (l : List TlbEntry) => l.filter fun e => !coversLeaf kind x n ten e
  let walks := fun (c : Cluster) => { c with walks := ((c.walks.take walkSlots).map fun w => { w with stale := true }) ++ c.walks.drop walkSlots }
  { s with
    cores := smap s.cores Core.zero fun k => { k with tlb := leaf k.tlb }
    tables := smap s.tables Table.zero fun t =>
      { t with tlb := leaf t.tlb, pfc := t.pfc.filter fun e => !coversFrame kind x ten e }
    clusters := smap s.clusters Cluster.zero walks }

/-- A shoot-down, as its A engine waits for it: kind, address or PSD id, pages, tenant and mark. -/
structure Shoot where
  kind : Nat
  x : Nat
  n : Nat
  ten : Option Tenant
  mark : Nat

/-- What number `id` was accepted under counts for a use; a leaf that a walk delivered past a shoot-down counts as found with the
walk (R365). -/
def Used.since (id : Nat) : Used → Nat
  | .leaf _ _ _ (some walk) => walk
  | _ => id

/-- What tenant `t` accepted under number `id` used an entry that the shoot-down covers, before it. -/
def Shoot.holds (d : Shoot) (t : Tenant) (id : Nat) (uses : List Used) : Bool :=
  coversTenant d.ten t && uses.any fun u => decide (u.since id < d.mark) && u.covered d.kind d.x d.n

/-- A leaf delivered to what joined its walk, as it will be recorded there; none of a fault. -/
def Walked.used (r : Walked) : List Used :=
  match r.res with
  | .leaf level leaf psd walk => [(⟨level.toNat, leaf.toNat, psd.toNat, some walk⟩ : LeafAt).used (4096 * r.page.toNat)]
  | .fault _ _ => []

/-- No access of this bank that used a covered entry is left, nor a word that a walk has delivered one to. -/
def bankQuiet (d : Shoot) (b : Bank) : Bool :=
  !(b.inflight.any fun x => d.holds b.tenant x.id x.uses) &&
    !(b.walked.any fun r => b.stands r.to_ && d.holds b.tenant d.mark r.used)

/-- A shoot-down is complete: the walks that it found have ended, and so have the accesses, jobs and feeds that used a covered
entry (R365). -/
def shootDone (s : State) (d : Shoot) : Bool :=
  (s.cores.all fun p =>
    bankQuiet d p.2.bank0 && bankQuiet d p.2.bank1 && !(p.2.jobs.any fun j => d.holds j.tenant j.id (j.uses ++ j.walked.flatMap Walked.used))) &&
  (s.tables.all fun p => !(p.2.feeds.any fun f => d.holds f.tenant f.cmd f.uses)) &&
  (s.clusters.all fun p => !(p.2.walks.any fun w => decide (w.id < d.mark)))

def tlbiEffect (k : BitVec 6) (ra rb : BitVec 6) (s : State) : Act State :=
  let b := curBank s s.core
  match b.wait with
  | .tlbi kind x n ten mark => if mark == 0 || shootDone s ⟨kind, x, n, ten, mark⟩ then .ok (endWait s) else stall
  | _ =>
    match b.useA ra.toNat, b.useA rb.toNat with
    | .ok x, .ok t =>
      let n := fld t.toNat 0 32
      let bad : Bool :=
        match k.toNat with
        | 0 => fld x.toNat 48 16 != 0 || fld x.toNat 0 12 != 0
        | 1 => fld x.toNat 16 48 != 0 || n != 0
        | _ => x != 0 || n != 0
      if fld t.toNat 49 15 ≠ 0 ∨ bad then badValue
      else
        let ten := if t.getLsbD 48 then none else some (t.extractLsb' 32 16)
        if k = 0 ∧ n = 0 then .ok s
        else
          let (mark, s) := fresh (invalidate s k.toNat x.toNat n ten)
          if shootDone s ⟨k.toNat, x.toNat, n, ten, mark⟩ then .ok s
          else .error (.hold (modCur s s.core fun b => { b with wait := .tlbi k.toNat x.toNat n ten (mark + 1) }))
    | _, _ => stall

def execATlbi (t : BitVec 4) (k a b : BitVec 6) (s : State) : Out :=
  issue (.aTlbi t k a b) .a t false (tlbiEffect k a b) s

/-- The shoot-down that the core's A engine waits for is complete: its word completes at its next turn. -/
def execShootdownComplete (core : Nat) (s : State) : Out :=
  forCore core <|
    match (curBank s core).wait with
    | .tlbi kind x n ten mark =>
      if shootDone s ⟨kind, x, n, ten, mark⟩ then modCur s core fun b => { b with wait := .tlbi kind x n ten 0 } else s
    | _ => s

/-! ### REMAP (R366) -/

/-- No access, job or feed that was accepted before `mark` touches channel `ch`. A compressed load does, a
GATH or SCAT that is still to find its lanes, and a decompressing copy that has not begun, as a block is found only once its header
has been read. -/
def channelIdle (s : State) (ch mark : Nat) : Bool :=
  let busy := fun (ps : List Place) => ps.any fun p => p.channel == some ch
  let unread := fun (j : Job) => j.kind == .copy && j.phase == .accepted && cardDc j.card
  let bank := fun (b : Bank) => b.inflight.any fun x => decide (x.id < mark) &&
    (busy x.places || match x.op with
      | .expand _ | .find _ _ => true
      | _ => false)
  (s.cores.all fun p =>
    !bank p.2.bank0 && !bank p.2.bank1 && !(p.2.jobs.any fun j => decide (j.id < mark) &&
      (unread j || busy (j.src ++ j.dst) || rangesTouch ch (j.reads ++ j.writes)))) &&
  (s.tables.all fun p => !(p.2.feeds.any fun f => decide (f.cmd < mark) && busy f.places))

/-- The channel is re-formed: ILV takes LIVE, every byte reads zero, every poison mark is cleared. -/
def reform (s : State) (ch : Nat) : State :=
  let own := fun loc => loc / 2 ^ 27 == ch
  let m := nearMap s ch
  { s with
    near := sset s.near ch { m with ilv := m.live } Near.zero
    mem := s.mem.filter fun p => !own p.1
    poison := s.poison.filter fun p => !own (32 * p.1) }

def remapEffect (ra : BitVec 6) (s : State) : Act State :=
  let b := curBank s s.core
  match b.wait with
  | .remap _ mark => if mark = 0 then .ok (endWait s) else stall
  | _ =>
    match b.useA ra.toNat with
    | .error e => .error e
    | .ok c =>
      if 1023 < c.toNat then badValue
      else
        let (mark, s) := fresh s
        if channelIdle s c.toNat mark then .ok (reform s c.toNat)
        else .error (.hold (modCur s s.core fun b => { b with wait := .remap c.toNat (mark + 1) }))

def execARemap (t : BitVec 4) (a : BitVec 6) (s : State) : Out := issue (.aRemap t a) .a t false (remapEffect a) s

/-- The channel that the core's A engine re-forms is idle: it is re-formed, and the word completes at its next turn. -/
def execRemapComplete (core : Nat) (s : State) : Out :=
  forCore core <|
    match (curBank s core).wait with
    | .remap ch mark =>
      if mark != 0 && channelIdle s ch mark then modCur (reform s ch) core fun b => { b with wait := .remap ch 0 } else s
    | _ => s

/-! ### LQBIND (R319) -/

/-- Whether port `d` is populated (R383). -/
def populated (s : State) (d : Nat) : Bool := s.disc.ports.getLsbD d

/-- Whether a matrix command record still has to pop from or push to queue `q` (R319, R324, R325). -/
def Cmd.names (m : Cmd) (q : Nat) : Bool :=
  !m.finished &&
    match m.op with
    | 0x30 | 0x31 => (m.ea.isNone && (m.qa == q || m.qb == q)) || (m.fwd == some q && !m.fwdDone)
    | 0x32 | 0x33 => m.qa == q
    | _ => false

/-- Whether a session uses queue `q` (R280). -/
def Session.names (z : Session) (q : Nat) : Bool :=
  fld (sget z.par 3 0).toNat 0 7 == q || fld (sget z.par 3 0).toNat 8 7 == q || z.qd == q

/-- The link queues of dimension `d` that a command of the core still has to pop or push; a session's are those of its TEMPO
command. -/
def Core.linkUses (k : Core) (d : Nat) (m : Cmd) : List Nat :=
  [32 + d, 64 + d].filter fun q => m.names q || (m.op == 0x40 && (k.session.map fun z => z.names q) == some true)

/-- Mark what still uses a link queue of dimension `d` as stale there (R319, R324). -/
def markStale (d : Nat) (k : Core) : Core :=
  { k with cmds := k.cmds.map fun m => { m with stale := (m.stale ++ k.linkUses d m).eraseDups } }

/-- The port's queues and flow state start afresh under a binding, or under none; the bind notice goes out now where the port is
up or quiesced, and else once it comes up. -/
def Port.rebind (p : Port) (x y : Word) : Port :=
  let up := p.st == 2 || p.st == 3
  let p := { p with inq := [], outq := [], sending := 0, txNum := 0, rxNum := 0, pushes := 0,
                    credit := 0, mism := 0, lost := false, noticeDue := !up,
                    notice := if up then some !(x.getLsbD 6) else p.notice }
  if x.getLsbD 6 then { p with bound := false, table := 0, tenant := 0, job := 0, round := false }
  else
    { p with bound := true, table := x.extractLsb' 0 6, round := x.getLsbD 7, job := y.extractLsb' 0 16,
             tenant := y.extractLsb' 16 16 }

def lqbindEffect (d ra rb : BitVec 6) (s : State) : Act State :=
  let b := curBank s s.core
  match b.useA ra.toNat, b.useA rb.toNat with
  | .ok x, .ok y =>
    if fld x.toNat 8 56 ≠ 0 ∨ fld y.toNat 32 32 ≠ 0 then badValue
    else if x.getLsbD 6 = false ∧ fld y.toNat 0 16 = 0 then badValue
    else if !populated s d.toNat then badValue
    else
      let s := { s with cores := smap s.cores Core.zero (markStale d.toNat) }
      .ok (modPort s d.toNat fun p => p.rebind x y)
  | _, _ => stall

def execALqbind (t : BitVec 4) (k a b : BitVec 6) (s : State) : Out :=
  issue (.aLqbind t k a b) .a t false (lqbindEffect k a b) s

end Sys2Proof.Machine
end

