-- ==== Sys2Proof/Machine/Links.lean ====
section
/-! DEFINITION. The ports of a node (R298-R300, R306), their locks (R393-R395), and tile transfers across a link
(R320-R323). -/
namespace Sys2Proof.Machine

/-! ### Ports going down and up (R299, R300, R306, R322) -/

/-- An event of a port: ports are numbered 0 to 21 (R297). -/
def forPort (d : Nat) (r : State) : Out := forUnit d Config.ports r

/-- The port is not up: what it queued is discarded, and a transfer is broken off. -/
def Port.flush (p : Port) : Port := { p with pkts := [], sending := 0 }

/-- The port goes down with a cause. -/
def Port.fall (p : Port) (cause : BitVec 8) : Port := { p.flush with st := 0, cause := cause }

/-- The port takes part in traffic: up or quiesced. -/
def Port.live (p : Port) : Bool := p.st == 2 || p.st == 3

/-- A bound link is lost for good, and the driver gets LINKLOST (R323, R387). -/
def loseLink (s : State) (d : Nat) : State :=
  let p := getPort s d
  if p.bound && !p.lost then
    postPlain (setPort s d { p with lost := true }) 6 0 0 0 0 0 0 (BitVec.ofNat 5 d)
  else s

/-- FABPd.CTL as EN, QUIESCE and RETRAIN make it. -/
def ctlWord (en quiesce retrain : Bool) : Nat := b2n en + 2 * b2n quiesce + 4 * b2n retrain

/-- EN is written; outside UNLOCKED the write is ignored (R394). A port that is populated trains; EN := 0 takes it down and
loses a bound link. -/
def writeEn (s : State) (d : Nat) (en : Bool) : State :=
  let p := getPort s d
  if p.lockSt ≠ 0 then s
  else if en then
    if p.en then s
    else if populated s d then setPort s d { p with en := true, st := 1, cause := 0 }
    else setPort s d { p with en := true, st := 0, cause := 2 }
  else loseLink (setPort s d { p.fall 1 with en := false }) d

def execPortEnable (d : Nat) (en : Bool) (s : State) : Out :=
  forPort d (hostWrite s .fabric (0x100 + 0x20 * d) (ctlWord en (getPort s d).quiesce false) (writeEn s d en))

/-- RETRAIN: the port goes down and trains again, also in lock state ERROR, where it does not come up after it; a lock in RUN falls
back to LOCKED (R299, R394). -/
def retrain (s : State) (d : Nat) : State :=
  modPort s d fun p =>
    let p := { p.flush with lockSt := if p.lockSt = 2 then 1 else p.lockSt, tagsIn := 0, tagsOut := 0 }
    if p.en && populated s d then { p with st := 1, cause := 0 } else p

def execPortRetrain (d : Nat) (s : State) : Out :=
  forPort d (hostWrite s .fabric (0x100 + 0x20 * d) (ctlWord (getPort s d).en (getPort s d).quiesce true) (retrain s d))

/-- QUIESCE is written. -/
def writeQuiesce (s : State) (d : Nat) (on : Bool) : State :=
  modPort s d fun p => { p with quiesce := on, st := if p.live then (if on then 3 else 2) else p.st }

def execPortQuiesce (d : Nat) (on : Bool) (s : State) : Out :=
  forPort d (hostWrite s .fabric (0x100 + 0x20 * d) (ctlWord (getPort s d).en on false) (writeQuiesce s d on))

/-- The port comes up: it waits for fresh credit, sends again what was not acknowledged (R322), and sends the bind notice that is
due (R319). -/
def Port.comeUp (p : Port) : Port :=
  { p with
    st := if p.quiesce then 3 else 2, cause := 0, replays := 0, flitFails := 0, tagsIn := 0, tagsOut := 0
    sending := 0, credit := 0, noticeDue := false, notice := if p.noticeDue then some p.bound else p.notice }

/-- Training ends. The port comes up if the peer's label is the neighbour's and the lock is in RUN. -/
def trained (s : State) (d : Nat) (label : Label) : State :=
  let p := getPort s d
  if !p.en || p.live || !populated s d then s
  else if label ≠ s.fabric.label ^^^ (1 : BitVec 22) <<< d then setPort s d { p.fall 3 with peer := label }
  else if p.lockSt = 1 then setPort s d { p with peer := label, st := 1, cause := 0 }
  else if p.lockSt ≠ 2 then setPort s d { p with peer := label, st := 0, cause := 6 }
  else setPort s d { p.comeUp with peer := label }

def execPortUp (d : Nat) (label : Label) (s : State) : Out := forPort d (trained s d label)

/-- The port goes down for one of the causes of R299 that come from outside. -/
def execPortDown (d : Nat) (cause : BitVec 8) (s : State) : Out :=
  forPort d <|
    if (getPort s d).st ≠ 0 ∧ (cause = 2 ∨ cause = 3 ∨ cause = 4 ∨ cause = 5) then modPort s d fun p => p.fall cause else s

/-- A replay of a flit, counted; the 16th failure in a row takes the port down, and one that comes in whole ends the tag failures in a
row of its direction (R394). -/
def Port.replay (p : Port) (how : ReplayEnd) : Port :=
  let p := { p with replays := if p.replays = 0xFFFF then p.replays else p.replays + 1 }
  match how with
  | .good true => { p.heard with flitFails := 0 }
  | .good false => { p with flitFails := 0, tagsOut := 0 }
  | .bad => if 16 ≤ p.flitFails + 1 then { p.fall 4 with flitFails := 0 } else { p with flitFails := p.flitFails + 1 }

def execLinkReplay (d : Nat) (how : ReplayEnd) (s : State) : Out :=
  forPort d (modPort s d fun p => if p.live then p.replay how else p)

/-- A data lane fails: the spare replaces it, or the port goes down. -/
def execLaneFailure (d : Nat) (lane : BitVec 3) (s : State) : Out :=
  forPort d <| modPort s d fun p =>
    if p.st = 0 then p else if p.spared then p.fall 5 else { p with spared := true, lane := lane }

/-- The oldest packet that the port holds for replay is discarded. -/
def execFlitAgeDiscard (d : Nat) (s : State) : Out := forPort d (modPort s d fun p => { p with pkts := p.pkts.drop 1 })

/-! ### Labels and down marks (R298, R300, R302) -/

/-- FAB.LABEL takes a write at once while every port is UNLOCKED (R300, R394). -/
def writeLabel (s : State) (v : Nat) : State :=
  if s.fabric.ports.any fun p => p.2.lockSt != 0 then s
  else { s with fabric := { s.fabric with label := BitVec.ofNat 22 v } }

def execFabLabelWrite (v : BitVec 32) (s : State) : Out := .next (hostWrite s .fabric 0 v.toNat (writeLabel s v.toNat))

/-- Any write of FAB.DOWNGEN adds 1 and clears the down marks. -/
def writeDowngen (s : State) : State :=
  { s with fabric := { s.fabric with downGen := s.fabric.downGen + 1, marks := [] } }

def execFabDowngenWrite (s : State) : Out := .next (hostWrite s .fabric 0x18 0 (writeDowngen s))

/-! ### Locks (R393-R395) -/

/-- The port's lock ends in ERROR: port down with CAUSE 6, a bound link lost, a LOCK message (R387, R394). -/
def lockError (s : State) (d : Nat) (cause : BitVec 8) : State :=
  let s := modPort s d fun p => { p.fall 6 with lockSt := 3, lockCause := cause, tagsIn := 0, tagsOut := 0 }
  postPlain (loseLink s d) 7 cause 0 0 0 0 0 (BitVec.ofNat 5 d)

/-- A command that the state does not allow. -/
def refuseLock (s : State) (d : Nat) : State := modPort s d fun p => { p with refused := true }

/-- CMD LOCK: a port that is enabled and populated trains (R394). -/
def lockCmd (s : State) (d : Nat) : State :=
  let p := getPort s d
  if p.lockSt = 0 then
    let trains := p.en && populated s d
    setPort s d { p.flush with
      lockSt := 1, lockCause := 0, tagsIn := 0, tagsOut := 0
      st := if trains then 1 else p.st, cause := if trains then 0 else p.cause }
  else refuseLock s d

def execLockCmdLock (d : Nat) (s : State) : Out := forPort d (hostWrite s .fabric (0x400 + 8 * d) 4 (lockCmd s d))

/-- CMD UNLOCK: from RUN only a quiesced port, which then goes down. -/
def unlockCmd (s : State) (d : Nat) : State :=
  let p := getPort s d
  if p.lockSt = 1 ∨ p.lockSt = 3 then setPort s d { p with lockSt := 0, lockCause := 0 }
  else if p.lockSt = 2 ∧ p.st = 3 then
    postPlain (setPort s d { p.fall 6 with lockSt := 0, lockCause := 0 }) 7 0 0 0 0 0 0 (BitVec.ofNat 5 d)
  else refuseLock s d

def execLockCmdUnlock (d : Nat) (s : State) : Out := forPort d (hostWrite s .fabric (0x400 + 8 * d) 8 (unlockCmd s d))

/-- The management core runs (R391). -/
def mgmtRuns (s : State) : Bool := s.mgmt.st == 2

/-- The SPDM session of a LOCKED port ends; one that completes brings the port up (R394). No port reaches RUN while the management
core does not run (R391). -/
def execLockSessionDone (d : Nat) (how : SessionEnd) (s : State) : Out :=
  forPort d <|
    if (getPort s d).lockSt ≠ 1 then s
    else
      match how with
      | .complete =>
        let p := getPort s d
        if mgmtRuns s && p.st == 1 && p.peer == s.fabric.label ^^^ (1 : BitVec 22) <<< d then
          setPort s d { p.comeUp with lockSt := 2 }
        else s
      | .failed => lockError s d 3
      | .badPeer => lockError s d 2

/-- A group of flits fails its tag: it is replayed; the fourth failure in a row in one direction is an ERROR. -/
def execTagFailure (d : Nat) (inbound : Bool) (s : State) : Out :=
  forPort d <|
    let p := getPort s d
    if p.lockSt ≠ 2 ∨ !p.live then s
    else
      let n := (if inbound then p.tagsIn else p.tagsOut) + 1
      if 4 ≤ n then lockError s d 1
      else
        let p := { p with replays := if p.replays = 0xFFFF then p.replays else p.replays + 1 }
        setPort s d (if inbound then { p with tagsIn := n } else { p with tagsOut := n })

/-- A rekey: keys, tags and group counts are seen by the peer alone and are no state of the model (log 51); a rekey that fails is an
ERROR. None happens while the management core does not run (R391). -/
def execRekey (d : Nat) (ok : Bool) (s : State) : Out :=
  forPort d (if (getPort s d).lockSt = 2 ∧ mgmtRuns s ∧ !ok then lockError s d 4 else s)

/-! ### Tile transfers (R320-R323) -/

/-- A bound port that is up and has credit begins to send the oldest entry of its outbound queue that it has not begun; JOB becomes
the binding's (R320, R321). -/
def Port.beginTransfer (p : Port) : Port :=
  match p.outq[p.sending]? with
  | some e =>
    if p.bound && !p.lost && p.st == 2 && !p.quiesce && p.credit != 0 then
      { p with outq := lset p.outq p.sending { e with job := p.job }, sending := p.sending + 1, credit := p.credit - 1 }
    else p
  | none => p

def execLinkTransferBegin (d : Nat) (s : State) : Out := forPort d (modPort s d Port.beginTransfer)

/-- The credits that the port has advertised to its peer and that the peer has not used: the free entries of its inbound queue, and
none while it is unbound (R320). -/
def advertised (s : State) (d : Nat) : Nat :=
  let p := getPort s d
  if p.bound then tileDepth (32 + d) - (p.inq.length + heldPlaces s p.table.toNat (32 + d)) else 0

/-- LINKJOB (R321, R387). -/
def postLinkJob (s : State) (d : Nat) (got bound : BitVec 16) : State :=
  postPlain s 5 0 ((bound ++ got).setWidth 64) 0 0 0 0 (BitVec.ofNat 5 d)

/-- A whole transfer arrives (R320-R322). One that is not the next of its direction is no new one: an earlier one is acknowledged
again. One of another job, or at an unbound port, is discarded, and its credit returns. -/
def receiveTransfer (s : State) (d : Nat) (num : BitVec 32) (e : TileEntry) : State :=
  let p := (getPort s d).heard
  if !p.live || p.lost then s
  else if num != p.rxNum then setPort s d p
  else if !p.bound || e.job != p.job then
    let p := { p with rxNum := num + 1, mism := if p.mism = 255 then p.mism else p.mism + 1 }
    postLinkJob (setPort s d p) d e.job p.job
  else if advertised s d = 0 then s
  else pushTile (setPort s d { p with rxNum := num + 1 }) p.table.toNat (32 + d) { e with owner := p.tenant }

def execLinkTransferReceive (d : Nat) (num : BitVec 32) (entry : TileEntry) (s : State) : Out :=
  forPort d (receiveTransfer s d num entry)

/-- The oldest transfer begun is acknowledged: its entry leaves the outbound queue. -/
def execTransferAck (d : Nat) (num : BitVec 32) (s : State) : Out :=
  forPort d <| modPort s d fun p =>
    if !p.live then p
    else if !p.lost && p.sending != 0 && num == p.txNum then
      { p.heard with outq := p.outq.drop 1, txNum := p.txNum + 1, sending := p.sending - 1 }
    else p.heard

/-- The peer advertises free entries. -/
def execCreditAdvertise (d : Nat) (n : BitVec 3) (s : State) : Out :=
  forPort d <| modPort s d fun p =>
    if p.live then { p.heard with credit := BitVec.ofNat 3 (min 4 (p.credit.toNat + n.toNat)) } else p

/-- A bind notice of the peer: transfer numbers restart, what was not acknowledged is sent again, and CREDIT is 4 or 0. -/
def execBindNotice (d : Nat) (bound : Bool) (s : State) : Out :=
  forPort d <| modPort s d fun p =>
    if p.live then { p.heard with txNum := 0, rxNum := 0, sending := 0, credit := if bound then 4 else 0 } else p

/-- A bound link whose port has not been up for long enough is lost (R323). -/
def execLinkLost (d : Nat) (s : State) : Out := forPort d (if (getPort s d).live then s else loseLink s d)

end Sys2Proof.Machine
end

