-- ==== Sys2Proof/Machine/Power.lean ====
section
/-! DEFINITION. The power controller (R397-R401) and power gating of cores (R365). Stretch and duty change timing only
(R398), which no step of this model shows. -/
namespace Sys2Proof.Machine

/-! ### What is in force (R397, R401) -/

/-- S in force: 15 under the emergency halving. -/
def Power.stretch (p : Power) : Nat := if p.active then 15 else p.s.toNat

/-- DUTY in force: halved, at least 2, under the emergency halving. -/
def Power.dutyNow (p : Power) : Nat := if p.active then max (p.duty.toNat / 2) 2 else p.duty.toNat

/-- PWR.LIMITED. -/
def Power.limited (p : Power) : Bool := decide (0 < p.stretch) || decide (p.dutyNow < 16)

/-- PWR.THROTTLE. -/
def Power.throttle (p : Power) : Nat := p.stretch + p.dutyNow * 2 ^ 4 + b2n p.fast * 2 ^ 16

/-! ### The effective cap (R400) -/

/-- The members of the group besides this package. -/
def Power.members (p : Power) : List Nat := if p.gid = 0 then [] else tab (fun i => i) 0 (p.npkg.toNat - 1)

/-- The parts of a watt in which E is exact: GBUDGET / NPKG is a quotient, which no rule rounds (R400). -/
def Power.parts (p : Power) : Nat := max p.npkg.toNat 1

/-- What a member counts as, in parts of a watt: its latest AVG, or its share of the budget once that is older than two windows or
missing. -/
def Power.memberAvg (p : Power) (i : Nat) : Nat :=
  match p.reports.find? fun r => r.1 == i with
  | some r => if sget p.ages i 0 ≤ 2 then p.parts * r.2.toNat else p.budget.toNat
  | none => p.budget.toNat

/-- E of R399 and R400, in parts of a watt. -/
def Power.effective (p : Power) : Nat :=
  if p.gid = 0 then p.parts * p.cap.toNat
  else max (p.parts * 300) (min (p.parts * p.cap.toNat) (p.parts * p.budget.toNat - (p.members.map p.memberAvg).sum))

/-! ### The loop (R399) -/

def Power.step (p : Power) : Power :=
  let e := p.effective
  let avg := p.parts * p.avg.toNat
  if e < avg then { p with s := BitVec.ofNat 4 (min (p.s.toNat + 1) 15), duty := BitVec.ofNat 5 (max (p.duty.toNat - 1) 4) }
  else if 20 * avg < 19 * e then { p with s := BitVec.ofNat 4 (p.s.toNat - 1), duty := BitVec.ofNat 5 (min (p.duty.toNat + 1) 16) }
  else p

/-- Every 10 µs INST takes what is measured, a free value, and the loop takes a step (R397, R399; log 11). -/
def execPowerControlStep (s : State) : Out :=
  let (v, s) := freeValue s 16
  .next { s with power := { s.power.step with inst := BitVec.ofNat 16 v } }

/-- A member's report arrives over the management bus, which the management core serves (R391, R400). -/
def execGroupPowerReport (member : Nat) (avg : BitVec 16) (s : State) : Out :=
  .next <|
    if s.mgmt.st = 2 ∧ s.power.members.contains member then
      { s with power := { s.power with reports := sput s.power.reports member avg, ages := sdel s.power.ages member } }
    else s

/-- A POWER message (R387). -/
def postPower (s : State) (sub : BitVec 8) : State := postPlain s 8 sub 0 0 0 0 0 0

/-- Every member's report grows one window older; one that passes two windows is missed. -/
def ageReports (s : State) : List Nat → State
  | [] => s
  | i :: l =>
    let n := sget s.power.ages i 0 + 1
    let s := { s with power := { s.power with ages := sput s.power.ages i n } }
    ageReports (if n = 3 then postPower s 2 else s) l

/-- The AVG that the package sends to its group at the end of a window: the management core sends it (R391, R400). -/
def sendReport (s : State) : State :=
  if s.mgmt.st = 2 ∧ s.power.gid ≠ 0 then { s with power := { s.power with report := some s.power.avg } } else s

/-- An averaging window ends: AVG and INST are what was measured, and the package reports to its group. -/
def execAveragingWindowEnd (avg inst : BitVec 16) (s : State) : Out :=
  .next (ageReports (sendReport { s with power := { s.power with avg := avg, inst := inst } }) s.power.members)

/-! ### The emergency input (R401) -/

def execFastinAssert (s : State) : Out :=
  .next <|
    if s.power.level then s
    else postPower { s with power := { s.power with level := true, seen := true, fast := true, active := true } } 1

def execFastinDeassert (s : State) : Out := .next { s with power := { s.power with level := false } }

/-- The loop's values return some time after the input is deasserted. -/
def execFastinRecover (s : State) : Out :=
  .next (if s.power.level then s else { s with power := { s.power with fast := false, active := false } })

/-! ### Power gating (R365) -/

/-- A core is gated only while both its banks are empty and nothing of it is under way (log 26). -/
def idleCore (k : Core) : Bool :=
  k.bank0.st == .empty && k.bank1.st == .empty && k.jobs.isEmpty && k.cmds.isEmpty && k.cmds1.isEmpty && k.session.isNone

def execCorePowerGating (core : Nat) (s : State) : Out :=
  forCore core (if idleCore (getCore s core) then modCore s core fun k => { k with gated := true, tlb := [] } else s)

def execCorePowerUngating (core : Nat) (s : State) : Out := forCore core (modCore s core fun k => { k with gated := false })

end Sys2Proof.Machine
end

