-- ==== Sys2Proof/Machine/Swap.lean ====
section
/-! DEFINITION. The swap engine: A.SWAP (R248, R249) and the two steps of its job (R229, R249). -/
namespace Sys2Proof.Machine

/-! ### The card (R248) -/

def swapEnta (c : Card) : Nat := cardF c 0 64
def swapEntb (c : Card) : Nat := cardF c 64 64
def swapWid (c : Card) : Nat := cardF c 128 3
def swapMove (c : Card) : Bool := c.getLsbD 131
def swapSuit (c : Card) : BitVec 4 := c.extractLsb' 132 4

/-- The frame size (R248). -/
def swapSize (c : Card) : Nat := 512 * nth [1, 4, 8, 16, 32] (swapWid c) 1

/-- The frame-table entry at a physical address. -/
def entryAt (s : State) (pa : Nat) : Nat := rdNum s pa 8

def entryFrame (e : Nat) : Nat := fld e 6 34 * 64

/-- Whether an entry address serves: aligned and backed, with a valid, well-formed entry (R221). -/
def entryOk (s : State) (pa size : Nat) : Bool :=
  let e := entryAt s pa
  pa % 8 == 0 && backed s pa && backed s (pa + 7) && bit e 0 && fld e 40 24 == 0 && fld e 4 2 == 0 && entryFrame e % size == 0

def frameOk (s : State) (f size : Nat) : Bool := f % size == 0 && backed s f && backed s (f + size - 1)

/-- The two frames of a swap. -/
def swapFrames (s : State) (c : Card) : Nat × Nat :=
  (entryFrame (entryAt s (swapEnta c)), if swapMove c then swapEntb c else entryFrame (entryAt s (swapEntb c)))

def swapOk (s : State) (c : Card) : Bool :=
  let n := swapSize c
  let (fa, fb) := swapFrames s c
  cardF c 504 8 == 1 && cardF c 136 368 == 0 && swapWid c < 5 && entryOk s (swapEnta c) n &&
    (swapMove c || (entryOk s (swapEntb c) n && swapEnta c != swapEntb c)) && frameOk s fa n && frameOk s fb n &&
    (fa + n ≤ fb || fb + n ≤ fa)

/-- The entries of a swap. -/
def swapEntries (c : Card) : List Nat := if swapMove c then [swapEnta c] else [swapEnta c, swapEntb c]

def swapEffect (r : BitVec 5) (s : State) : Act State :=
  match (curBank s s.core).useA r.toNat with
  | .error e => .error e
  | .ok y =>
    match readCard s y with
    | .error e => .error e
    | .ok c =>
      if !swapOk s c then cardFault y 0
      else if !slotFree s then stall
      else
        let (fa, fb) := swapFrames s c
        let foot := (swapEntries c).map (fun e => (e, 8)) ++ [(fa, swapSize c), (fb, swapSize c)]
        let (id, s) := fresh s
        .ok (acceptJob s (newJob s id .swap 0 c [] [] [] [] foot foot))

def execASwap (t : BitVec 4) (r : BitVec 5) (s : State) : Out := issue (.aSwap t r) .a t false (swapEffect r) s

/-! ### The job (R249) -/

/-- The swap engine serves the swaps of all cores in order of arrival. -/
def swapTurn (s : State) (j : Job) : Bool := !(s.cores.any fun p => p.2.jobs.any fun i => i.kind == .swap && decide (i.id < j.id))

/-- Every cached copy of some frame-table entries, changed. -/
def onCopies (s : State) (entries : List Nat) (f : PfcEntry → Option PfcEntry) : State :=
  { s with tables := smap s.tables Table.zero fun t =>
      { t with pfc := t.pfc.filterMap fun e => if entries.contains e.pa then f e else some e } }

/-- Set INSWAP in entries in memory. -/
def setInswap (s : State) : List Nat → State
  | [] => s
  | pa :: l => setInswap (wrBytes s pa (bytesOf (entryAt s pa ||| 4) 8)) l

def execSwapJobStart (core job : Nat) (s : State) : Out :=
  forCore core <|
    match getJob s core job with
    | none => s
    | some j =>
      let free := (swapEntries j.card).all fun pa => !bit (entryAt s pa) 2
      if j.kind == .swap && j.phase == .accepted && swapTurn s j && free && mayBegin s core j (swapSuit j.card) then
        let s := onCopies (setInswap s (swapEntries j.card)) (swapEntries j.card) fun e => some { e with fte := e.fte ||| 4 }
        putJob s core { j with phase := .reading }
      else s

/-- Whether a translation went through one of some frame-table entries. -/
def Used.through (entries : List Nat) : Used → Bool
  | .frame _ pa => entries.contains pa
  | .leaf .. => false

/-- No access and no other accepted job that translated through the entries is left (R249). -/
def entriesIdle (s : State) (j : Job) : Bool :=
  let hit := fun (l : List Used) => l.any (Used.through (swapEntries j.card))
  s.cores.all fun p =>
    !(p.2.bank0.inflight.any fun x => hit x.uses) && !(p.2.bank1.inflight.any fun x => hit x.uses) &&
      !(p.2.jobs.any fun i => i.id != j.id && hit i.uses)

/-- The sectors of a frame with their poison. -/
def frameData (s : State) (f n : Nat) : List Byte × List Bool :=
  (rdBytes s f n, tab (fun i => poisoned s (f + 32 * i)) 0 (n / 32))

def putPoison (s : State) (f : Nat) : List Bool → State
  | [] => s
  | p :: l => putPoison (setPoison s f p) (f + 32) l

def putFrame (s : State) (f : Nat) (d : List Byte × List Bool) : State := putPoison (wrBytes s f d.1) f d.2

/-- Write an entry with INSWAP clear. -/
def putEntry (s : State) (pa e : Nat) : State := wrBytes s pa (bytesOf (if bit e 2 then e - 4 else e) 8)

/-- The frames move and the entries follow. -/
def exchange (s : State) (c : Card) : State :=
  let n := swapSize c
  let (fa, fb) := swapFrames s c
  let ea := entryAt s (swapEnta c)
  let eb := entryAt s (swapEntb c)
  let a := frameData s fa n
  let b := frameData s fb n
  let s := onCopies s (swapEntries c) fun _ => none
  if swapMove c then
    let tier := if fb < 2 ^ 37 then 0 else 2
    putEntry (putFrame s fb a) (swapEnta c) (fld ea 0 1 + tier + fld ea 2 2 * 4 + fb)
  else putEntry (putEntry (putFrame (putFrame s fa b) fb a) (swapEnta c) eb) (swapEntb c) ea

def execSwapJobExchange (core job : Nat) (s : State) : Out :=
  forCore core <|
    match getJob s core job with
    | none => s
    | some j =>
      if j.kind == .swap && j.phase == .reading && entriesIdle s j then dropJob (exchange s j.card) core j else s

end Sys2Proof.Machine
end

