-- ==== Sys2Proof/Machine/Walks.lean ====
section
/-! DEFINITION. The walkers and the filling of the translation caches (R226, R227), banks of the near tier (R199), and
errors that storage finds (R308, R309). -/
namespace Sys2Proof.Machine

/-! ### Walks (R226, R227) -/

/-- A context that no cache serves for a page misses: it joins the walk of the page, or begins one (R227). -/
def startWalk (s : State) (c bank : Nat) (page : Nat) : State :=
  let v := viewOf s c (bank == 1)
  if (getBank s c (bank == 1)).st == .empty || (getCore s c).gated ||
      ((getCore s c).tlb ++ (getTable s (tableOf c)).tlb).any (tlbHit v (4096 * page)) then s
  else joinWalk s c (bank == 1) page none

def execWalkStart (core bank : Nat) (va : BitVec 48) (s : State) : Out :=
  forCore core (if bank < 2 then startWalk s core bank (va.toNat / 4096) else s)

/-- The walk makes its next read (R226). With the last one it ends and delivers to all that joined it (R227); a walk whose context has
gone ends at once. -/
def advanceWalk (s : State) (w : Walk) : State :=
  let v := viewOf s w.core (w.bank == 1)
  let k := getCluster s (clusterOf w.core)
  if !w.live s then endWalk s v w (.error .wait)
  else
    match readOn s v (4096 * w.vpage.toNat) w.at_ with
    | .ok (.inl r) => setCluster s (clusterOf w.core) { k with walks := k.walks.map fun x => if x.id == w.id then { x with at_ := r } else x }
    | o =>
      let r : X (Nat × Nat × Nat) := match o with
        | .ok (.inr r) => .ok r
        | .error e => .error e
        | .ok (.inl _) => .error .wait
      match w.delivers r with
      | some d => walkDelivers (endWalk s v w r) w d
      | none => endWalk s v w r

def execWalkComplete (cluster slot : Nat) (s : State) : Out :=
  forUnit cluster Config.clusters <|
    match if slot < walkSlots then (getCluster s cluster).walks[slot]? else none with
    | none => s
    | some w => advanceWalk s w

/-! ### The plane-frame cache (R226, R227) -/

/-- A frame-table entry that may be cached: valid, well formed and not being exchanged. -/
def cacheable (s : State) (e w : Nat) : Bool :=
  let frame := fld e 6 34 * 64
  bit e 0 && !bit e 2 && fld e 40 24 == 0 && fld e 4 2 == 0 && frame % (512 * w) == 0 && backed s frame &&
    backed s (frame + 512 * w - 1)

/-- The table reads a frame-table entry for a context into its plane-frame cache. -/
def fillFrame (s : State) (c bank : Nat) (psdid : BitVec 16) (p : BitVec 3) (frame : BitVec 36) : State :=
  let v := viewOf s c (bank == 1)
  let t := getTable s (tableOf c)
  let same := fun (e : PfcEntry) =>
    e.tenant == v.tenant && e.bank == bank && e.psdid == psdid && e.plane == p && e.frame == frame
  if (getBank s c (bank == 1)).st == .empty || v.xlat.psdn.toNat ≤ psdid.toNat || t.pfc.any same then s
  else
    match readStruct s (v.xlat.psdt.toNat / 64 * 64 + 64 * psdid.toNat) 64 5 with
    | .error _ => s
    | .ok d =>
      if psdBad d || psdPlanes d ≤ p.toNat then s
      else
        match readStruct s (frameTablePa d p.toNat frame.toNat) 8 0 with
        | .error _ => s
        | .ok e =>
          if cacheable s e (planeWidth (psdAttr d p.toNat)) then
            setTable s (tableOf c) { t with pfc := cacheAdd 4096 t.pfc ⟨v.tenant, bank, psdid, p, frame, frameTablePa d p.toNat frame.toNat, w64 e⟩ }
          else s

def execPlaneFrameFill (core bank : Nat) (psd : BitVec 16) (plane : BitVec 3) (frame : BitVec 36) (s : State) : Out :=
  forCore core (if bank < 2 then fillFrame s core bank psd plane frame else s)

/-! ### Banks of the near tier (R199) -/

/-- The banks of a channel that were present at assembly (R383). -/
def banksPresent (s : State) (ch : Nat) : BitVec 16 := sget s.disc.banks ch 0xFFFF

def setNear (s : State) (ch : Nat) (m : Near) : State := { s with near := sset s.near ch m Near.zero }

/-- A privileged write of LIVE: only a bank that is present can return to service. -/
def execNearLiveWrite (ch : BitVec 10) (v : BitVec 16) (s : State) : Out :=
  .next <| hostWrite s .near (4 * ch.toNat) v.toNat
    (setNear s ch.toNat { nearMap s ch.toNat with live := v &&& banksPresent s ch.toNat })

/-- The device retires a bank by itself and posts a BANK message: for an uncorrectable error or a thermal event (R199, R387). -/
def execBankFailureEvent (ch : BitVec 10) (bank : BitVec 4) (cause : BitVec 8) (s : State) : Out :=
  .next <|
    let m := nearMap s ch.toNat
    if m.live.getLsbD bank.toNat && (cause == 1 || cause == 2) then
      postPlain (setNear s ch.toNat { m with live := m.live &&& ~~~((1 : BitVec 16) <<< bank.toNat) }) 4 cause
        (bank.setWidth 64) 0 0 0 ch 0
    else s

/-! ### Errors in storage (R308, R309) -/

/-- Whether an access has a place in the 32-byte sector of a location. -/
def Access.onSector (x : Access) (loc : Nat) : Bool :=
  x.places.any fun p => match p.tgt with
    | .mem l _ => l / 32 == loc / 32 && p.keep != 0
    | _ => false

/-- The error strikes an atomic between its read and its write: it can be taken back while its word is the last one that
the A engine issued. -/
def Bank.canStrike (b : Bank) (x : Access) : Bool := x.isAtomic && b.st == .running && b.lastIssued x

/-- The cores and banks with an access in flight on the sector. -/
def sectorUsers (s : State) (loc : Nat) : List (Nat × Bool × Access) :=
  s.cores.flatMap fun p =>
    ((p.2.bank0.inflight.filter fun x => x.onSector loc).map fun x => (p.1, false, x)) ++
      ((p.2.bank1.inflight.filter fun x => x.onSector loc).map fun x => (p.1, true, x))

/-- The frame-table entry at `pa`, of a table that no context here and no tenant record leads to, gets POISON if its frame holds the
sector (R221). -/
def poisonFrame (s : State) (loc pa : Nat) : State :=
  let e := entryAt s pa
  if (planeTables s).any (fun t => t.holds pa) || !bit e 0 || pa % 8 != 0 || !backed s pa || loc < entryFrame e ||
      entryFrame e + 16384 ≤ loc then s
  else markEntry s pa

/-- The sector becomes poisoned, and the entries of its frame with it (R221, R308). -/
def poisonSector (s : State) (loc : Nat) (fte : Option Nat) : State :=
  let s := poisonSectors s [loc]
  match fte with
  | some pa => poisonFrame s loc pa
  | none => s

/-- A sector of storage becomes poisoned. `fte` may name the entry of the frame that holds it in a table that no context here and
no tenant record leads to. An access in flight has read or checked the sector already: the error then comes after it, or, where
that is an atomic, strikes it (log 24). -/
def strikeSector (s : State) (loc : Nat) (fte : Option Nat) : State :=
  if !(if loc < spadBase then backed s loc else loc < spadLoc Config.cores 0) then s
  else
    match sectorUsers s loc with
    | [] => poisonSector s loc fte
    | [(c, b, x)] =>
      let k := getBank s c b
      if k.canStrike x && k.pend.isNone && b == (getCore s c).active then
        let s := modBank (poisonSector s loc fte) c b fun v => v.unissue x
        raiseFault s c ⟨FaultCode.dataPoison.num, 0, x.origin.pc, scalarOf x.data, 0, x.suit, faultInfo 1 0 0 2⟩ none
      else s
    | _ => s

def execSectorPoison (loc : Nat) (fte : Option Nat) (s : State) : Out := .next (strikeSector s loc fte)

end Sys2Proof.Machine
end

