-- ==== Sys2Proof/Machine/Platform.lean ====
section
/-! DEFINITION. The host's side: the BAR2 window (R381, R382), the fault mailbox's registers (R385, R388), the management core
and its firmware (R389-R392), the readback block (R378-R380), plain register writes (R10) and node reset (R402). -/
namespace Sys2Proof.Machine

/-! ### BAR2 (R382) -/

/-- The physical address of a BAR2 offset (R389). -/
def bar2Pa (s : State) (off : Nat) : Nat := fld s.mgmt.hostwin.toNat 32 8 * 2 ^ 32 + off

/-- A host access of 1 to 64 bytes inside the window. -/
def bar2Fits (off len : Nat) : Bool := 1 ≤ len && len ≤ 64 && off + len ≤ 2 ^ 32

/-- The parts of a range of bytes that lie in one sector each: address and length. -/
def sectorParts (pa n : Nat) : List (Nat × Nat) :=
  tab (fun i =>
    let lo := if i = 0 then pa else (pa / 32 + i) * 32
    (lo, min (pa + n) ((pa / 32 + i + 1) * 32) - lo)) 0 ((pa % 32 + n + 31) / 32)

/-- The data of one part: zero on a retired bank. -/
def hostBytes (s : State) (p : Nat × Nat) : List Byte := if retired s p.1 then tab (fun _ => 0) 0 p.2 else rdBytes s p.1 p.2

def hostRead (s : State) (pa n : Nat) : HostReply :=
  let l := sectorParts pa n
  if l.all fun p => backed s p.1 then
    .data (l.flatMap (hostBytes s)) (l.any fun p => poisoned s p.1 || retired s p.1)
  else .unsupported

def execBar2Read (off : BitVec 32) (len : Nat) (s : State) : Out :=
  .next (if bar2Fits off.toNat len then { s with reply := hostRead s (bar2Pa s off.toNat) len } else s)

/-- The header of a host request: its offset in BAR2 and its length. -/
structure HostReq where
  off : BitVec 32
  len : Nat

/-- One part of a host write: served, or dropped and logged with the request's header. -/
def hostPut (h : HostReq) (s : State) (pa : Nat) (bytes : List Byte) : State :=
  if !backed s pa then { s with aer := s.aer ++ [.unsupported pa h.off h.len] }
  else if retired s pa || (poisoned s pa && bytes.length != 32) then { s with aer := s.aer ++ [.abort pa h.off h.len] }
  else wrBytes (if bytes.length = 32 then setPoison s pa false else s) pa bytes

def hostWriteParts (h : HostReq) (s : State) (bytes : List Byte) : List (Nat × Nat) → State
  | [] => s
  | p :: l => hostWriteParts h (hostPut h s p.1 (bytes.take p.2)) (bytes.drop p.2) l

/-- A host write through BAR2; the first one after a reset begins to stage an image, which is step 2 of the bring-up (R402,
log 52). -/
def execBar2Write (off : BitVec 32) (bytes : List Byte) (s : State) : Out :=
  .next <|
    if bar2Fits off.toNat bytes.length then
      let pa := bar2Pa s off.toNat
      hostWriteParts ⟨off, bytes.length⟩ { s with reply := .none, mgmt := { s.mgmt with staged := true } } bytes
        (sectorParts pa bytes.length)
    else s

/-! ### The mailbox's registers (R385, R388) -/

/-- A held SERVICE message is posted once a slot is free. -/
def Mailbox.postHeld (m : Mailbox) : Mailbox :=
  match m.held with
  | [] => m
  | x :: l => if m.full then m else { m.put x with held := l }

def execMailboxHeldPost (s : State) : Out := .next { s with mbox := s.mbox.postHeld }

/-- A write of MBOX.BASE clears LOST. -/
def writeMboxBase (s : State) (v : Word) : State :=
  { s with mbox := { s.mbox with base := v &&& 0xFFFFFFFFFFFFF000, lost := 0 } }

def execMboxBaseWrite (v : Word) (s : State) : Out := .next (hostWrite s .mailbox 0 v.toNat (writeMboxBase s v))

/-- The other registers of the mailbox. -/
def writeMailbox (s : State) (off v : Nat) : State :=
  let m := s.mbox
  match off with
  | 0x00 => writeMboxBase s (w64 v)
  | 0x08 =>
    let v := low 32 v
    if low 4 v = 0 ∨ v / 16 ≠ 0 then s else { s with mbox := { m with log2 := BitVec.ofNat 4 v } }
  | 0x18 => { s with mbox := { m with head := BitVec.ofNat 32 v } }
  | 0x28 => { s with mbox := { m with en := bit v 0 && m.log2 != 0 } }
  | _ => s

/-! ### The management core (R389-R392) -/

/-- LOAD: verification of the staged image begins; before step 2 of the bring-up it is refused with FAIL = 1 (R402). -/
def mgmtLoad (s : State) : State :=
  { s with mgmt := if s.mgmt.staged then { s.mgmt with st := 1, fail := 0 } else { s.mgmt with fail := 1 } }

def execMgmtLoad (s : State) : Out := .next (mgmtLoad s)

/-- RESET: the management core is held. -/
def mgmtReset (s : State) : State := { s with mgmt := { s.mgmt with st := 0 } }

def execMgmtReset (s : State) : Out := .next (mgmtReset s)

/-- The physical address of the staged image. -/
def imageAt (s : State) : Nat := fld s.mgmt.img.toNat 8 32 * 256

/-- The first check of R391 on an image laid out as R390. -/
def imageFormatOk (s : State) : Bool :=
  let a := imageAt s
  let n := rdNum s (a + 12) 4
  backed s a && rdNum s a 4 == 0x34445746 && rdNum s (a + 4) 4 == 0x100 && 1 ≤ n && n ≤ 2 ^ 24 && rdNum s (a + 0x40F0) 16 == 0 &&
    rdNum s (a + 0x42B0) 80 == 0

/-- The RSA modulus and the SLH-DSA public key of the staged image (R390). -/
def imageRsaKey (s : State) : List Byte := rdBytes s (imageAt s + 0x4100) 384
def imageSlhKey (s : State) : List Byte := rdBytes s (imageAt s + 0x4280) 48

/-- The digest that both signatures cover: the first 16 bytes of the image, followed by its body (R391). -/
def imageDigest (s : State) : BitVec 384 :=
  let a := imageAt s
  Config.sha384 (rdBytes s a 16 ++ rdBytes s (a + 0x4300) (rdNum s (a + 12) 4))

/-- FAIL of the first check of R391 that the staged image fails; 0 where it passes them all. -/
def imageFail (s : State) : BitVec 8 :=
  let a := imageAt s
  if !imageFormatOk s then 1
  else if Config.sha384 (imageRsaKey s) != s.disc.rsaHash || Config.sha384 (imageSlhKey s) != s.disc.slhHash then 2
  else if rdNum s (a + 8) 4 < s.disc.minSvn.toNat then 3
  else if !Config.rsaOk (imageRsaKey s) (rdBytes s (a + 0x0010) 384) (imageDigest s) then 4
  else if !Config.slhOk (imageSlhKey s) (rdBytes s (a + 0x0190) 16224) (imageDigest s) then 5
  else 0

/-- The SVN of the staged image. -/
def imageSvn (s : State) : BitVec 32 := BitVec.ofNat 32 (rdNum s (imageAt s + 8) 4)

/-- Verification ends: the first failing check gives FAIL, or else the image runs (R391). An event that reports another outcome than
that of the staged image is none. -/
def execFirmwareVerifyDone (fail : BitVec 8) (svn : BitVec 32) (s : State) : Out :=
  .next <|
    if s.mgmt.st ≠ 1 ∨ fail ≠ imageFail s ∨ svn ≠ imageSvn s then s
    else if fail = 0 then
      { s with mgmt := { s.mgmt with st := 2, fail := 0, svn := svn }, disc := { s.disc with fwok := true } }
    else { s with mgmt := { s.mgmt with st := 3, fail := fail } }

/-- The requests that the node answers (R392), by their SPDM codes (log 12). -/
def spdmKnown : List Nat := [0x84, 0xE1, 0xE3, 0x81, 0x82, 0x83, 0xE0, 0xE4, 0xE5, 0xFE]

/-- The code of the answer to an SPDM request and its error code: Busy while the management core does not run (R391), and that of a
request that the node does not support (log 12). -/
def spdmAnswer (s : State) (code : Byte) : Byte × Byte :=
  if s.mgmt.st ≠ 2 then (0x7F, 0x03) else if code.toNat ∈ spdmKnown then (code &&& 0x7F, 0) else (0x7F, 0x07)

def execSpdmRequest (code : Byte) (s : State) : Out :=
  .next { s with mgmt := { s.mgmt with spdm := some (spdmAnswer s code) } }

/-- The registers of the management block. -/
def writeManagement (s : State) (off v : Nat) : State :=
  match off with
  | 0x00 => let s := if bit v 0 then mgmtLoad s else s
    if bit v 1 then mgmtReset s else s
  | 0x10 => { s with mgmt := { s.mgmt with img := w64 (fld v 8 32 * 256) } }
  | 0x20 => { s with mgmt := { s.mgmt with hostwin := w64 (fld v 32 8 * 2 ^ 32) } }
  | _ => s

/-! ### The readback block (R378-R380) -/

def tlbWords (e : TlbEntry) : List Nat :=
  let pos := e.leaf.getLsbD 2
  [e.tenant.toNat * 2 ^ 48 + e.vbase.toNat / 4096 * 4096 + b2n (e.bank == 1) * 8 + e.level.toNat * 2 + 1, e.leaf.toNat,
   if pos then psdPlanes e.psd.toNat * 2 ^ 48 + psdPosCount e.psd.toNat else 0, 0]

def pfcWords (e : PfcEntry) : List Nat :=
  [e.tenant.toNat * 2 ^ 48 + e.psdid.toNat * 2 ^ 32 + e.plane.toNat * 16 + b2n (e.bank == 1) * 8 + 1, e.fte.toNat,
   e.frame.toNat, 0]

def walkWords (w : Walk) : List Nat :=
  [w.tenant.toNat * 2 ^ 48 + w.vpage.toNat * 4096 + w.at_.level.toNat * 16 + b2n (w.bank == 1) * 8 + 1, w.joined.toNat, 0, 0]

/-- The range that the shoe holds for a core: that of the launch it runs, else of one whose range is left. -/
def rangeWords (s : State) (c : Nat) : List Nat :=
  let held := fun (p : Nat × Launch) => recRange p.2.record && p.2.began && (recCores p.2.record).contains c
  let mine := (active s).find? fun p => held p && (getBank s c false).launch == some p.1
  match mine.or ((active s).find? fun p => held p && sget p.2.lo c 0 < sget p.2.hi c 0) with
  | some (n, l) => [2 ^ 63 + low 48 (sget l.lo c 0), low 48 (sget l.hi c 0), n, 0]
  | none => [0, 0, 0, 0]

/-- The launch in slot `n`; CORES counts the cores on which a context of it stands. -/
def launchWords (s : State) (n : Nat) (l : Launch) : List Nat :=
  [recKd l.record, 2 ^ 63 + b2n (recRange l.record) * 2 ^ 62 + low 48 l.next, l.head.toNat * 16 + l.queue.toNat,
   (l.started.eraseDups.filter (runsLaunch s n)).length]

/-- The streams of the node, the sending ones first. -/
def streamWords (s : State) (i : Nat) : List Nat :=
  match s.fabric.sends[i]? with
  | some t => [2 ^ 63 + 2 ^ 62 + t.k.toNat * 2 ^ 60 + low 10 t.core * 2 ^ 48 + t.dst.toNat,
               low 7 t.unacked.length * 2 ^ 32 + t.next.toNat, 0, 0]
  | none =>
    match s.fabric.recvs[i - s.fabric.sends.length]? with
    | some t => [2 ^ 63 + t.k.toNat * 2 ^ 60 + low 10 t.core * 2 ^ 48 + t.src.toNat, t.expect.toNat, 0, 0]
    | none => [0, 0, 0, 0]

/-- The entry that a selector names; zeros where it names none. -/
def rbWords (s : State) (sel : Nat) : List Nat :=
  let unit := fld sel 48 10
  let i := fld sel 0 16
  let of := fun (l : Option (List Nat)) => l.getD [0, 0, 0, 0]
  match fld sel 60 4 with
  | 0 => of ((getCore s unit).tlb[i]?.map tlbWords)
  | 1 => of (if unit < 64 then (getTable s unit).tlb[i]?.map tlbWords else none)
  | 2 => of (if unit < 64 then (getTable s unit).pfc[i]?.map pfcWords else none)
  | 3 => of (if unit < 16 ∧ i < walkSlots then (getCluster s unit).walks[i]?.map walkWords else none)
  | 4 => if i = 0 then rangeWords s unit else [0, 0, 0, 0]
  | 5 => of (if i < 64 then (getLaunch s i).map (launchWords s i) else none)
  | 6 => streamWords s i
  | _ => [0, 0, 0, 0]

/-- A write of RB.SEL latches the selected entry. -/
def writeSel (s : State) (v : Nat) : State :=
  let l := rbWords s v
  let d := fun i => w64 (nth l i 0)
  { s with readback := ⟨w64 v &&& 0xF3FF00000000FFFF, d 0, d 1, d 2, d 3⟩ }

def execRbSelWrite (v : Word) (s : State) : Out := .next (writeSel s v.toNat)

/-! ### Register writes (R10) -/

/-- The shoe's registers (R82, R83, R190, R215). -/
def writeShoe (s : State) (off v : Nat) : State :=
  let h := s.shoe
  if 0x1000 ≤ off ∧ off < 0x5000 ∧ off % 4 = 0 then latch (setCc s ((off - 0x1000) / 4) (BitVec.ofNat 32 v))
  else
    match off with
    | 0x420 => { s with shoe := { h with privBase := w64 v &&& 0x0000FFFFFFFFF000 } }
    | 0x428 => { s with shoe := { h with privStride := w64 v &&& 0x1FFFFF000 } }
    | 0x430 => { s with shoe := { h with tentabBase := w64 v &&& 0xFFFFFFFFE0 } }
    | 0x438 => { s with shoe := { h with tentabCount := BitVec.ofNat 17 v } }
    | _ =>
      if 0x400 ≤ off then s
      else
        let n := claimed s (off / 0x40)
        modLq s (off / 0x40) fun q =>
          match off % 0x40 with
          | 0x00 => if q.en then q else { q with base := w64 v &&& 0xFFFFFFFFFFFFF000 }
          | 0x08 =>
            if q.en || v &&& 0xFFFFFFFF0000FFE0 != 0 || low 5 v == 0 || decide (16 < low 5 v) ||
                q.leavesNoRoom n (low 5 v) q.tail then q
            else { q with log2 := BitVec.ofNat 5 v, ten := BitVec.ofNat 16 (v / 2 ^ 16) }
          | 0x18 => q.setTail n (BitVec.ofNat 32 v)
          | 0x20 => q.setCtl (BitVec.ofNat 32 v)
          | 0x28 => { q with ovf := q.ovf && !bit v 1 }
          | _ => q

/-- FABPd.CTL (R299): EN, QUIESCE, then RETRAIN. -/
def writePortCtl (s : State) (d v : Nat) : State :=
  let s := writeQuiesce (writeEn s d (bit v 0)) d (bit v 1)
  if bit v 2 then retrain s d else s

/-- FABPd.LOCK (R393): REFUSED, then the command. -/
def writeLock (s : State) (d v : Nat) : State :=
  let s := if bit v 16 then modPort s d fun p => { p with refused := false } else s
  match fld v 2 2 with
  | 1 => lockCmd s d
  | 2 => unlockCmd s d
  | _ => s

/-- The fabric's registers (R298). A RETRY or TIMEOUT of 0, which lies outside the range of R299, is stored as it is (DESIGN CHOICE,
log 40). -/
def writeFabric (s : State) (off v : Nat) : State :=
  let f := s.fabric
  if off = 0 then writeLabel s v
  else if off = 0x10 then { s with fabric := { f with downBase := w64 v &&& 0xFFFFFFFFC1 } }
  else if off = 0x18 then writeDowngen s
  else if off = 0x20 then { s with fabric := { f with e2eRetry := BitVec.ofNat 8 (v / 2 ^ 16), e2eTimeout := BitVec.ofNat 16 v } }
  else if 0x100 ≤ off ∧ off < 0x100 + 0x20 * 22 ∧ off % 0x20 = 0 then writePortCtl s ((off - 0x100) / 0x20) v
  else if 0x400 ≤ off ∧ off < 0x400 + 8 * 22 ∧ off % 8 = 0 then writeLock s ((off - 0x400) / 8) v
  else s

/-- CCc.CTL: a command to a bank (R347). -/
def writeCtl (s : State) (c v : Nat) : State :=
  let b := bit v 8
  let s := modCore s c fun k => { k with ctlBank := b }
  match fld v 0 3 with
  | 1 => ccStop c b s
  | 2 => ccRun c b s
  | 3 => ccEvict c b s
  | 4 => ccRestore c b s
  | 5 => ccRelease c b s
  | 6 => ccRetry c b s
  | 7 => ccAbort c b s
  | _ => s

/-- The control blocks of the cores (R346). -/
def writeCore (s : State) (off v : Nat) : State :=
  let c := off / 0x40
  if Config.cores ≤ c then s
  else
    match off % 0x40 with
    | 0x00 => writeCtl s c v
    | 0x10 => modCore s c fun k => { k with spmask := BitVec.ofNat 32 v }
    | _ => s

/-- The power block (R397). -/
def writePower (s : State) (off v : Nat) : State :=
  let p := s.power
  match off with
  | 0x00 => { s with power := { p with cap := BitVec.ofNat 16 (min 2800 (max 300 (low 16 v))) } }
  | 0x08 => { s with power := { p with win := BitVec.ofNat 20 (min 1000000 (max 10 (low 20 v))) } }
  | 0x28 =>
    let p := { p with gid := BitVec.ofNat 8 v, npkg := BitVec.ofNat 4 (v / 2 ^ 8), budget := BitVec.ofNat 16 (v / 2 ^ 16) }
    { s with power := if p.gid = s.power.gid then p else { p with reports := [], ages := [] } }
  | 0x30 => { s with power := { p with seen := p.seen && !bit v 1 } }
  | _ => s

/-- A write of a register of a block, with the behaviour that its own chapter gives it. -/
def writeBlock (s : State) (blk : Block) (off v : Nat) : State :=
  match blk with
  | .shoe => writeShoe s off v
  | .near =>
    if off < 4096 ∧ off % 4 = 0 then
      setNear s (off / 4) { nearMap s (off / 4) with live := BitVec.ofNat 16 v &&& banksPresent s (off / 4) }
    else s
  | .fabric => writeFabric s off v
  | .core => writeCore s off v
  | .readback => if off = 0 then writeSel s v else s
  | .power => writePower s off v
  | .mailbox => writeMailbox s off v
  | .management => writeManagement s off v

/-- The blocks that run before the node is ready (R402). -/
def Block.early : Block → Bool
  | .readback | .power | .management => true
  | _ => false

def execRegisterWrite (blk : Block) (off : BitVec 20) (v : Word) (s : State) : Out :=
  .next (if Block.early blk then writeBlock s blk off.toNat v.toNat
         else hostWrite s blk off.toNat v.toNat (writeBlock s blk off.toNat v.toNat))

/-! ### Reset and bring-up (R402) -/

/-- A node reset. Storage keeps its contents (log 27); what lies outside the node, and the model's own counters, stay. -/
def nodeReset (s : State) : State :=
  { State.reset with
    agenda := s.agenda
    turn := s.turn
    seq := s.seq
    free := s.free
    mem := s.mem
    poison := s.poison
    disc := { s.disc with ready := false, fwok := false }
    mbox := { State.reset.mbox with ring := s.mbox.ring, msix := s.mbox.msix } }

def execNodeReset (s : State) : Out := .next (nodeReset s)

/-- LIVE and ILV of every channel as at assembly (R384). -/
def assembledNear (s : State) : SMap Near :=
  (tab (fun c => (c, (⟨banksPresent s c, banksPresent s c⟩ : Near))) 0 1024).filter fun p => p.2 != Near.zero

/-- The writes that were made before the node was ready take effect in their order. -/
def applyDeferred (s : State) : List (Block × BitVec 20 × Word) → State
  | [] => s
  | (b, off, v) :: l => applyDeferred (writeBlock s b off.toNat v.toNat) l

/-- The running firmware has trained the tiers: banks, label, READY, and the writes that waited. -/
def execBringupReady (s : State) : Out :=
  .next <|
    if s.disc.ready || s.mgmt.st != 2 then s
    else
      let l := s.mgmt.deferred
      applyDeferred
        { s with
          near := assembledNear s
          fabric := { s.fabric with label := s.disc.label0 }
          disc := { s.disc with ready := true }
          mgmt := { s.mgmt with deferred := [] } } l

end Sys2Proof.Machine
end

