-- ==== Sys2Proof/Machine/Remote.lean ====
section
/-! DEFINITION. Request packets at their target (R195, R304, R307, R309, R310) and their answers at the source (R307, R311):
delivery in stream order, duplicates, resends, unreachable targets and the ends of streams. -/
namespace Sys2Proof.Machine

/-! ### Receiving streams (R307) -/

def RecvStream.is (t : RecvStream) (src : Label) (core : Nat) (k : BitVec 2) : Bool :=
  t.src == src && t.core == core && t.k == k

/-- The stream, or one that has received nothing. -/
def getRecv (s : State) (src : Label) (core : Nat) (k : BitVec 2) : RecvStream :=
  (s.fabric.recvs.find? fun t => t.is src core k).getD ⟨src, core, k, 0, []⟩

/-- Put a stream in place of the one with its key. -/
def putRecv (s : State) (t : RecvStream) : State :=
  let l := s.fabric.recvs
  let l := match lfind (fun u : RecvStream => u.is t.src t.core t.k) l 0 with
    | some i => lset l i t
    | none => l ++ [t]
  { s with fabric := { s.fabric with recvs := l } }

/-- The last `n` elements of a list. -/
def lastN {α : Type} (n : Nat) (l : List α) : List α := l.drop (l.length - n)

/-- A response goes out toward the source over the route class that its packet came with, if the first port of that path is up
(R302, R303). -/
def sendReply (s : State) (p : Packet) (num : BitVec 32) (r : Response) : State :=
  transmit s
    { blankPacket s p.core p.src p.sclass p.kind p.tenant 0 with rclass := p.rclass, num := num, resp := some r }

/-- A packet has been delivered: EXPECT counts it, the responses of the last 64 packets are kept, and the responses go out. -/
def delivered (s : State) (p : Packet) (l : List (BitVec 32 × Response)) : State :=
  let t := getRecv s p.src p.core p.sclass
  let s := putRecv s { t with expect := t.expect + 1, saved := lastN 64 (t.saved ++ l) }
  l.foldl (fun s x => sendReply s p x.1 x.2) s

/-- An earlier packet is a duplicate: it is acknowledged again with its saved response (R307). -/
def acknowledgeAgain (s : State) (p : Packet) : State :=
  match (getRecv s p.src p.core p.sclass).saved.find? fun x => x.1 == p.num with
  | some (n, r) => sendReply s p n r
  | none => s

/-- The packet has come in over the last hop of its path to this node. -/
def heardFrom (s : State) (src dst : Label) (k : Option (BitVec 2)) : State :=
  match k with
  | none => s
  | some k =>
    match (path src.toNat dst.toNat k.toNat).find? fun h => h.1 ^^^ 2 ^ h.2 == s.fabric.label.toNat with
    | some (_, d) => modPort s d Port.heard
    | none => s

/-! ### Performing a request (R195, R203, R304) -/

/-- The address that a request names where nothing tells the region of its base: a lane adds its index in words (R207). -/
def bareAddr (p : Packet) : Word :=
  if p.lane then nodeAddr p p.off.toNat + w64 4 * p.opnd else nodeAddr p p.off.toNat

/-- SPACE/DENIED on a NODE address (R195). -/
def nodeDenied (p : Packet) : FaultRec :=
  ⟨FaultCode.space.num, 0, 0, bareAddr p, p.plane, p.suit, w64 (3 + 5 * 2 ^ 32)⟩

/-- The view of a request: the tenant record of its tenant on this node; none where that is not usable (R195). The spec names only a
tenant id at or beyond TENTAB.COUNT; a record that is malformed, unbacked, poisoned or on a retired bank counts the same (DESIGN
CHOICE, log 59). -/
def requestView (s : State) (p : Packet) : Option View := (tenantXlat s p.tenant).map fun x => tenantView p.tenant x

/-- What a request comes to: it is not delivered yet, or its response. -/
abbrev Served := Option (State × Response)

/-- A request that stops: it waits, or answers its fault. -/
def refused (s : State) : Stop → Served
  | .fault code addr plane suit info => some (s, .fault ⟨code.num, 0, 0, addr, plane, suit, info⟩)
  | _ => none

/-- A REMAP holds later accesses to its channel back (R366). -/
def heldByRemap (s : State) (ps : List Place) : Bool := remapHolds s s.seq ps

def readPlaces (s : State) : List Place → Nat
  | [] => 0
  | p :: l => rdPlace s p + readPlaces s l <<< p.bits

def writePlaces (s : State) : List Place → Nat → State
  | [], _ => s
  | p :: l, v => writePlaces (wrPlace s p (low p.bits v)) l (v >>> p.bits)

/-- ILLEGAL/VALUE at the address of the request. -/
def badRequest (p : Packet) : Stop := .fault .illegal (nodeAddr p p.off.toNat) p.plane p.suit (faultInfo 9)

/-- The address that a load, store or lane names: a lane adds its index in the units of the region that its base lies in
(R207). -/
def packetAddr (s : State) (v : View) (p : Packet) : Word :=
  let x := nodeAddr p p.off.toNat
  if p.lane then x + w64 ((if inPosition s v x then 1 else 4) * p.opnd.toNat) else x

/-- Where a request lies on this node. -/
def locateHere (s : State) (v : View) (p : Packet) (rd wr : Bool) : Act Found :=
  locate s v s.seq (packetAddr s v p) p.plane p.suit p.size rd wr p.lane

/-- A load, a store or a lane; a sector of a compressed block lies in a byte region (R246). -/
def servePlain (s : State) (v : View) (p : Packet) (wr : Bool) : Served :=
  if p.op = 0x4D ∧ inPosition s v (nodeAddr p p.off.toNat) then refused s (badRequest p)
  else
    match locateHere s v p (!wr) wr with
    | .error e => refused s e
    | .ok f =>
      if heldByRemap s f.places then none
      else if wr then some (writePlaces s f.places (ofBytes p.data), .data [] f.clamped)
      else some (s, .data (bytesOf (readPlaces s f.places) p.size) f.clamped)

/-- A request that asks where a lane lies, before any is read or written (R207, R208): it answers the lane's address, which may lie
on another node, or the fault that the lane would raise here. -/
def serveFind (s : State) (v : View) (p : Packet) : Served :=
  let x := packetAddr s v p
  let told := some (s, .data (bytesOf x.toNat 8) false)
  if isRemote s x || aperture x != .node then told
  else
    match locateHere s v p (p.op != 0x4F) (p.op == 0x4F) with
    | .error e => refused s e
    | .ok _ => told

/-- An atomic: one indivisible step at its point of coherence; an error that strikes between its read and its write leaves
the sector poisoned and nothing written (R309, R332-R334). -/
def serveAtomic (s : State) (v : View) (p : Packet) (strike : Bool) : Served :=
  let x := nodeAddr p p.off.toNat
  match liftX x p.plane p.suit (resolve s v x p.plane.toNat p.size true true false) with
  | .error e => refused s e
  | .ok _ =>
    if !atomicFits s v x p.size then refused s (badRequest p)
    else
      match locate s v s.seq x p.plane p.suit p.size true true false with
      | .error e => refused s e
      | .ok f =>
        if heldByRemap s f.places then none
        else
          let o := readPlaces s f.places
          if strike then
            let s := poisonSectors s (f.places.filterMap Place.loc)
            some (s, .fault ⟨FaultCode.dataPoison.num, 0, 0, x, p.plane, p.suit, faultInfo 1 0 0 2⟩)
          else
            let s := match atomicNew p.op.toNat p.wide (8 * p.size) o p.opnd.toNat p.swap.toNat with
              | some n => writePlaces s f.places n
              | none => s
            some (s, .data (bytesOf o p.size) f.clamped)

/-- A replica: appended where its queue takes it; a full queue answers that it has no room (R97). -/
def serveReplica (s : State) (p : Packet) : Served :=
  let q := p.op.toNat % 16
  let v := getLq s q
  if !v.en || !v.dev then
    some (s, .fault ⟨FaultCode.link.num, 0, 0, nodeAddr p 0, 0, 0, faultInfo 1 0 0 p.dst.toNat⟩)
  else if queueFull s q then some (s, .fault FaultRec.zero)
  else some (appendRecord s q (BitVec.ofNat 512 (ofBytes p.data)) true, .data [] false)

/-- A request that one packet carries. The data of a collective arrives by COLLECTIVE_STEP (log 25). -/
def serveOne (s : State) (p : Packet) (strike : Bool) : Served :=
  if p.kind = .replica then serveReplica s p
  else
    match requestView s p with
    | none => some (s, .fault (nodeDenied p))
    | some v =>
      if p.ebits ≠ 0 then
        if p.op = 0x73 then some (s, .many (p.elems.map fun _ => (0, none)) false)
        else match serveElems s v s.seq p with
          | .ok r => some r
          | .error _ => none
      else
        match p.kind with
        | .atomic => serveAtomic s v p strike
        | .load => if p.lane && p.op != 0 then serveFind s v p else servePlain s v p false
        | _ => servePlain s v p true

/-! ### LDV and STV (R304) -/

/-- The bytes of part `i` of the data of a whole access. -/
def partBytes (off : Nat) (data : List Byte) (p : Packet) : List Byte := (data.drop (p.off.toNat - off)).take p.size

/-- The parts of an LDV or STV, the last one last: resolved whole before any of it performs. -/
def serveVec (s : State) (l : List Packet) : Option (State × List (BitVec 32 × Response)) :=
  match l with
  | [] => none
  | p :: _ =>
    match requestView s p with
    | none => some (s, l.map fun q => (q.num, .fault (nodeDenied p)))
    | some v =>
      let wr := p.kind == .store
      match locateVec s v p.plane p.suit (!wr) wr (nodeAddr p p.off.toNat) with
      | .error (.fault code addr plane suit info) =>
        some (s, l.map fun q => (q.num, .fault ⟨code.num, 0, 0, addr, plane, suit, info⟩))
      | .error _ => none
      | .ok f =>
        if heldByRemap s f.places then none
        else if wr then
          some (writePlaces s f.places (ofBytes (l.flatMap fun q => q.data)), l.map fun q => (q.num, .data [] f.clamped))
        else
          let data := bytesOf (readPlaces s f.places) 512
          some (s, l.map fun q => (q.num, .data (partBytes p.off.toNat data q) f.clamped))

/-- The lanes of a SCAT toward this node with their data, each resolved before any is written (R208). -/
def locateScat (s : State) (v : View) : List Packet → Act (List (Place × Nat) × Bool)
  | [] => .ok ([], false)
  | p :: l =>
    match locateHere s v p false true with
    | .error e => .error e
    | .ok f =>
      match locateScat s v l with
      | .error e => .error e
      | .ok (r, c) => .ok (f.places.map (fun q => (q, ofBytes p.data)) ++ r, f.clamped || c)

/-- The lanes of a SCAT toward this node, the last one last: they are written in their order, so that of two that name one
location the higher lane's value stays (R208). Lanes before the last one have been acknowledged as they came (log 6). -/
def serveScat (s : State) (l : List Packet) (last : Packet) : Served :=
  match requestView s last with
  | none => some (s, .fault (nodeDenied last))
  | some v =>
    match locateScat s v l with
    | .error e => refused s e
    | .ok (r, c) =>
      if heldByRemap s (r.map fun q => q.1) then none
      else some (r.foldl (fun s q => wrPlace s q.1 (low q.1.bits q.2)) s, .data [] c)

def sameStream (p q : Packet) : Bool := p.src == q.src && p.core == q.core && p.sclass == q.sclass

/-! ### Delivery (R307, R310) -/

/-- Every stream has reached the mark that an ordered-flag packet carries for it. -/
def marksReached (s : State) (p : Packet) : Bool :=
  (List.zip (tab (fun i => i) 0 4) p.mark).all fun m =>
    decide (0 ≤ ((getRecv s p.src p.core (BitVec.ofNat 2 m.1)).expect - m.2).toInt)

/-- Two packets are parts of one access. -/
def samePart (p q : Packet) : Bool := sameStream p q && p.swap == q.swap

/-- A part of an access is kept until the last has come. -/
def keepPart (s : State) (p : Packet) : State := { s with fabric := { s.fabric with parts := s.fabric.parts ++ [p] } }

/-- The parts of an access are kept no longer. -/
def dropParts (s : State) (p : Packet) : State :=
  { s with fabric := { s.fabric with parts := s.fabric.parts.filter fun q => !samePart p q } }

/-- The next packet of its stream is delivered: the parts of an LDV or STV, and the lanes of a SCAT, gather until the last
has come. -/
def deliver (s : State) (p : Packet) (strike : Bool) : State :=
  let all := s.fabric.parts.filter (samePart p) ++ [p]
  if 1 < p.parts then
    if p.part + 1 < p.parts then delivered (keepPart s p) p (if p.lane then [(p.num, .data [] false)] else [])
    else if p.lane then
      match serveScat s all p with
      | none => s
      | some (s, r) => delivered (dropParts s p) p [(p.num, r)]
    else
      match serveVec s all with
      | none => s
      | some (s, l) => delivered (dropParts s p) p l
  else
    match serveOne s p strike with
    | none => s
    | some (s, r) => delivered s p [(p.num, r)]

/-- An ordered-flag packet whose turn has come is delivered and held no longer. -/
def deliverSto (s : State) (p : Packet) : State :=
  let t := deliver s p false
  if (getRecv t p.src p.core p.sclass).expect = p.num then t
  else { t with fabric := { t.fabric with heldSto := t.fabric.heldSto.filter fun q => !(sameStream p q && q.num == p.num) } }

/-- An ordered-flag packet is held until its stream and every mark have been reached (R310). -/
def holdSto (s : State) (p : Packet) : State :=
  if s.fabric.heldSto.any (fun q => sameStream p q && q.num == p.num) then s
  else { s with fabric := { s.fabric with heldSto := s.fabric.heldSto ++ [p] } }

/-- What the receiver does with a packet, `ahead` of the next number of its stream (R307, R310): the next one is delivered, an
earlier one acknowledged again, a later one discarded; an ordered-flag packet that is not due is held. -/
def receivePacket (s : State) (p : Packet) (ahead : Int) (strike : Bool) : State :=
  if ahead < 0 then acknowledgeAgain s p
  else if p.kind = .sto then (if ahead = 0 ∧ marksReached s p then deliverSto s p else holdSto s p)
  else if ahead = 0 then deliver s p strike
  else s

/-- A request packet reaches this node. -/
def execRemoteRequestDeliver (pkt : Packet) (strike : Bool) (s : State) : Out :=
  .next <|
    if pkt.dst ≠ s.fabric.label ∨ pkt.resp.isSome then s
    else
      receivePacket (heardFrom s pkt.src pkt.dst pkt.rclass) pkt
        (pkt.num - (getRecv s pkt.src pkt.core pkt.sclass).expect).toInt strike

/-- A held ordered-flag packet is delivered once its stream and every mark have been reached (R310). -/
def execStoDeliver (src : Label) (core : Nat) (k : BitVec 2) (s : State) : Out :=
  .next <|
    match s.fabric.heldSto.find? fun q =>
        q.src == src && q.core == core && q.sclass == k && q.num == (getRecv s src core k).expect with
    | none => s
    | some p => if marksReached s p then deliverSto s p else s

/-! ### Answers (R307, R311) -/

/-- The packet of a list that a number names. -/
def sentAs (dst : Label) (k : BitVec 2) (num : BitVec 32) (x : Nat × Label × BitVec 2 × BitVec 32) : Bool :=
  x.2.1 == dst && x.2.2.1 == k && x.2.2.2 == num

/-- The access in flight of a bank that has sent packet `p`. -/
def Bank.sender (b : Bank) (p : Packet) : Option Access :=
  b.inflight.find? fun x => x.sent.any (sentAs p.dst p.sclass p.num)

/-- The access with the answer of its packet `p`. -/
def Access.answered (x : Access) (p : Packet) (r : Response) : Access :=
  let j := match x.sent.find? (sentAs p.dst p.sclass p.num) with
    | some (j, _) => j
    | none => 0
  { x with sent := x.sent.filter fun y => !sentAs p.dst p.sclass p.num y, resps := sput x.resps j r }

/-- The answer of packet `p` goes to the access in bank `b` that has sent it; with all its answers the access goes on, but one that
finds its lanes looks at them at its turn. -/
def wordAnswer (s : State) (c : Nat) (b : Bool) (p : Packet) (r : Response) : State :=
  match (getBank s c b).sender p with
  | none => s
  | some x =>
    let y := x.answered p r
    if y.sent.isEmpty && y.unsent.isEmpty && !y.finding then settle s c b y (absorb s (getBank s c b).tenant y)
    else modBank s c b fun v => v.putEntry y

/-- Whether an answer can come: the fault of a word's access comes only while that word is the last that A issued, since the
device issues no word after one that faults (R123, log 6). -/
def mayAnswer (s : State) (p : Packet) (r : Response) : Bool :=
  let may := fun (b : Bank) => match b.sender p with
    | some x => !failed r || b.lastIssued x
    | none => true
  may (getBank s p.core false) && may (getBank s p.core true)

/-- The answer of packet `p` goes to the job that waits for it. -/
def jobsAnswer (s : State) (c : Nat) (p : Packet) (r : Response) : State :=
  match (getCore s c).jobs.find? fun j => j.sent.any (sentAs p.dst p.sclass p.num) with
  | none => s
  | some j =>
    let key := match j.sent.find? (sentAs p.dst p.sclass p.num) with
      | some (n, _) => n
      | none => 0
    let (s, j) := jobAnswer s c { j with sent := j.sent.filter fun x => !sentAs p.dst p.sclass p.num x } p key r
    let (s, j) := sendJob s j []
    putJob s c j

/-- The answer of a packet reaches whoever sent it. -/
def answerPacket (s : State) (p : Packet) (r : Response) : State :=
  if p.core = shoeCore then replicaAnswer s p r
  else
    let s := countPath s p false
    jobsAnswer (wordAnswer (wordAnswer s p.core false p r) p.core true p r) p.core p r

/-- A packet leaves its stream: no longer unacknowledged, nor held for replay by a port of this node. -/
def forgetPacket (s : State) (t : SendStream) (p : Packet) : State :=
  let own := fun (q : Packet) => q.resp.isNone && q.src == p.src && q.core == p.core && q.dst == p.dst && q.sclass == p.sclass && q.num == p.num
  let s := putSend s { t with unacked := t.unacked.filter (fun q => q.num != p.num), resends := sdel t.resends p.num.toNat }
  { s with fabric := { s.fabric with ports := smap s.fabric.ports Port.zero fun d => { d with pkts := d.pkts.filter fun q => !own q } } }

/-- A response or acknowledgement returns; one for a packet that is no longer unacknowledged is ignored. -/
def execRemoteAck (core : Nat) (dst : Label) (k : BitVec 2) (num : BitVec 32) (resp : Response) (s : State) : Out :=
  .next <|
    let t := getSend s core dst k
    match t.unacked.find? fun p => p.num == num with
    | none => s
    | some p =>
      if mayAnswer s p resp then
        answerPacket (forgetPacket (heardFrom s p.dst s.fabric.label p.rclass) t p) p resp
      else s

/-! ### The end-to-end timer (R307) -/

/-- LINK of R307: the target is unreachable. -/
def unreachable (p : Packet) : FaultRec :=
  let x := match p.elems with
    | e :: _ => nodeAddr p e.off.toNat
    | [] => bareAddr p
  ⟨FaultCode.link.num, 0, 0, x, p.plane, p.suit, faultInfo 1 0 0 p.dst.toNat⟩

/-- Every unacknowledged packet goes out again, in order, each with its route chosen afresh. -/
def resendAll (s : State) : List Packet → State
  | [] => s
  | p :: l => resendAll (transmit s { p with rclass := routeClass s p.dst p.sclass }) l

/-- The timer of a stream's oldest unacknowledged packet expires: a resend, or, after RETRY resends of it, the end of its
target. -/
def execE2eResend (core : Nat) (dst : Label) (k : BitVec 2) (s : State) : Out :=
  .next <|
    let t := getSend s core dst k
    match t.unacked with
    | [] => s
    | p :: _ =>
      if s.fabric.e2eRetry.toNat ≤ sget t.resends p.num.toNat 0 then
        let r := .fault (unreachable p)
        if mayAnswer s p r then answerPacket (forgetPacket s t p) p r else s
      else
        let count := t.unacked.foldl (fun m q => sput m q.num.toNat (sget m q.num.toNat 0 + 1)) t.resends
        resendAll (putSend s { t with resends := count }) t.unacked

/-- A stream's state is dropped, with the parts it has gathered; a sending one only once nothing of it is unacknowledged,
a receiving one only while no packet of it is held. -/
def execStreamExpire (sending : Bool) (core : Nat) (peer : Label) (k : BitVec 2) (s : State) : Out :=
  .next <|
    if sending then
      if (getSend s core peer k).unacked.isEmpty then
        { s with fabric := { s.fabric with sends := s.fabric.sends.filter fun t => !t.is core peer k } }
      else s
    else if s.fabric.heldSto.any (fun q => q.src == peer && q.core == core && q.sclass == k) then s
    else
      { s with fabric := { s.fabric with
          recvs := s.fabric.recvs.filter fun t => !t.is peer core k
          parts := s.fabric.parts.filter fun q => !(q.src == peer && q.core == core && q.sclass == k) } }

/-! ### Routing (R302) -/

/-- A down notice for (dst, k): this node marks the class until the next write of FAB.DOWNGEN. -/
def execDownNotice (dst : Label) (k : BitVec 2) (s : State) : Out :=
  .next <|
    if s.fabric.marks.contains (dst, k) then s
    else { s with fabric := { s.fabric with marks := s.fabric.marks ++ [(dst, k)] } }

/-- A request or a response passes through this node: it goes on by the next hop of its path, or is discarded and its source gets a down
notice. -/
def execPacketHopArrival (pkt : Packet) (s : State) : Out :=
  .next <|
    let s := heardFrom s pkt.src pkt.dst pkt.rclass
    match pkt.rclass with
    | none => s
    | some k =>
      match (path pkt.src.toNat pkt.dst.toNat k.toNat).find? fun h => h.1 == s.fabric.label.toNat with
      | none => s
      | some (_, d) =>
        if portIsUp s d then modPort s d fun q => { q with pkts := q.pkts ++ [pkt] }
        else { s with fabric := { s.fabric with notices := s.fabric.notices ++ [(pkt.src, pkt.dst, k)] } }

end Sys2Proof.Machine
end

