-- ==== Sys2Proof/Machine/Dispatch.lean ====
section
/-! DEFINITION. One arm for each operation and event: a direct call of its meaning. -/
namespace Sys2Proof.Machine

def exec (i : Instr) (s : State) : Host.Outcome State Fault Refusal :=
  match i with
  | .b f => Sys2Proof.Machine.execB f s
  | .bc g c r f => Sys2Proof.Machine.execBc g c r f s
  | .bi g r => Sys2Proof.Machine.execBi g r s
  | .call f => Sys2Proof.Machine.execCall f s
  | .loop l => Sys2Proof.Machine.execLoop l s
  | .endl l => Sys2Proof.Machine.execEndl l s
  | .round y => Sys2Proof.Machine.execRound y s
  | .trap c => Sys2Proof.Machine.execTrap c s
  | .kx e p => Sys2Proof.Machine.execKx e p s
  | .aNop t => Sys2Proof.Machine.execANop t s
  | .aAdd t d a b => Sys2Proof.Machine.execAAdd t d a b s
  | .aSub t d a b => Sys2Proof.Machine.execASub t d a b s
  | .aAnd t d a b => Sys2Proof.Machine.execAAnd t d a b s
  | .aOr t d a b => Sys2Proof.Machine.execAOr t d a b s
  | .aXor t d a b => Sys2Proof.Machine.execAXor t d a b s
  | .aAndn t d a b => Sys2Proof.Machine.execAAndn t d a b s
  | .aShl t d a b => Sys2Proof.Machine.execAShl t d a b s
  | .aShr t d a b => Sys2Proof.Machine.execAShr t d a b s
  | .aSar t d a b => Sys2Proof.Machine.execASar t d a b s
  | .aMul t d a b => Sys2Proof.Machine.execAMul t d a b s
  | .aMulh t d a b => Sys2Proof.Machine.execAMulh t d a b s
  | .aMulhu t d a b => Sys2Proof.Machine.execAMulhu t d a b s
  | .aMin t d a b => Sys2Proof.Machine.execAMin t d a b s
  | .aMax t d a b => Sys2Proof.Machine.execAMax t d a b s
  | .aMinu t d a b => Sys2Proof.Machine.execAMinu t d a b s
  | .aMaxu t d a b => Sys2Proof.Machine.execAMaxu t d a b s
  | .aSlt t d a b => Sys2Proof.Machine.execASlt t d a b s
  | .aSltu t d a b => Sys2Proof.Machine.execASltu t d a b s
  | .aSeq t d a b => Sys2Proof.Machine.execASeq t d a b s
  | .aAddi t d a z => Sys2Proof.Machine.execAAddi t d a z s
  | .aAndi t d a z => Sys2Proof.Machine.execAAndi t d a z s
  | .aOri t d a z => Sys2Proof.Machine.execAOri t d a z s
  | .aXori t d a z => Sys2Proof.Machine.execAXori t d a z s
  | .aShli t d a z => Sys2Proof.Machine.execAShli t d a z s
  | .aShri t d a z => Sys2Proof.Machine.execAShri t d a z s
  | .aSari t d a z => Sys2Proof.Machine.execASari t d a z s
  | .aLi t d z => Sys2Proof.Machine.execALi t d z s
  | .aLihi t d z => Sys2Proof.Machine.execALihi t d z s
  | .aLdB t d b p y => Sys2Proof.Machine.execALdB t d b p y s
  | .aLdH t d b p y => Sys2Proof.Machine.execALdH t d b p y s
  | .aLdW t d b p y => Sys2Proof.Machine.execALdW t d b p y s
  | .aLdD t d b p y => Sys2Proof.Machine.execALdD t d b p y s
  | .aLdsB t d b p y => Sys2Proof.Machine.execALdsB t d b p y s
  | .aLdsH t d b p y => Sys2Proof.Machine.execALdsH t d b p y s
  | .aLdsW t d b p y => Sys2Proof.Machine.execALdsW t d b p y s
  | .aLdv t d b p y => Sys2Proof.Machine.execALdv t d b p y s
  | .aStB t d b p y => Sys2Proof.Machine.execAStB t d b p y s
  | .aStH t d b p y => Sys2Proof.Machine.execAStH t d b p y s
  | .aStW t d b p y => Sys2Proof.Machine.execAStW t d b p y s
  | .aStD t d b p y => Sys2Proof.Machine.execAStD t d b p y s
  | .aStv t d b p y => Sys2Proof.Machine.execAStv t d b p y s
  | .aLdvc t d b x y => Sys2Proof.Machine.execALdvc t d b x y s
  | .aGath t d b p y => Sys2Proof.Machine.execAGath t d b p y s
  | .aScat t b p y => Sys2Proof.Machine.execAScat t b p y s
  | .aSto t d b p y => Sys2Proof.Machine.execASto t d b p y s
  | .aAadd t d b o w => Sys2Proof.Machine.execAAadd t d b o w s
  | .aAand t d b o w => Sys2Proof.Machine.execAAand t d b o w s
  | .aAor t d b o w => Sys2Proof.Machine.execAAor t d b o w s
  | .aAxor t d b o w => Sys2Proof.Machine.execAAxor t d b o w s
  | .aAmin t d b o w => Sys2Proof.Machine.execAAmin t d b o w s
  | .aAmax t d b o w => Sys2Proof.Machine.execAAmax t d b o w s
  | .aAminu t d b o w => Sys2Proof.Machine.execAAminu t d b o w s
  | .aAmaxu t d b o w => Sys2Proof.Machine.execAAmaxu t d b o w s
  | .aAxchg t d b o w => Sys2Proof.Machine.execAAxchg t d b o w s
  | .aAcas t d b o w => Sys2Proof.Machine.execAAcas t d b o w s
  | .aAfadd t d b o w => Sys2Proof.Machine.execAAfadd t d b o w s
  | .aAspc t d a => Sys2Proof.Machine.execAAspc t d a s
  | .aAcvt t d a z => Sys2Proof.Machine.execAAcvt t d a z s
  | .aCpy t c r => Sys2Proof.Machine.execACpy t c r s
  | .aDrain t c => Sys2Proof.Machine.execADrain t c s
  | .aTrick t m => Sys2Proof.Machine.execATrick t m s
  | .aColl t r => Sys2Proof.Machine.execAColl t r s
  | .aSwap t r => Sys2Proof.Machine.execASwap t r s
  | .aLaunch t r q => Sys2Proof.Machine.execALaunch t r q s
  | .aSfence t y m => Sys2Proof.Machine.execASfence t y m s
  | .aFlagset t f z => Sys2Proof.Machine.execAFlagset t f z s
  | .aFlagadd t f z => Sys2Proof.Machine.execAFlagadd t f z s
  | .aFlagwait t f z => Sys2Proof.Machine.execAFlagwait t f z s
  | .aRfence t => Sys2Proof.Machine.execARfence t s
  | .aQpush t a b => Sys2Proof.Machine.execAQpush t a b s
  | .aEvpop t d => Sys2Proof.Machine.execAEvpop t d s
  | .aEvpeek t d => Sys2Proof.Machine.execAEvpeek t d s
  | .aWnext t d => Sys2Proof.Machine.execAWnext t d s
  | .aCsrr t d c => Sys2Proof.Machine.execACsrr t d c s
  | .aCsrw t d c => Sys2Proof.Machine.execACsrw t d c s
  | .aTlbi t k a b => Sys2Proof.Machine.execATlbi t k a b s
  | .aRemap t a => Sys2Proof.Machine.execARemap t a s
  | .aLqbind t k a b => Sys2Proof.Machine.execALqbind t k a b s
  | .xNop t => Sys2Proof.Machine.execXNop t s
  | .xXrmode t m => Sys2Proof.Machine.execXXrmode t m s
  | .xXflags t d c => Sys2Proof.Machine.execXXflags t d c s
  | .xAdd t d a b => Sys2Proof.Machine.execXAdd t d a b s
  | .xSub t d a b => Sys2Proof.Machine.execXSub t d a b s
  | .xAnd t d a b => Sys2Proof.Machine.execXAnd t d a b s
  | .xOr t d a b => Sys2Proof.Machine.execXOr t d a b s
  | .xXor t d a b => Sys2Proof.Machine.execXXor t d a b s
  | .xAndn t d a b => Sys2Proof.Machine.execXAndn t d a b s
  | .xShl t d a b => Sys2Proof.Machine.execXShl t d a b s
  | .xShr t d a b => Sys2Proof.Machine.execXShr t d a b s
  | .xSar t d a b => Sys2Proof.Machine.execXSar t d a b s
  | .xMul t d a b => Sys2Proof.Machine.execXMul t d a b s
  | .xMulh t d a b => Sys2Proof.Machine.execXMulh t d a b s
  | .xMulhu t d a b => Sys2Proof.Machine.execXMulhu t d a b s
  | .xMin t d a b => Sys2Proof.Machine.execXMin t d a b s
  | .xMax t d a b => Sys2Proof.Machine.execXMax t d a b s
  | .xMinu t d a b => Sys2Proof.Machine.execXMinu t d a b s
  | .xMaxu t d a b => Sys2Proof.Machine.execXMaxu t d a b s
  | .xSlt t d a b => Sys2Proof.Machine.execXSlt t d a b s
  | .xSltu t d a b => Sys2Proof.Machine.execXSltu t d a b s
  | .xSeq t d a b => Sys2Proof.Machine.execXSeq t d a b s
  | .xAddi t d a z => Sys2Proof.Machine.execXAddi t d a z s
  | .xAndi t d a z => Sys2Proof.Machine.execXAndi t d a z s
  | .xOri t d a z => Sys2Proof.Machine.execXOri t d a z s
  | .xXori t d a z => Sys2Proof.Machine.execXXori t d a z s
  | .xShli t d a z => Sys2Proof.Machine.execXShli t d a z s
  | .xShri t d a z => Sys2Proof.Machine.execXShri t d a z s
  | .xSari t d a z => Sys2Proof.Machine.execXSari t d a z s
  | .xLi t d z => Sys2Proof.Machine.execXLi t d z s
  | .xLihi t d z => Sys2Proof.Machine.execXLihi t d z s
  | .xKand t d a b => Sys2Proof.Machine.execXKand t d a b s
  | .xKor t d a b => Sys2Proof.Machine.execXKor t d a b s
  | .xKnot t d a => Sys2Proof.Machine.execXKnot t d a s
  | .xKmovs t d a c => Sys2Proof.Machine.execXKmovs t d a c s
  | .xKmovk t d a c => Sys2Proof.Machine.execXKmovk t d a c s
  | .xFrcp t d a => Sys2Proof.Machine.execXFrcp t d a s
  | .xFrsq t d a => Sys2Proof.Machine.execXFrsq t d a s
  | .xFadd t d a b => Sys2Proof.Machine.execXFadd t d a b s
  | .xFsub t d a b => Sys2Proof.Machine.execXFsub t d a b s
  | .xFmul t d a b => Sys2Proof.Machine.execXFmul t d a b s
  | .xFma t d a b => Sys2Proof.Machine.execXFma t d a b s
  | .xFmin t d a b => Sys2Proof.Machine.execXFmin t d a b s
  | .xFmax t d a b => Sys2Proof.Machine.execXFmax t d a b s
  | .xFcmp t d a b => Sys2Proof.Machine.execXFcmp t d a b s
  | .xFcvt t d a => Sys2Proof.Machine.execXFcvt t d a s
  | .xVadd t w d a b => Sys2Proof.Machine.execXVadd t w d a b s
  | .xVsub t w d a b => Sys2Proof.Machine.execXVsub t w d a b s
  | .xVand t d a b => Sys2Proof.Machine.execXVand t d a b s
  | .xVor t d a b => Sys2Proof.Machine.execXVor t d a b s
  | .xVxor t d a b => Sys2Proof.Machine.execXVxor t d a b s
  | .xVandn t d a b => Sys2Proof.Machine.execXVandn t d a b s
  | .xVlop3 t d a b => Sys2Proof.Machine.execXVlop3 t d a b s
  | .xKpopc t d a => Sys2Proof.Machine.execXKpopc t d a s
  | .xVshl t w d a b => Sys2Proof.Machine.execXVshl t w d a b s
  | .xVshr t w d a b => Sys2Proof.Machine.execXVshr t w d a b s
  | .xVsar t w d a b => Sys2Proof.Machine.execXVsar t w d a b s
  | .xVfun t d a b => Sys2Proof.Machine.execXVfun t d a b s
  | .xVmul24 t d a b => Sys2Proof.Machine.execXVmul24 t d a b s
  | .xVmul24u t d a b => Sys2Proof.Machine.execXVmul24u t d a b s
  | .xVmad24 t d a b => Sys2Proof.Machine.execXVmad24 t d a b s
  | .xVmul32 t d a b => Sys2Proof.Machine.execXVmul32 t d a b s
  | .xVmulh t w d a b => Sys2Proof.Machine.execXVmulh t w d a b s
  | .xVmin t w d a b => Sys2Proof.Machine.execXVmin t w d a b s
  | .xVmax t w d a b => Sys2Proof.Machine.execXVmax t w d a b s
  | .xVminu t w d a b => Sys2Proof.Machine.execXVminu t w d a b s
  | .xVmaxu t w d a b => Sys2Proof.Machine.execXVmaxu t w d a b s
  | .xVabs t w d a => Sys2Proof.Machine.execXVabs t w d a s
  | .xVpopc t w d a => Sys2Proof.Machine.execXVpopc t w d a s
  | .xVclz t w d a => Sys2Proof.Machine.execXVclz t w d a s
  | .xVcmpeq t w d a b => Sys2Proof.Machine.execXVcmpeq t w d a b s
  | .xVcmplt t w d a b => Sys2Proof.Machine.execXVcmplt t w d a b s
  | .xVcmpltu t w d a b => Sys2Proof.Machine.execXVcmpltu t w d a b s
  | .xVwadd t w d a b => Sys2Proof.Machine.execXVwadd t w d a b s
  | .xVwmul t w d a b => Sys2Proof.Machine.execXVwmul t w d a b s
  | .xVnarrow t w d a => Sys2Proof.Machine.execXVnarrow t w d a s
  | .xVredadd t w d a => Sys2Proof.Machine.execXVredadd t w d a s
  | .xVsel t d a b => Sys2Proof.Machine.execXVsel t d a b s
  | .xVperm t d a b => Sys2Proof.Machine.execXVperm t d a b s
  | .xVmov t d a => Sys2Proof.Machine.execXVmov t d a s
  | .xVrot t w d a b => Sys2Proof.Machine.execXVrot t w d a b s
  | .xVbcast t w d a => Sys2Proof.Machine.execXVbcast t w d a s
  | .xVext t w d a b => Sys2Proof.Machine.execXVext t w d a b s
  | .xVins t w d a b => Sys2Proof.Machine.execXVins t w d a b s
  | .xVfadd t f d a b => Sys2Proof.Machine.execXVfadd t f d a b s
  | .xVfsub t f d a b => Sys2Proof.Machine.execXVfsub t f d a b s
  | .xVfmul t f d a b => Sys2Proof.Machine.execXVfmul t f d a b s
  | .xVfma t f d a b => Sys2Proof.Machine.execXVfma t f d a b s
  | .xVfmin t f d a b => Sys2Proof.Machine.execXVfmin t f d a b s
  | .xVfmax t f d a b => Sys2Proof.Machine.execXVfmax t f d a b s
  | .xVfcmp t f d a b => Sys2Proof.Machine.execXVfcmp t f d a b s
  | .xVfcvt t d a => Sys2Proof.Machine.execXVfcvt t d a s
  | .xVrcp t d a => Sys2Proof.Machine.execXVrcp t d a s
  | .xVrsq t d a => Sys2Proof.Machine.execXVrsq t d a s
  | .xVrcpstep t d a => Sys2Proof.Machine.execXVrcpstep t d a s
  | .xVrsqstep t d a => Sys2Proof.Machine.execXVrsqstep t d a s
  | .xVexp2 t d a => Sys2Proof.Machine.execXVexp2 t d a s
  | .xVlog2 t d a => Sys2Proof.Machine.execXVlog2 t d a s
  | .xVqscale t d a b => Sys2Proof.Machine.execXVqscale t d a b s
  | .xVqpack t d a b => Sys2Proof.Machine.execXVqpack t d a b s
  | .xVqunpk t d a b => Sys2Proof.Machine.execXVqunpk t d a b s
  | .xVfredadd t d a => Sys2Proof.Machine.execXVfredadd t d a s
  | .xVfabs t d a => Sys2Proof.Machine.execXVfabs t d a s
  | .xVfneg t d a => Sys2Proof.Machine.execXVfneg t d a s
  | .mNop t => Sys2Proof.Machine.execMNop t s
  | .mMset t d z => Sys2Proof.Machine.execMMset t d z s
  | .mMadd t d a b => Sys2Proof.Machine.execMMadd t d a b s
  | .mMpop t d => Sys2Proof.Machine.execMMpop t d s
  | .mMlc t d l => Sys2Proof.Machine.execMMlc t d l s
  | .mMhand t n => Sys2Proof.Machine.execMMhand t n s
  | .mMrels t => Sys2Proof.Machine.execMMrels t s
  | .mMshape t d a b => Sys2Proof.Machine.execMMshape t d a b s
  | .mMfmt t y => Sys2Proof.Machine.execMMfmt t y s
  | .mMfmtl t l => Sys2Proof.Machine.execMMfmtl t l s
  | .mMrmode t m y => Sys2Proof.Machine.execMMrmode t m y s
  | .mMmul t c a b f => Sys2Proof.Machine.execMMmul t c a b f s
  | .mMmulk t c a b f => Sys2Proof.Machine.execMMmulk t c a b f s
  | .mMdrain t c a => Sys2Proof.Machine.execMMdrain t c a s
  | .mMldacc t c a => Sys2Proof.Machine.execMMldacc t c a s
  | .mMclr t c => Sys2Proof.Machine.execMMclr t c s
  | .mMfence t => Sys2Proof.Machine.execMMfence t s
  | .mMfeed t a b => Sys2Proof.Machine.execMMfeed t a b s
  | .mTempo t => Sys2Proof.Machine.execMTempo t s
  | .mTcut t a => Sys2Proof.Machine.execMTcut t a s
  | .mTlook t d a b => Sys2Proof.Machine.execMTlook t d a b s
  | .mTstat t d y => Sys2Proof.Machine.execMTstat t d y s
  | .reservedOpcode sub fbit => Sys2Proof.Machine.execReservedOpcode sub fbit s
  | .serviceFaultDrain core => Sys2Proof.Machine.execServiceFaultDrain core s
  | .faultTake core => Sys2Proof.Machine.execFaultTake core s
  | .asyncFaultTake core => Sys2Proof.Machine.execAsyncFaultTake core s
  | .accessComplete core bank k j => Sys2Proof.Machine.execAccessComplete core bank k j s
  | .stopComplete core bank => Sys2Proof.Machine.execStopComplete core bank s
  | .wnextServed core => Sys2Proof.Machine.execWnextServed core s
  | .copyJobBegin core job => Sys2Proof.Machine.execCopyJobBegin core job s
  | .copyQueuePush core job => Sys2Proof.Machine.execCopyQueuePush core job s
  | .copyJobComplete core job => Sys2Proof.Machine.execCopyJobComplete core job s
  | .swapJobStart core job => Sys2Proof.Machine.execSwapJobStart core job s
  | .swapJobExchange core job => Sys2Proof.Machine.execSwapJobExchange core job s
  | .collectiveComplete core => Sys2Proof.Machine.execCollectiveComplete core s
  | .tempoSessionStart core => Sys2Proof.Machine.execTempoSessionStart core s
  | .tempoBoundary core => Sys2Proof.Machine.execTempoBoundary core s
  | .tempoMissWaitEnd core => Sys2Proof.Machine.execTempoMissWaitEnd core s
  | .tempoFinish core => Sys2Proof.Machine.execTempoFinish core s
  | .matrixCommandComplete core k => Sys2Proof.Machine.execMatrixCommandComplete core k s
  | .arrayMmul core k => Sys2Proof.Machine.execArrayMmul core k s
  | .arrayMdrain core k => Sys2Proof.Machine.execArrayMdrain core k s
  | .arrayMldacc core k => Sys2Proof.Machine.execArrayMldacc core k s
  | .arrayMclr core k => Sys2Proof.Machine.execArrayMclr core k s
  | .handGrant table => Sys2Proof.Machine.execHandGrant table s
  | .queueEntryRetire core => Sys2Proof.Machine.execQueueEntryRetire core s
  | .feedPush table => Sys2Proof.Machine.execFeedPush table s
  | .exitComplete core => Sys2Proof.Machine.execExitComplete core s
  | .roundComplete slot => Sys2Proof.Machine.execRoundComplete slot s
  | .eventDeliver core => Sys2Proof.Machine.execEventDeliver core s
  | .shootdownComplete core => Sys2Proof.Machine.execShootdownComplete core s
  | .remapComplete core => Sys2Proof.Machine.execRemapComplete core s
  | .lqTailWrite q v => Sys2Proof.Machine.execLqTailWrite q v s
  | .lqEnableWrite q v => Sys2Proof.Machine.execLqEnableWrite q v s
  | .lqRetry q => Sys2Proof.Machine.execLqRetry q s
  | .lqSkip q => Sys2Proof.Machine.execLqSkip q s
  | .headRecordRead q => Sys2Proof.Machine.execHeadRecordRead q s
  | .replicaResend q => Sys2Proof.Machine.execReplicaResend q s
  | .replicaReceive q rec => Sys2Proof.Machine.execReplicaReceive q rec s
  | .dealCoreStart core => Sys2Proof.Machine.execDealCoreStart core s
  | .rangeLaunchStart slot => Sys2Proof.Machine.execRangeLaunchStart slot s
  | .collReadyMessage core msg => Sys2Proof.Machine.execCollReadyMessage core msg s
  | .collectiveStep core data => Sys2Proof.Machine.execCollectiveStep core data s
  | .walkStart core bank va => Sys2Proof.Machine.execWalkStart core bank va s
  | .walkComplete cluster slot => Sys2Proof.Machine.execWalkComplete cluster slot s
  | .planeFrameFill core bank psd plane frame => Sys2Proof.Machine.execPlaneFrameFill core bank psd plane frame s
  | .nearLiveWrite ch v => Sys2Proof.Machine.execNearLiveWrite ch v s
  | .bankFailureEvent ch bank cause => Sys2Proof.Machine.execBankFailureEvent ch bank cause s
  | .sectorPoison loc fte => Sys2Proof.Machine.execSectorPoison loc fte s
  | .remoteRequestDeliver pkt strike => Sys2Proof.Machine.execRemoteRequestDeliver pkt strike s
  | .remoteAck core dst k num resp => Sys2Proof.Machine.execRemoteAck core dst k num resp s
  | .e2eResend core dst k => Sys2Proof.Machine.execE2eResend core dst k s
  | .streamExpire sending core peer k => Sys2Proof.Machine.execStreamExpire sending core peer k s
  | .stoDeliver src core k => Sys2Proof.Machine.execStoDeliver src core k s
  | .downNotice dst k => Sys2Proof.Machine.execDownNotice dst k s
  | .fabLabelWrite v => Sys2Proof.Machine.execFabLabelWrite v s
  | .portEnable d en => Sys2Proof.Machine.execPortEnable d en s
  | .portRetrain d => Sys2Proof.Machine.execPortRetrain d s
  | .portQuiesce d on => Sys2Proof.Machine.execPortQuiesce d on s
  | .portUp d label => Sys2Proof.Machine.execPortUp d label s
  | .portDown d cause => Sys2Proof.Machine.execPortDown d cause s
  | .linkReplay d how => Sys2Proof.Machine.execLinkReplay d how s
  | .laneFailure d lane => Sys2Proof.Machine.execLaneFailure d lane s
  | .flitAgeDiscard d => Sys2Proof.Machine.execFlitAgeDiscard d s
  | .linkTransferBegin d => Sys2Proof.Machine.execLinkTransferBegin d s
  | .linkTransferReceive d num entry => Sys2Proof.Machine.execLinkTransferReceive d num entry s
  | .transferAck d num => Sys2Proof.Machine.execTransferAck d num s
  | .creditAdvertise d n => Sys2Proof.Machine.execCreditAdvertise d n s
  | .bindNotice d bound => Sys2Proof.Machine.execBindNotice d bound s
  | .linkLost d => Sys2Proof.Machine.execLinkLost d s
  | .exclusionWindow table => Sys2Proof.Machine.execExclusionWindow table s
  | .roundArrivalNotice slot d => Sys2Proof.Machine.execRoundArrivalNotice slot d s
  | .ccStop core bank => Sys2Proof.Machine.execCcStop core bank s
  | .ccRun core bank => Sys2Proof.Machine.execCcRun core bank s
  | .ccEvict core bank => Sys2Proof.Machine.execCcEvict core bank s
  | .ccRestore core bank => Sys2Proof.Machine.execCcRestore core bank s
  | .ccRelease core bank => Sys2Proof.Machine.execCcRelease core bank s
  | .ccRetry core bank => Sys2Proof.Machine.execCcRetry core bank s
  | .ccAbort core bank => Sys2Proof.Machine.execCcAbort core bank s
  | .bar2Read off len => Sys2Proof.Machine.execBar2Read off len s
  | .bar2Write off bytes => Sys2Proof.Machine.execBar2Write off bytes s
  | .mboxBaseWrite v => Sys2Proof.Machine.execMboxBaseWrite v s
  | .rbSelWrite v => Sys2Proof.Machine.execRbSelWrite v s
  | .firmwareVerifyDone fail svn => Sys2Proof.Machine.execFirmwareVerifyDone fail svn s
  | .spdmRequest code => Sys2Proof.Machine.execSpdmRequest code s
  | .lockCmdLock d => Sys2Proof.Machine.execLockCmdLock d s
  | .lockCmdUnlock d => Sys2Proof.Machine.execLockCmdUnlock d s
  | .lockSessionDone d how => Sys2Proof.Machine.execLockSessionDone d how s
  | .tagFailure d inbound => Sys2Proof.Machine.execTagFailure d inbound s
  | .rekey d ok => Sys2Proof.Machine.execRekey d ok s
  | .groupPowerReport member avg => Sys2Proof.Machine.execGroupPowerReport member avg s
  | .registerWrite blk off v => Sys2Proof.Machine.execRegisterWrite blk off v s
  | .packetHopArrival pkt => Sys2Proof.Machine.execPacketHopArrival pkt s
  | .averagingWindowEnd avg inst => Sys2Proof.Machine.execAveragingWindowEnd avg inst s
  | .corePowerGating core => Sys2Proof.Machine.execCorePowerGating core s
  | .corePowerUngating core => Sys2Proof.Machine.execCorePowerUngating core s
  | .nop => Sys2Proof.Machine.execNop s
  | .ret => Sys2Proof.Machine.execRet s
  | .exit => Sys2Proof.Machine.execExit s
  | .resume => Sys2Proof.Machine.execResume s
  | .halt => Sys2Proof.Machine.execHalt s
  | .eret => Sys2Proof.Machine.execEret s
  | .wordStepOver => Sys2Proof.Machine.execWordStepOver s
  | .launchDispatch => Sys2Proof.Machine.execLaunchDispatch s
  | .fabDowngenWrite => Sys2Proof.Machine.execFabDowngenWrite s
  | .mailboxHeldPost => Sys2Proof.Machine.execMailboxHeldPost s
  | .mgmtLoad => Sys2Proof.Machine.execMgmtLoad s
  | .mgmtReset => Sys2Proof.Machine.execMgmtReset s
  | .powerControlStep => Sys2Proof.Machine.execPowerControlStep s
  | .fastinAssert => Sys2Proof.Machine.execFastinAssert s
  | .fastinDeassert => Sys2Proof.Machine.execFastinDeassert s
  | .fastinRecover => Sys2Proof.Machine.execFastinRecover s
  | .nodeReset => Sys2Proof.Machine.execNodeReset s
  | .bringupReady => Sys2Proof.Machine.execBringupReady s

end Sys2Proof.Machine
end

