-- ==== Sys2Proof/Machine/Step.lean ====
section
/-! DEFINITION. One step of the node (log 2), and the placing of an instruction where the next step fetches it. -/
namespace Sys2Proof.Machine

/-- The engine whose turn it is holds a KX that it has acted on: its next word follows at once (R48). -/
def latched (s : State) : Bool :=
  match s.phase with
  | .eng e => ((curBank s s.core).kxOf e).isSome
  | .mem => false

/-- After a turn the next part of the core moves, unless a KX waits for its word. -/
def rotate (s : State) : State := if latched s then s else { s with phase := s.phase.next }

def rotated : Out → Out
  | .next s => .next (rotate s)
  | o => o

/-- One turn of the current core: an engine acts on its word, or the core does what it does by itself. -/
def turn (s : State) : Out :=
  match s.phase with
  | .mem =>
    let t := { s with turn := s.turn + 1 }
    rotated (if walkerTurn s then execWalkComplete (clusterOf s.core) 0 t else exec (ownEvent s) t)
  | .eng e =>
    match turnAt s e with
    | (s, .idle) => rotated (.next (stay s e))
    | (s, .walk page) => rotated (.next (stay (fetchWaits s e page) e))
    | (s, .fault code addr info) => rotated (.next (fetchStop s e code addr info))
    | (s, .run i) => rotated (exec i s)

/-- While the agenda asks for nothing, the A engine stays at its next word until the outcome of every access in flight is
known, since no word after one that faults is issued; the agenda may let it run ahead (R123, log 6). -/
def awaits (s : State) : Bool := s.phase == .eng .a && (curBank s s.core).inflight.any Access.open_

/-- One step: the word after a KX, else what the agenda asks for, else the current core's next turn. -/
def step (s : State) : Host.Outcome State Fault Refusal :=
  if latched s then turn s
  else
    match s.agenda with
    | .event i :: rest => exec i { s with agenda := rest }
    | .word c e :: rest =>
      if c < Config.cores then turn { s with agenda := rest, core := c, phase := .eng e } else .fault .noSuchUnit
    | [] => if awaits s then .next (rotate s) else turn s

/-! ### Placing an instruction (log 14) -/

/-- A kernel of `n` words at GLOBAL address `text`, with no loop level and no format slot. -/
def bareKernel (text : Word) (n : Nat) : Kernel :=
  ⟨text, n, 0, 0, false, false, false, 0, 0, 0, 0, [], []⟩

/-- The engine that acts on a word; A for a shared one. -/
def wordEngine (w : Nat) : Engine := (engineOf (tagOf (BitVec.ofNat 32 w))).getD .a

/-- Where the placed page tables and text lie: the far tier, mapped at GLOBAL address 0 by one leaf of 1 GiB. -/
def placeBase : Nat := 0x2000000000

/-- `s` with the instruction whose bits are `w` as the next word that step fetches: core 0 runs bank 0, whose text is
this word and a zero word, and whose page tables map it. -/
def State.withFetchWord (s : State) (_nbits w : Nat) : State :=
  let s := { s with agenda := [], core := 0, phase := .eng (wordEngine w), disc := { s.disc with far := 0x8000000000 } }
  let s := wrBytes s placeBase (bytesOf (placeBase + 0x1001) 8)
  let s := wrBytes s (placeBase + 0x1000) (bytesOf (placeBase + 0x1B) 8)
  let s := wrBytes s (placeBase + 0x4000) (bytesOf w 8)
  let s := { s with poison := [] }
  let s := modTable s 0 fun t => { t with tlb := [], pfc := [] }
  let s := modCore s 0 fun k => { k with active := false, gated := false, tlb := [] }
  modBank s 0 false fun b =>
    { b with
      st := .running
      kern := some (bareKernel 0x4000 2)
      pc := Three.all 0
      kx := Three.all none
      skip := Three.all false
      exiting := false
      stopping := false
      wait := .none
      pend := none
      due := []
      round := { b.round with waiting := false }
      xlat := { b.xlat with root := w64 placeBase } }

end Sys2Proof.Machine
end

