-- ==== Sys2Proof/Machine/Registers.lean ====
section
/-! DEFINITION. What a host read of a register of BAR0 returns (R10): the blocks (R82, R83, R190, R199, R215, R298, R299,
R318, R346, R347, R378, R385, R389, R393, R397) and the discovery table (R383, R384). A register that no table lists reads
0 (log 28). -/
namespace Sys2Proof.Machine

/-! ### The shoe (R82, R83) -/

/-- The head record exists and one of its enabled waits is unsatisfied. While EN is 0 the shoe holds no copy of it, and this reads 0
(DESIGN CHOICE, log 48). -/
def LaunchQueue.waiting (s : State) (v : LaunchQueue) : Bool :=
  v.en && v.head != v.tail &&
    match v.copy with
    | some r => waitsOpen s r
    | none => false

def lqStat (s : State) (v : LaunchQueue) : Nat :=
  b2n v.rej + b2n v.ovf * 2 + b2n ((v.tail - v.head).toNat == 2 ^ v.log2.toNat) * 4 + v.check.toNat * 2 ^ 8 +
    b2n (v.waiting s) * 2 ^ 16

def readShoe (s : State) (off : Nat) : Nat :=
  let h := s.shoe
  if 0x1000 ≤ off ∧ off < 0x5000 ∧ off % 4 = 0 then (ccOf s ((off - 0x1000) / 4)).toNat
  else
    match off with
    | 0x400 => h.qptr.toNat
    | 0x408 => (active s).length
    | 0x410 => h.cptr.toNat
    | 0x420 => h.privBase.toNat
    | 0x428 => h.privStride.toNat
    | 0x430 => h.tentabBase.toNat
    | 0x438 => h.tentabCount.toNat
    | _ =>
      if 0x400 ≤ off then 0
      else
        let v := getLq s (off / 0x40)
        match off % 0x40 with
        | 0x00 => v.base.toNat
        | 0x08 => v.log2.toNat + v.ten.toNat * 2 ^ 16
        | 0x10 => v.head.toNat
        | 0x18 => v.tail.toNat
        | 0x20 => b2n v.en + b2n v.dev * 2 + v.maxp.toNat * 4
        | 0x28 => lqStat s v
        | _ => 0

/-! ### The fabric (R298, R299, R318, R393) -/

def physId (s : State) : Nat := 0xD4C2 * 2 ^ 48 + s.disc.serial.toNat

def portStat (p : Port) : Nat :=
  p.st.toNat + b2n p.spared * 8 + p.lane.toNat * 16 + p.cause.toNat * 2 ^ 8 + p.replays.toNat * 2 ^ 16

def readFabric (s : State) (off : Nat) : Nat :=
  let f := s.fabric
  if off = 0 then f.label.toNat
  else if off = 0x08 then physId s
  else if off = 0x10 then f.downBase.toNat
  else if off = 0x18 then f.downGen.toNat
  else if off = 0x20 then f.e2eTimeout.toNat + f.e2eRetry.toNat * 2 ^ 16
  else if 0x100 ≤ off ∧ off < 0x100 + 0x20 * 22 then
    let d := (off - 0x100) / 0x20
    let p := getPort s d
    match off % 0x20 with
    | 0x00 => ctlWord p.en p.quiesce false
    | 0x08 => portStat p
    | 0x10 => p.peer.toNat
    | 0x18 => (lqWord s d).toNat
    | _ => 0
  else if 0x400 ≤ off ∧ off < 0x400 + 8 * 22 ∧ off % 8 = 0 then
    let p := getPort s ((off - 0x400) / 8)
    p.lockSt.toNat + p.lockCause.toNat * 2 ^ 8 + b2n p.refused * 2 ^ 16
  else 0

/-! ### Core control (R346, R347) -/

def BankState.code : BankState → Nat
  | .empty => 0
  | .running => 1
  | .ready => 2
  | .serviceWait => 3
  | .stopped => 4
  | .halted => 5
  | .restoring => 6

/-- CCc.STAT. -/
def coreStat (k : Core) : Nat :=
  k.bank0.st.code + k.bank1.st.code * 2 ^ 4 + b2n k.active * 2 ^ 8 + b2n (k.bank0.stopping || k.bank1.stopping) * 2 ^ 9 +
    k.err.toNat * 2 ^ 12 + b2n k.late * 2 ^ 16

def readCore (s : State) (off : Nat) : Nat :=
  let k := getCore s (off / 0x40)
  if Config.cores ≤ off / 0x40 then 0
  else
    match off % 0x40 with
    | 0x00 => b2n k.ctlBank * 2 ^ 8
    | 0x08 => coreStat k
    | 0x10 => k.spmask.toNat
    | _ => 0

/-! ### The other blocks (R199, R378, R385, R389, R397) -/

def readPower (p : Power) (off : Nat) : Nat :=
  match off with
  | 0x00 => p.cap.toNat
  | 0x08 => p.win.toNat
  | 0x10 => p.avg.toNat + p.inst.toNat * 2 ^ 16
  | 0x18 => b2n p.limited
  | 0x20 => p.throttle
  | 0x28 => p.gid.toNat + p.npkg.toNat * 2 ^ 8 + p.budget.toNat * 2 ^ 16
  | 0x30 => b2n p.level + b2n p.seen * 2 + b2n p.active * 4
  | _ => 0

def readMailbox (m : Mailbox) (off : Nat) : Nat :=
  match off with
  | 0x00 => m.base.toNat
  | 0x08 => m.log2.toNat
  | 0x10 => m.tail.toNat
  | 0x18 => m.head.toNat
  | 0x20 => m.lost.toNat
  | 0x28 => b2n m.en
  | _ => 0

def readManagement (m : Mgmt) (off : Nat) : Nat :=
  match off with
  | 0x08 => m.st.toNat + m.fail.toNat * 2 ^ 8
  | 0x10 => m.img.toNat
  | 0x18 => m.svn.toNat
  | 0x20 => m.hostwin.toNat
  | _ => 0

def readReadback (r : Readback) (off : Nat) : Nat :=
  match off with
  | 0x00 => r.sel.toNat
  | 0x08 => r.d0.toNat
  | 0x10 => r.d1.toNat
  | 0x18 => r.d2.toNat
  | 0x20 => r.d3.toNat
  | _ => 0

/-- The register at an offset of a block. -/
def readBlock (s : State) (blk : Block) (off : Nat) : Nat :=
  match blk with
  | .shoe => readShoe s off
  | .near =>
    let m := nearMap s (off / 4)
    if off < 4096 ∧ off % 4 = 0 then m.live.toNat + m.ilv.toNat * 2 ^ 16 else 0
  | .fabric => readFabric s off
  | .core => readCore s off
  | .readback => readReadback s.readback off
  | .power => readPower s.power off
  | .mailbox => readMailbox s.mbox off
  | .management => readManagement s.mgmt off

/-! ### The discovery table (R383, R384) -/

/-- The layout versions of this part: KDVER, FLOVER, RVER, copy CVER, SVER, collective CVER, PSDVER, SNAPVER. -/
def layoutVersions : List Nat := [0x0100, 0x0100, 0x01, 0x01, 0x01, 0x01, 0x01, 0x0103]

/-- MiB present in the column above table `t`. -/
def columnMib (s : State) (t : Nat) : Nat := 8 * (tab (fun i => ones 16 (banksPresent s (16 * t + i)).toNat) 0 16).sum

/-- The register at an offset of the discovery table. -/
def readDiscovery (s : State) (off : Nat) : Nat :=
  let d := s.disc
  match off with
  | 0x00 => 0x4A474E44
  | 0x04 => 0x0100
  | 0x08 => b2n d.ready + b2n d.fwok * 2
  | 0x10 => physId s
  | 0x18 => d.label0.toNat
  | 0x20 => d.ports.toNat
  | 0x28 => d.far.toNat
  | 0x30 => 2 ^ 20 * (tab (columnMib s) 0 64).sum
  | _ =>
    if 0x40 ≤ off ∧ off < 0x80 ∧ off % 8 = 0 then 0x00100000 * ((off - 0x40) / 8 + 1)
    else if 0x80 ≤ off ∧ off < 0xC0 ∧ off % 2 = 0 then nth layoutVersions ((off - 0x80) / 2) 0
    else if 0x1000 ≤ off ∧ off < 0x1800 ∧ off % 2 = 0 then (banksPresent s ((off - 0x1000) / 2)).toNat
    else if 0x1800 ≤ off ∧ off < 0x1900 ∧ off % 4 = 0 then columnMib s ((off - 0x1800) / 4)
    else 0

end Sys2Proof.Machine
end

