-- ==== Sys2Proof/Safety.lean ====
section
/-! DEFINITION. What a safe run is: no step of it ends in a fault of the model or a refusal. The device's own faults are
states that a run goes through (R123), so they do not end it. -/
namespace Sys2Proof

/-- Whether the `n` steps from `s` all answer a next state. -/
def safeFor : Nat → Machine.State → Bool
  | 0, _ => true
  | n + 1, s =>
    match Machine.step s with
    | .next t => safeFor n t
    | _ => false

/-- No run from `s` ends. -/
def Safe (s : Machine.State) : Prop := ∀ n, safeFor n s = true

end Sys2Proof
end

