-- ==== Sys2Proof/Certificates/Slice0/Obligations.lean ====
section
/-! DEFINITION. The statements for the provers, with the words they are stated in. -/
namespace Sys2Proof.Claims

open Machine

/-! ### When a word issues, and what the machine is after it -/

/-- Nothing keeps engine `e` of the running context from issuing `i`: the context runs with no fault due, no stop and no
exit under way (R123, R355, R368); on A no issued access has failed on another node (R123); the KX before the word is one
it takes (R49); its privilege suffices (R55); the slip limit and the tokens of field `t` allow it (R110, R116); no RESUME
told the engine to pass it (R127). -/
def Ready (i : Instr) (e : Engine) (t : BitVec 4) (s : State) : Prop :=
  canIssue (getCore s s.core) (curBank s s.core) e = true ∧
  kxCheck i ((curBank s s.core).kxOf e) = .ok () ∧
  (privileged i = true → (curBank s s.core).priv = true) ∧
  (curBank s s.core).slipBlocks e ((curBank s s.core).pairLen e) = false ∧
  (curBank s s.core).tokReady e t = true ∧
  (curBank s s.core).skip.get e = false

/-- Engine `e`, whose turn it is, runs `i`: as the next part of the core where the agenda is empty (A, while no issued access
is open), or as the word that the agenda asks for; then the next part of the core moves. -/
def StepRuns (s : State) (e : Engine) (i : Instr) : Prop :=
  (s.agenda = [] → (e = .a → ∀ x ∈ (curBank s s.core).inflight, x.open_ = false) → step s = rotated (exec i s)) ∧
  ∀ l, s.core < 1024 →
    step { s with agenda := .word s.core e :: l } = rotated (exec i { s with agenda := l })

/-- `s` with `k` as the running bank of the current core. -/
def putCur (s : State) (k : Bank) : State := modCur s s.core fun _ => k

/-- `s` after engine `e` has passed its word: pops and pushes of field `t` made, the step counter advanced by the word
and its KX, the PC at the next word (R108, R116). -/
def passed (s : State) (e : Engine) (t : BitVec 4) : State := modCur s s.core (leaveWord e t false none)

/-- `s` after engine `e` has left its word for `target`. -/
def jumped (s : State) (e : Engine) (t : BitVec 4) (target : Word) : State :=
  modCur s s.core (leaveWord e t false (some target))

/-- `s` after engine `e` has passed a word that completes later: its pushes are made then (R116, R117). -/
def issued (s : State) (e : Engine) (t : BitVec 4) : State := modCur s s.core (leaveWord e t true none)

/-- The maps of cores, tables and memory are in their canonical form, so that a part reads as it was last written. -/
def Canonical (s : State) : Prop :=
  swf s.cores 0 Core.zero = true ∧ swf s.tables 0 Table.zero = true ∧ swf s.clusters 0 Cluster.zero = true ∧
  Memory.wf s.mem = true

end Sys2Proof.Claims

open Sys2Proof Sys2Proof.Machine Sys2Proof.Claims

/-! ### Decoding and encoding -/

/-- O1. Decoding an encoded well-formed instruction gives it back, with every operand at every value its encoding admits
(R40-R55). -/
def Obligations.DecodeEncode : Prop :=
  ∀ i w, i.wellFormed = true → encode i = some w → decode w = .ok i

/-- O2. Each word has one meaning: a word that decodes is the encoding of what it decodes to, so no bit of it is dropped
(R40-R55). -/
def Obligations.EncodeDecode : Prop :=
  ∀ w i, decode w = .ok i → encode i = some w ∧ i.wellFormed = true

/-- O3. Words written out by the spec decode to the instructions it says they are (R14, R106, R107, R129, R131,
R133-R135, R147, R148, R149, R150, R316). A word that the maps do not list is rejected as OPCODE, one with a nonzero
reserved bit as FIELD, an operand outside its set as ALIAS, an unassigned CSR as CSR, a misaligned group as ALIGN, a
shared word with D as DEP; each rejection has the subcode of R55 and the lowest bit of the field at fault, 0xFF where no
single field is. -/
def Obligations.SpecWords : Prop :=
  (decode 0x00A01005 = .ok (.aAddi 0 1 0 5) ∧ decode 0x00444042 = .ok (.aSub 0 4 1 2) ∧
   decode 0x40683062 = .ok (.xMulh 0 3 1 34) ∧ decode 0x40B820BF = .ok (.xSari 0 2 2 63) ∧
   decode 0x40D03042 = .ok (.xKmovs 0 3 1 2) ∧ decode 0x24040000 = .ok (.aNop 9) ∧
   decode 0xC00BFFFB = .ok (.b 0x3FFFB) ∧ decode 0xC00D20FE = .ok (.bc 1 1 1 0x7E) ∧
   decode 0xC0100380 = .ok (.bi 0 7) ∧ decode 0xC01C4000 = .ok (.loop 1) ∧ decode 0x010E0080 = .ok (.aLdD 0 32 1 0 0) ∧
   decode 0x012E4080 = .ok (.aStD 0 36 1 0 0) ∧ decode 0x01D40303 = .ok (.aLaunch 0 6 3) ∧
   decode 0x020C4000 = .ok (.aWnext 0 4) ∧ decode 0x01CC0280 = .ok (.aColl 0 5) ∧ decode 0x03C00001 = .ok (.kx 0 1) ∧
   decode 0x01F00000 = .ok (.aRfence 0)) ∧
  (decode 0x00000000 = .error .opcode ∧ decode 0x00040001 = .error (.field 0) ∧
   decode 0x00420040 = .error (.operand 12) ∧ decode 0x02401FFF = .error .csr ∧
   decode 0x42445000 = .error .align ∧ decode 0xC4040000 = .error .dep ∧
   (Reject.opcode.sub = 0x01 ∧ Reject.opcode.fbit = 18) ∧ (Reject.kxPlace.sub = 0x04 ∧ Reject.kxPlace.fbit = 0xFF) ∧
   (Reject.kxMissing.sub = 0x05 ∧ Reject.kxMissing.fbit = 0xFF) ∧ (Reject.dep.sub = 0x07 ∧ Reject.dep.fbit = 26) ∧
   (Reject.align.sub = 0x08 ∧ Reject.align.fbit = 12) ∧ (Reject.csr.sub = 0x0C ∧ Reject.csr.fbit = 0) ∧
   ∀ b, b < 32 → (Reject.field b).sub = 0x02 ∧ (Reject.field b).fbit.toNat = b ∧ (Reject.operand b).sub = 0x03 ∧
     (Reject.operand b).fbit.toNat = b)

/-! ### The step -/

/-- O4. A step in an engine's turn, on the agenda or, with an empty agenda, next in the rotation, runs the instruction
that the bytes at the engine's PC decode to, and then moves on to the next part of the core. A word of the engine that
decode rejects runs as the row that raises ILLEGAL with the rejection's subcode and field; where the word needs a KX and
has none it is KX_MISSING; at the end of the text the row raises ILLEGAL/VALUE (R55, R108, R110). The rotation of turns,
the agenda and that A then waits for accesses whose outcome is open are the model's choice (log 2, log 6). The word
after a KX follows at once, whatever the agenda asks for: no interruption falls between them (R48). A word of another
tag, or a second KX, after a KX is KX_PLACE (R55). A step takes the agenda's next event before any engine moves; the
agenda is the model's way to let any order happen (log 2). -/
def Obligations.StepRunsDecodedWord : Prop :=
  (∀ s e, s.phase = .eng e → canIssue (getCore s s.core) (curBank s s.core) e = true → (curBank s s.core).kxOf e = none →
     ((curBank s s.core).textEnd ≤ ((curBank s s.core).pcOf e).toNat → StepRuns s e (.reservedOpcode 0x09 0)) ∧
     ∀ w, ((curBank s s.core).pcOf e).toNat < (curBank s s.core).textEnd →
       fetchWord s ((curBank s s.core).pcOf e) = .ok w →
       (∀ i, (tagOf w = e.tag ∨ tagOf w = 3) → decode w = .ok i → StepRuns s e i) ∧
       (tagOf w ≠ e.tag → tagOf w ≠ 3 → StepRuns s e .wordStepOver) ∧
       ((tagOf w = e.tag ∨ tagOf w = 3) → decode w = .error .opcode →
         StepRuns s e (.reservedOpcode Reject.opcode.sub Reject.opcode.fbit)) ∧
       ∀ j r, (tagOf w = e.tag ∨ tagOf w = 3) → decodeOp w = some j → (isKx w = false ∨ dep w = 0) → decode w = .error r →
         StepRuns s e (if (kxUse j).mandatory then .reservedOpcode Reject.kxMissing.sub Reject.kxMissing.fbit
           else .reservedOpcode r.sub r.fbit)) ∧
  (∀ s e p w n, s.phase = .eng e → (curBank s s.core).kxOf e = some p →
     canIssue (getCore s s.core) (curBank s s.core) e = true →
     ((curBank s s.core).pcOf e).toNat + 4 < (curBank s s.core).textEnd →
     fetchWord s ((curBank s s.core).pcOf e) = .ok w → fetchWord s ((curBank s s.core).pcOf e + 4) = .ok n →
     (∀ i, tagOf n = tagOf w → isKx n = false → decode n = .ok i → step s = rotated (exec i s)) ∧
     ((tagOf n ≠ tagOf w ∨ isKx n = true) → step s = rotated (exec (.reservedOpcode Reject.kxPlace.sub 0xFF) s))) ∧
  (∀ s i l, s.agenda = .event i :: l → latched s = false → step s = exec i { s with agenda := l })

/-! ### Scalar words -/

namespace Sys2Proof.Claims

open Machine

/-- The rows of R147: the word on A, the word on X, and the result in exact integers. -/
def aluRows : List ((BitVec 4 → BitVec 6 → BitVec 6 → BitVec 6 → Instr) ×
    (BitVec 4 → BitVec 6 → BitVec 6 → BitVec 6 → Instr) × (Word → Word → Int)) :=
  [(.aAdd, .xAdd, fun x y => x.toNat + y.toNat),
   (.aSub, .xSub, fun x y => x.toNat - y.toNat),
   (.aAnd, .xAnd, fun x y => (x &&& y).toNat),
   (.aOr, .xOr, fun x y => (x ||| y).toNat),
   (.aXor, .xXor, fun x y => (x ^^^ y).toNat),
   (.aAndn, .xAndn, fun x y => (x &&& ~~~y).toNat),
   (.aShl, .xShl, fun x y => x.toNat * 2 ^ (y.toNat % 64)),
   (.aShr, .xShr, fun x y => x.toNat / 2 ^ (y.toNat % 64)),
   (.aSar, .xSar, fun x y => x.toInt / 2 ^ (y.toNat % 64)),
   (.aMul, .xMul, fun x y => x.toNat * y.toNat),
   (.aMulh, .xMulh, fun x y => x.toInt * y.toInt / 2 ^ 64),
   (.aMulhu, .xMulhu, fun x y => x.toNat * y.toNat / 2 ^ 64),
   (.aMin, .xMin, fun x y => min x.toInt y.toInt),
   (.aMax, .xMax, fun x y => max x.toInt y.toInt),
   (.aMinu, .xMinu, fun x y => min x.toNat y.toNat),
   (.aMaxu, .xMaxu, fun x y => max x.toNat y.toNat),
   (.aSlt, .xSlt, fun x y => if x.toInt < y.toInt then 1 else 0),
   (.aSltu, .xSltu, fun x y => if x.toNat < y.toNat then 1 else 0),
   (.aSeq, .xSeq, fun x y => if x = y then 1 else 0)]

/-- The rows of R148: the word on A, the word on X, and the result in exact integers from x, the immediate as it is
widened, and the count I. -/
def immRows : List ((BitVec 4 → BitVec 6 → BitVec 6 → BitVec 6 → Instr) ×
    (BitVec 4 → BitVec 6 → BitVec 6 → BitVec 6 → Instr) × (Word → Word → BitVec 6 → Int)) :=
  [(.aAddi, .xAddi, fun x m _ => x.toInt + m.toInt),
   (.aAndi, .xAndi, fun x m _ => (x &&& m).toNat),
   (.aOri, .xOri, fun x m _ => (x ||| m).toNat),
   (.aXori, .xXori, fun x m _ => (x ^^^ m).toNat),
   (.aShli, .xShli, fun x _ i => x.toNat * 2 ^ i.toNat),
   (.aShri, .xShri, fun x _ i => x.toNat / 2 ^ i.toNat),
   (.aSari, .xSari, fun x _ i => x.toInt / 2 ^ i.toNat)]

/-- The immediate of R49 in exact integers: I read as signed, or PAY and I together read as signed. -/
def widened (imm n : Nat) (kx : Option (BitVec 22)) : Int :=
  match kx with
  | none => (BitVec.ofNat n imm).toInt
  | some p => (p ++ BitVec.ofNat n imm).toInt

end Sys2Proof.Claims

/-- O5. The scalar register-register words write the result of R147, wrapped to 64 bits, and pass. Each operand is a
register, or on X the popped head of a data queue; the destination is a register, CQ (A) or an SQ (X). -/
def Obligations.AluResults : Prop :=
  ∀ p ∈ aluRows, ∀ t d a b s,
    (∀ x y k, Ready (p.1 t d a b) .a t s → (curBank s s.core).useA a.toNat = .ok x →
      (curBank s s.core).useA b.toNat = .ok y → (curBank s s.core).putA d (BitVec.ofInt 64 (p.2.2 x y)) = .ok k →
      exec (p.1 t d a b) s = .next (passed (putCur s k) .a t)) ∧
    (∀ x y k1 k2 k, Ready (p.2.1 t d a b) .x t s → (curBank s s.core).getS a = .ok (x, k1) → k1.getS b = .ok (y, k2) →
      k2.putS d (BitVec.ofInt 64 (p.2.2 x y)) = .ok k →
      exec (p.2.1 t d a b) s = .next (passed (putCur s k) .x t))

/-- O6. The scalar register-immediate words write the result of R148, with the immediate widened by a KX as R49 says. LI
loads the widened immediate; LIHI replaces bits [63:32] of a register and keeps bits [31:0] (R149). M.MSET loads the
widened immediate into an m-register (R268). -/
def Obligations.ImmediateResults : Prop :=
  (∀ p ∈ immRows, ∀ t d a i s,
     (∀ x k, Ready (p.1 t d a i) .a t s → (curBank s s.core).useA a.toNat = .ok x →
       (curBank s s.core).putA d
         (BitVec.ofInt 64 (p.2.2 x (BitVec.ofInt 64 (widened i.toNat 6 ((curBank s s.core).kxOf .a))) i)) = .ok k →
       exec (p.1 t d a i) s = .next (passed (putCur s k) .a t)) ∧
     (∀ x k1 k, Ready (p.2.1 t d a i) .x t s → (curBank s s.core).getS a = .ok (x, k1) →
       k1.putS d (BitVec.ofInt 64 (p.2.2 x (BitVec.ofInt 64 (widened i.toNat 6 ((curBank s s.core).kxOf .x))) i)) = .ok k →
       exec (p.2.1 t d a i) s = .next (passed (putCur s k) .x t))) ∧
  ((∀ t d i s k, Ready (.aLi t d i) .a t s →
     (curBank s s.core).putA d (BitVec.ofInt 64 (widened i.toNat 12 ((curBank s s.core).kxOf .a))) = .ok k →
     exec (.aLi t d i) s = .next (passed (putCur s k) .a t)) ∧
   (∀ t d i s k, Ready (.xLi t d i) .x t s →
     (curBank s s.core).putS d (BitVec.ofInt 64 (widened i.toNat 12 ((curBank s s.core).kxOf .x))) = .ok k →
     exec (.xLi t d i) s = .next (passed (putCur s k) .x t)) ∧
   (∀ t d i s v, Ready (.aLihi t d i) .a t s → (curBank s s.core).useA d.toNat = .ok v →
     exec (.aLihi t d i) s = .next (passed (putCur s ((curBank s s.core).wa d.toNat
       (BitVec.ofInt 32 (widened i.toNat 12 ((curBank s s.core).kxOf .a)) ++ v.extractLsb' 0 32))) .a t)) ∧
   (∀ t d i s, Ready (.xLihi t d i) .x t s →
     exec (.xLihi t d i) s = .next (passed (putCur s ((curBank s s.core).ws d.toNat
       (BitVec.ofInt 32 (widened i.toNat 12 ((curBank s s.core).kxOf .x)) ++
         ((curBank s s.core).rs d.toNat).extractLsb' 0 32))) .x t)) ∧
   (∀ t d i s, Ready (.mMset t d i) .m t s →
     exec (.mMset t d i) s = .next (passed (putCur s ((curBank s s.core).wm d.toNat
       (BitVec.ofInt 64 (widened i.toNat 12 ((curBank s s.core).kxOf .m))))) .m t)))

/-- O7. The NOPs of the engines and the shared NOP have no effect but passing, with the tokens of field D (R129, R130).
An engine steps over a word of another engine without examining it; the word counts as passed (R41, R108). A KX is acted
on by latching its payload for the next word (R48). -/
def Obligations.NopsPass : Prop :=
  ((∀ t s, Ready (.aNop t) .a t s → exec (.aNop t) s = .next (passed s .a t)) ∧
   (∀ t s, Ready (.xNop t) .x t s → exec (.xNop t) s = .next (passed s .x t)) ∧
   (∀ t s, Ready (.mNop t) .m t s → exec (.mNop t) s = .next (passed s .m t)) ∧
   (∀ s, Ready .nop s.engine 0 s → exec .nop s = .next (passed s s.engine 0))) ∧
  ((∀ s, canIssue (getCore s s.core) (curBank s s.core) s.engine = true →
     (curBank s s.core).slipBlocks s.engine 1 = false →
     exec .wordStepOver s = .next (modCur s s.core fun b => b.pass s.engine)) ∧
   (∀ e p s, canIssue (getCore s s.core) (curBank s s.core) s.engine = true → (curBank s s.core).kxOf s.engine = none →
     exec (.kx e p) s = .next (modCur s s.core fun b => { b with kx := b.kx.set (some p) s.engine })))

/-- O8. What passing a word does in a canonical state: the engine's PC stands after the word and its KX, its step
counter has counted both, the KX is gone; the other engines' PCs and step counters, every register, the data queues, the
return stacks, the loops, the fault record and every other bank, core, table, byte of memory and part of the node are as
they were (R108, R116). The tokens of a word: WP and WS each pop one, SP and SS each push one; no other counter changes
(R115, R116). -/
def Obligations.PassingWordFrame : Prop :=
  (∀ s k e t, swf s.cores 0 Core.zero = true →
     let u := passed (putCur s k) e t
     let b := curBank u u.core
     b.pcOf e = k.pcOf e + (if (k.kxOf e).isSome then 8 else 4) ∧
     b.issue.steps.get e = k.issue.steps.get e + (if (k.kxOf e).isSome then 2 else 1) ∧ b.kxOf e = none ∧
     (∀ f, f ≠ e → b.pcOf f = k.pcOf f ∧ b.kxOf f = k.kxOf f ∧ b.issue.steps.get f = k.issue.steps.get f) ∧
     b.a = k.a ∧ b.s = k.s ∧ b.m = k.m ∧ b.v = k.v ∧ b.k = k.k ∧
     b.issue.queues = k.issue.queues ∧ b.issue.rstk = k.issue.rstk ∧ b.issue.loops = k.issue.loops ∧
     b.issue.oqs = k.issue.oqs ∧ b.fault = k.fault ∧ b.xflags = k.xflags ∧ b.xrm = k.xrm ∧ b.inflight = k.inflight ∧
     b.shadow = k.shadow ∧ b.evq = k.evq ∧ b.mat = k.mat ∧ b.tempo = k.tempo ∧ b.tenant = k.tenant ∧ b.priv = k.priv ∧
     getBank u u.core (!(getCore s s.core).active) = getBank s s.core (!(getCore s s.core).active) ∧
     (∀ c, c ≠ s.core → getCore u c = getCore s c) ∧
     (∀ a, rdByte u a = rdByte s a) ∧ u.poison = s.poison ∧ u.tables = s.tables ∧ u.clusters = s.clusters ∧
     u.shoe = s.shoe ∧ u.near = s.near ∧ u.fabric = s.fabric ∧ u.disc = s.disc ∧ u.mbox = s.mbox ∧ u.mgmt = s.mgmt ∧
     u.power = s.power) ∧
  (∀ e t (b : Bank), swf b.issue.toks 0 (0 : BitVec 4) = true → b.tokReady e t = true →
     ∀ n, ((b.popToks e t).pushToks e t).tok n =
       b.tok n - (if (tokPops e t).contains n then 1 else 0) + (if (tokPushes e t).contains n then 1 else 0))

/-- O9. Operands of scalar and vector fields: a0, s0 and m0 read zero and discard writes; a pop takes the head of its
queue and leaves the rest; a push adds at the tail an entry of the writer's kind; an a-register that an issued word
still writes makes the reader wait; code 56 reads a vector of zeros. A scalar read takes the low 8 bytes of an entry of
either kind, and a scalar entry read as a vector is zero from byte 8 on. The entries that a memory word of A pops stay
in their queue until it completes (R43, R44, R119, R120, R141, R144, R147). -/
def Obligations.ScalarOperands : Prop :=
  (∀ b v, Bank.ra b 0 = 0 ∧ b.wa 0 v = b ∧ b.rs 0 = 0 ∧ b.ws 0 v = b ∧ b.rm 0 = 0 ∧ b.wm 0 v = b) ∧
  (∀ (b : Bank) r v, swf b.a 0 (0 : Word) = true → r ≠ 0 →
    (b.wa r v).ra r = v ∧ ∀ i, i ≠ r → (b.wa r v).ra i = b.ra i) ∧
  (∀ (b : Bank) r v, swf b.s 0 (0 : Word) = true → r ≠ 0 →
    (b.ws r v).rs r = v ∧ ∀ i, i ≠ r → (b.ws r v).rs i = b.rs i) ∧
  (∀ (b : Bank) r v, swf b.m 0 (0 : Word) = true → r ≠ 0 →
    (b.wm r v).rm r = v ∧ ∀ i, i ≠ r → (b.wm r v).rm i = b.rm i) ∧
  (∀ (b : Bank) r v, swf b.v 0 (0 : Vec) = true → (b.wv r v).rv r = v ∧ ∀ i, i ≠ r → (b.wv r v).rv i = b.rv i) ∧
  (∀ (b : Bank) r v, swf b.k 0 (0 : Mask) = true → (b.wk r v).rk r = v ∧ ∀ i, i ≠ r → (b.wk r v).rk i = b.rk i) ∧
  (∀ (b : Bank) q x l, b.queue q = x :: l → x.ready = true → b.popQ q = .ok (x.data, b.setQueue q l)) ∧
  (∀ (b : Bank) q x l, b.queue q = x :: l → x.ready = false → b.popQ q = stall) ∧
  (∀ (b : Bank) q, b.queue q = [] → b.popQ q = stall) ∧
  (∀ (b : Bank) q vec v, (b.queue q).length < queueDepth q →
    b.pushQ q vec v = .ok (b.setQueue q (b.queue q ++ [⟨vec, v, true, 0⟩]))) ∧
  (∀ (b : Bank) q vec v, queueDepth q ≤ (b.queue q).length → b.pushQ q vec v = stall) ∧
  (∀ (b : Bank) r, r ≠ 0 → r < 32 → (∃ x ∈ b.inflight, x.dest = .areg (BitVec.ofNat 5 r)) → b.useA r = stall) ∧
  (∀ (b : Bank) r, r < 32 → (∀ x ∈ b.inflight, x.dest ≠ .areg (BitVec.ofNat 5 r)) → b.useA r = .ok (b.ra r)) ∧
  (∀ (b : Bank) (d : BitVec 6) v, d.toNat < 32 → b.putA d v = .ok (b.wa d.toNat v)) ∧
  (∀ (b : Bank) v, b.putA 38 v = b.pushQ 6 false (v.setWidth 4096)) ∧
  (∀ (b : Bank) (d : BitVec 6), d.toNat < 32 → b.getASq d = (b.useA d.toNat).map fun v => (v, [])) ∧
  (∀ (b : Bank) (d : BitVec 6) x l, 32 ≤ d.toNat →
    (b.queue (d.toNat - 32)).drop (b.inflight.filter fun y => y.pops.contains (d.toNat - 32)).length = x :: l →
    b.getASq d = if x.ready then .ok (x.data.setWidth 64, [d.toNat - 32]) else stall) ∧
  (∀ (b : Bank) (f : BitVec 6), f.toNat < 32 → b.getS f = .ok (b.rs f.toNat, b)) ∧
  (∀ (b : Bank) (f : BitVec 6) v b1, 32 ≤ f.toNat → f.toNat < 36 → b.popQ (f.toNat - 32) = .ok (v, b1) →
    b.getS f = .ok (v.setWidth 64, b1)) ∧
  (∀ (b : Bank) (f : BitVec 6), 32 ≤ f.toNat → f.toNat < 36 → b.popQ (f.toNat - 32) = stall → b.getS f = stall) ∧
  (∀ (b : Bank) (d : BitVec 6) v, d.toNat < 32 → b.putS d v = .ok (b.ws d.toNat v)) ∧
  (∀ (b : Bank) (d : BitVec 6) v, d = 36 ∨ d = 37 → b.putS d v = b.pushQ (d.toNat - 32) false (v.setWidth 4096)) ∧
  (∀ (b : Bank) (f : BitVec 6), f.toNat < 48 → b.getV f = .ok (b.rv f.toNat, b)) ∧
  (∀ (b : Bank) (f : BitVec 6), 48 ≤ f.toNat → f.toNat < 52 → b.getV f = b.popQ (f.toNat - 48)) ∧
  (∀ b : Bank, b.getV 56 = .ok (0, b)) ∧
  (∀ (b : Bank) (d : BitVec 6) v, d.toNat < 48 → b.putV d v = .ok (b.wv d.toNat v)) ∧
  (∀ (b : Bank) v, b.putV 52 v = b.pushQ 4 true v ∧ b.putV 53 v = b.pushQ 5 true v) ∧
  ∀ v : Word, ((v.setWidth 4096 : Vec).setWidth 64 = v) ∧ ∀ i, 64 ≤ i → (v.setWidth 4096 : Vec).getLsbD i = false

/-! ### Masks, vectors and floating point -/

/-- O10. The mask words act on all 1,024 bits: AND, OR and NOT; KMOVS reads and KMOVK replaces one chunk of 64 bits;
KPOPC counts the ones (R150). -/
def Obligations.MaskResults : Prop :=
  (∀ t d a b s, Ready (.xKand t d a b) .x t s →
    exec (.xKand t d a b) s = .next (passed (putCur s ((curBank s s.core).wk d.toNat
      ((curBank s s.core).rk a.toNat &&& (curBank s s.core).rk b.toNat))) .x t)) ∧
  (∀ t d a b s, Ready (.xKor t d a b) .x t s →
    exec (.xKor t d a b) s = .next (passed (putCur s ((curBank s s.core).wk d.toNat
      ((curBank s s.core).rk a.toNat ||| (curBank s s.core).rk b.toNat))) .x t)) ∧
  (∀ t d a s, Ready (.xKnot t d a) .x t s →
    exec (.xKnot t d a) s = .next (passed (putCur s ((curBank s s.core).wk d.toNat
      (~~~((curBank s s.core).rk a.toNat)))) .x t)) ∧
  (∀ t d a c s k, Ready (.xKmovs t d a c) .x t s →
    (curBank s s.core).putS d (BitVec.ofNat 64 (((curBank s s.core).rk a.toNat).toNat / 2 ^ (64 * c.toNat))) = .ok k →
    exec (.xKmovs t d a c) s = .next (passed (putCur s k) .x t)) ∧
  (∀ t d a c s x k1, Ready (.xKmovk t d a c) .x t s → (curBank s s.core).getS a = .ok (x, k1) →
    ∃ m : Mask, exec (.xKmovk t d a c) s = .next (passed (putCur s (k1.wk d.toNat m)) .x t) ∧
      ∀ i, i < 1024 → m.getLsbD i =
        if i / 64 = c.toNat then x.getLsbD (i % 64) else (k1.rk d.toNat).getLsbD i) ∧
  (∀ t d a s k, Ready (.xKpopc t d a) .x t s →
    (curBank s s.core).putS d (BitVec.ofNat 64
      ((List.range 1024).countP fun i => ((curBank s s.core).rk a.toNat).getLsbD i)) = .ok k →
    exec (.xKpopc t d a) s = .next (passed (putCur s k) .x t))

namespace Sys2Proof.Claims

open Machine

/-- The width-coded words of R151 on two vectors, with the result for elements u and v of w bits. -/
def vectorRows : List ((BitVec 4 → BitVec 2 → BitVec 6 → BitVec 6 → BitVec 6 → Instr) × (Nat → Nat → Nat → Nat)) :=
  [(.xVadd, fun w u v => (u + v) % 2 ^ w),
   (.xVsub, fun w u v => (u + 2 ^ w - v) % 2 ^ w),
   (.xVshl, fun w u v => u * 2 ^ (v % w) % 2 ^ w),
   (.xVshr, fun w u v => u / 2 ^ (v % w)),
   (.xVsar, fun w u v => ((sx w u / 2 ^ (v % w)) % 2 ^ w).toNat),
   (.xVmulh, fun w u v => (sx w u * sx w v / 2 ^ w % 2 ^ w).toNat),
   (.xVmin, fun w u v => if sx w u < sx w v then u else v),
   (.xVmax, fun w u v => if sx w u < sx w v then v else u),
   (.xVminu, fun _ u v => min u v),
   (.xVmaxu, fun _ u v => max u v)]

/-- The words of R152 and R155 in 32-bit lanes, with the result for elements u and v. -/
def laneRows : List ((BitVec 4 → BitVec 6 → BitVec 6 → BitVec 6 → Instr) × (Nat → Nat → Nat)) :=
  [(.xVand, fun u v => u &&& v),
   (.xVor, fun u v => u ||| v),
   (.xVxor, fun u v => u ^^^ v),
   (.xVandn, fun u v => u &&& (2 ^ 32 - 1 - v)),
   (.xVmul24, fun u v => (sx 24 (u % 2 ^ 24) * sx 24 (v % 2 ^ 24) % 2 ^ 32).toNat),
   (.xVmul24u, fun u v => u % 2 ^ 24 * (v % 2 ^ 24) % 2 ^ 32),
   (.xVmul32, fun u v => u * v % 2 ^ 32)]

/-- The width-coded words of R151 on one vector. -/
def vectorOneRows : List ((BitVec 4 → BitVec 2 → BitVec 6 → BitVec 6 → Instr) × (Nat → Nat → Nat)) :=
  [(.xVabs, fun w u => (sx w u).natAbs % 2 ^ w),
   (.xVpopc, fun w u => ones w u),
   (.xVclz, fun w u => clz w u)]

/-- The compares of R156. -/
def compareRows : List ((BitVec 4 → BitVec 2 → BitVec 6 → BitVec 6 → BitVec 6 → Instr) × (Nat → Nat → Nat → Bool)) :=
  [(.xVcmpeq, fun _ u v => u == v),
   (.xVcmplt, fun w u v => sx w u < sx w v),
   (.xVcmpltu, fun _ u v => u < v)]

/-- The vector floating-point words on A and B (R172-R174), with the result and flags for element i. -/
def floatRows : List ((BitVec 4 → BitVec 2 → BitVec 6 → BitVec 6 → BitVec 6 → Instr) ×
    (Nat → Bank → BitVec 6 → Nat → Nat → Nat → Nat × Nat)) :=
  [(.xVfadd, fun f k _ i x y => fArith .add f (k.rounding i) x y 0),
   (.xVfsub, fun f k _ i x y => fArith .sub f (k.rounding i) x y 0),
   (.xVfmul, fun f k _ i x y => fArith .mul f (k.rounding i) x y 0),
   (.xVfma, fun f k d i x y => fArith .fma f (k.rounding i) x y (elem (k.rv d.toNat).toNat (fmtWidth f) i)),
   (.xVfmin, fun f _ _ _ x y => (fMinMax false f x y, 0)),
   (.xVfmax, fun f _ _ _ x y => (fMinMax true f x y, 0))]

/-- The vector floating-point words on A in FP32 lanes (R173, R176-R178). -/
def floatOneRows : List ((BitVec 4 → BitVec 6 → BitVec 6 → Instr) × (Bank → BitVec 6 → Nat → Nat → Nat × Nat)) :=
  [(.xVfabs, fun _ _ _ x => (fSignOp false x, 0)),
   (.xVfneg, fun _ _ _ x => (fSignOp true x, 0)),
   (.xVrcp, fun _ _ _ x => fRcp x),
   (.xVrsq, fun _ _ _ x => fRsq x),
   (.xVexp2, fun _ _ _ x => fExp2 x),
   (.xVlog2, fun _ _ _ x => fLog2 x),
   (.xVrcpstep, fun k d i x => fStep false (k.rounding i) x (elem (k.rv d.toNat).toNat 32 i)),
   (.xVrsqstep, fun k d i x => fStep true (k.rounding i) x (elem (k.rv d.toNat).toNat 32 i))]

/-- The scalar floating-point words on A and B (R169), with result and flags. -/
def scalarFloatRows : List ((BitVec 4 → BitVec 6 → BitVec 6 → BitVec 6 → Instr) ×
    (Bank → BitVec 6 → Nat → Nat → Nat × Nat)) :=
  [(.xFadd, fun k _ x y => fArith .add 0 (k.rounding 0) x y 0),
   (.xFsub, fun k _ x y => fArith .sub 0 (k.rounding 0) x y 0),
   (.xFmul, fun k _ x y => fArith .mul 0 (k.rounding 0) x y 0),
   (.xFma, fun k d x y => fArith .fma 0 (k.rounding 0) x y ((k.rs d.toNat).toNat % 2 ^ 32)),
   (.xFmin, fun _ _ x y => (fMinMax false 0 x y, 0)),
   (.xFmax, fun _ _ x y => (fMinMax true 0 x y, 0)),
   (.xFcmp, fun k _ x y => ((if (fCompare 0 (condOf k) x y).1 then 1 else 0), (fCompare 0 (condOf k) x y).2))]

end Sys2Proof.Claims

/-- O11. The element-wise vector words give each element the result of R151, R152 and R155 and commit the vector under
the word's predication (R145). -/
def Obligations.VectorResults : Prop :=
  (∀ p ∈ vectorRows, ∀ t w d a b s x y k1 k2 k, Ready (p.1 t w d a b) .x t s →
    (curBank s s.core).getV a = .ok (x, k1) → k1.getV b = .ok (y, k2) →
    k2.commit (predOf (curBank s s.core) ((curBank s s.core).kxOf .x)) (laneWidth w) d
      (List.zipWith (p.2 (laneWidth w)) (lanesOf x (laneWidth w)) (lanesOf y (laneWidth w))) = .ok k →
    exec (p.1 t w d a b) s = .next (passed (putCur s k) .x t)) ∧
  (∀ p ∈ laneRows, ∀ t d a b s x y k1 k2 k, Ready (p.1 t d a b) .x t s →
    (curBank s s.core).getV a = .ok (x, k1) → k1.getV b = .ok (y, k2) →
    k2.commit (predOf (curBank s s.core) ((curBank s s.core).kxOf .x)) 32 d
      (List.zipWith p.2 (lanesOf x 32) (lanesOf y 32)) = .ok k →
    exec (p.1 t d a b) s = .next (passed (putCur s k) .x t)) ∧
  (∀ p ∈ vectorOneRows, ∀ t w d a s x k1 k, Ready (p.1 t w d a) .x t s → (curBank s s.core).getV a = .ok (x, k1) →
    k1.commit (predOf (curBank s s.core) ((curBank s s.core).kxOf .x)) (laneWidth w) d
      ((lanesOf x (laneWidth w)).map (p.2 (laneWidth w))) = .ok k →
    exec (p.1 t w d a) s = .next (passed (putCur s k) .x t))

/-- O12. Commit of R145: an enabled element takes its result, a disabled one 0 with Z, else its old value; what lies
above the last result is 0, as the upper half of VNARROW's vector (R158); the vector goes to the register, or as one
vector-kind entry to the queue. -/
def Obligations.CommitByElement : Prop :=
  ∀ (b : Bank) (p : Pred) w d res, 0 < w → w * res.length ≤ 4096 →
    ∃ v : Vec, b.commit p w d res = b.putV d v ∧ (∀ i, w * res.length ≤ i → v.getLsbD i = false) ∧
      ∀ i (h : i < res.length), elem v.toNat w i =
        if p.en = false ∨ p.mask.getLsbD i = true then res[i] % 2 ^ w
        else if p.z = true then 0 else elem (b.rv d.toNat).toNat w i

/-- O13. A compare writes one mask bit for each element, 0 from the last element on; a disabled bit becomes 0 with Z,
else keeps its value (R156). -/
def Obligations.CompareResults : Prop :=
  ∀ r ∈ compareRows, ∀ t w d a b s x y k1 k2, Ready (r.1 t w d a b) .x t s →
    (curBank s s.core).getV a = .ok (x, k1) → k1.getV b = .ok (y, k2) →
    ∃ m : Mask, exec (r.1 t w d a b) s = .next (passed (putCur s (k2.wk d.toNat m)) .x t) ∧
      ∀ i, i < 1024 → m.getLsbD i =
        let p := predOf (curBank s s.core) ((curBank s s.core).kxOf .x)
        if 4096 / laneWidth w ≤ i then false
        else if p.en = false ∨ p.mask.getLsbD i = true then
          r.2 (laneWidth w) (elem x.toNat (laneWidth w) i) (elem y.toNat (laneWidth w) i)
        else if p.z = true then false else (k2.rk d.toNat).getLsbD i

/-- O14. The vector words that keep or move data: VLOP3 looks each bit up in its truth table, VFUN shifts a pair of
lanes, VMAD24 adds a product to D, VNARROW saturates to half the width, VREDADD adds all elements, VSEL picks by the
mask, VPERM gathers lanes of A by B, VMOV copies, VROT rotates, VBCAST replicates, VEXT reads and VINS writes one
element (R153-R161). The widening words write an aligned group of registers: the result of source element r + g j, of
sources that are widened and added or multiplied, becomes element j of register r of the group, under the mask bit of
the source element; a disabled element becomes 0 with Z, else keeps its value; no other register changes (R157). -/
def Obligations.VectorMovementResults : Prop :=
  ((∀ t d a b s x y k1 k2, Ready (.xVlop3 t d a b) .x t s → (curBank s s.core).getV a = .ok (x, k1) →
     k1.getV b = .ok (y, k2) →
     ∃ v : Vec, (∀ k, k2.putV d v = .ok k → exec (.xVlop3 t d a b) s = .next (passed (putCur s k) .x t)) ∧
       ∀ i, i < 4096 → v.getLsbD i = ((((curBank s s.core).kxOf .x).getD 0).getLsbD
         (4 * ((k2.rv d.toNat).getLsbD i).toNat + 2 * (x.getLsbD i).toNat + (y.getLsbD i).toNat))) ∧
   (∀ t d a b s x y k1 k2, Ready (.xVfun t d a b) .x t s → (curBank s s.core).getV a = .ok (x, k1) →
     k1.getV b = .ok (y, k2) →
     ∃ v : Vec, (∀ k, k2.putV d v = .ok k → exec (.xVfun t d a b) s = .next (passed (putCur s k) .x t)) ∧
       ∀ i, i < 128 → elem v.toNat 32 i =
         (elem x.toNat 32 i * 2 ^ 32 + elem y.toNat 32 i) / 2 ^ ((((curBank s s.core).kxOf .x).getD 0).toNat % 32) % 2 ^ 32) ∧
   (∀ t d a b s x y k1 k2 k, Ready (.xVmad24 t d a b) .x t s → (curBank s s.core).getV a = .ok (x, k1) →
     k1.getV b = .ok (y, k2) →
     k2.commit (predOf (curBank s s.core) ((curBank s s.core).kxOf .x)) 32 d (tab (fun i =>
       ((elem (k2.rv d.toNat).toNat 32 i + sx 24 (elem x.toNat 32 i % 2 ^ 24) * sx 24 (elem y.toNat 32 i % 2 ^ 24)) %
         2 ^ 32).toNat) 0 128) = .ok k →
     exec (.xVmad24 t d a b) s = .next (passed (putCur s k) .x t)) ∧
   (∀ t w d a s x k1 k, Ready (.xVnarrow t w d a) .x t s → (curBank s s.core).getV a = .ok (x, k1) →
     k1.commit (predOf (curBank s s.core) ((curBank s s.core).kxOf .x)) (laneWidth w / 2) d
       ((lanesOf x (laneWidth w)).map fun u =>
         (max (min (sx (laneWidth w) u) (2 ^ (laneWidth w / 2 - 1) - 1)) (-2 ^ (laneWidth w / 2 - 1)) %
           2 ^ (laneWidth w / 2)).toNat) = .ok k →
     exec (.xVnarrow t w d a) s = .next (passed (putCur s k) .x t)) ∧
   (∀ t w d a s x k1 k, Ready (.xVredadd t w d a) .x t s → (curBank s s.core).getV a = .ok (x, k1) →
     k1.putS d (BitVec.ofInt 64 (sx (laneWidth w) ((lanesOf x (laneWidth w)).sum % 2 ^ laneWidth w))) = .ok k →
     exec (.xVredadd t w d a) s = .next (passed (putCur s k) .x t)) ∧
   (∀ t d a b s x y k1 k2, Ready (.xVsel t d a b) .x t s → (curBank s s.core).getV a = .ok (x, k1) →
     k1.getV b = .ok (y, k2) →
     let p := predOf (curBank s s.core) ((curBank s s.core).kxOf .x)
     let n := if p.z then 8 else 32
     ∃ v : Vec, (∀ k, k2.putV d v = .ok k → exec (.xVsel t d a b) s = .next (passed (putCur s k) .x t)) ∧
       ∀ i, i < 4096 / n → elem v.toNat n i =
         if p.en = false ∨ p.mask.getLsbD i = true then elem x.toNat n i else elem y.toNat n i) ∧
   (∀ t d a b s x y k1 k2 k, Ready (.xVperm t d a b) .x t s → (curBank s s.core).getV a = .ok (x, k1) →
     k1.getV b = .ok (y, k2) →
     k2.commit (predOf (curBank s s.core) ((curBank s s.core).kxOf .x)) 32 d
       (tab (fun i => elem x.toNat 32 (elem y.toNat 32 i % 128)) 0 128) = .ok k →
     exec (.xVperm t d a b) s = .next (passed (putCur s k) .x t)) ∧
   (∀ t d a s x k1 k, Ready (.xVmov t d a) .x t s → (curBank s s.core).getV a = .ok (x, k1) →
     k1.commit (predOf (curBank s s.core) ((curBank s s.core).kxOf .x)) 32 d (lanesOf x 32) = .ok k →
     exec (.xVmov t d a) s = .next (passed (putCur s k) .x t)) ∧
   (∀ t w d a b s x c k1 k2 k, Ready (.xVrot t w d a b) .x t s → (curBank s s.core).getV a = .ok (x, k1) →
     k1.getS b = .ok (c, k2) →
     k2.commit (predOf (curBank s s.core) ((curBank s s.core).kxOf .x)) (laneWidth w) d
       (tab (fun i => elem x.toNat (laneWidth w) ((i + c.toNat) % (4096 / laneWidth w))) 0 (4096 / laneWidth w)) = .ok k →
     exec (.xVrot t w d a b) s = .next (passed (putCur s k) .x t)) ∧
   (∀ t w d a s x k1 k, Ready (.xVbcast t w d a) .x t s → (curBank s s.core).getS a = .ok (x, k1) →
     k1.commit (predOf (curBank s s.core) ((curBank s s.core).kxOf .x)) (laneWidth w) d
       (List.replicate (4096 / laneWidth w) (x.toNat % 2 ^ laneWidth w)) = .ok k →
     exec (.xVbcast t w d a) s = .next (passed (putCur s k) .x t)) ∧
   (∀ t w d a b s x c k1 k2 k, Ready (.xVext t w d a b) .x t s → (curBank s s.core).getV a = .ok (x, k1) →
     k1.getS b = .ok (c, k2) →
     k2.putS d (BitVec.ofInt 64 (sx (laneWidth w) (elem x.toNat (laneWidth w) (c.toNat % (4096 / laneWidth w))))) = .ok k →
     exec (.xVext t w d a b) s = .next (passed (putCur s k) .x t)) ∧
   (∀ t w d a b s x c k1 k2, Ready (.xVins t w d a b) .x t s → (curBank s s.core).getS a = .ok (x, k1) →
     k1.getS b = .ok (c, k2) →
     ∃ v : Vec, exec (.xVins t w d a b) s = .next (passed (putCur s (k2.wv d.toNat v)) .x t) ∧
       ∀ i, i < 4096 / laneWidth w → elem v.toNat (laneWidth w) i =
         if i = c.toNat % (4096 / laneWidth w) then x.toNat % 2 ^ laneWidth w
         else elem (k2.rv d.toNat).toNat (laneWidth w) i)) ∧
  ((∀ t w d a b s x y k1 k2, Ready (.xVwadd t w d a b) .x t s → (curBank s s.core).getV a = .ok (x, k1) →
     k1.getV b = .ok (y, k2) →
     exec (.xVwadd t w d a b) s = .next (passed (putCur s
       (wideWrite (predOf (curBank s s.core) ((curBank s s.core).kxOf .x)) (wideWidth w) (wideGroup w) d.toNat
         (List.zipWith (fun u v => ((sx (laneWidth w) u + sx (laneWidth w) v) % 2 ^ wideWidth w).toNat)
           (lanesOf x (laneWidth w)) (lanesOf y (laneWidth w))) (wideGroup w) k2)) .x t)) ∧
   (∀ t w d a b s x y k1 k2, Ready (.xVwmul t w d a b) .x t s → (curBank s s.core).getV a = .ok (x, k1) →
     k1.getV b = .ok (y, k2) →
     exec (.xVwmul t w d a b) s = .next (passed (putCur s
       (wideWrite (predOf (curBank s s.core) ((curBank s s.core).kxOf .x)) (wideWidth w) (wideGroup w) d.toNat
         (List.zipWith (fun u v => ((sx (laneWidth w) u * sx (laneWidth w) v) % 2 ^ wideWidth w).toNat)
           (lanesOf x (laneWidth w)) (lanesOf y (laneWidth w))) (wideGroup w) k2)) .x t)) ∧
   ∀ (p : Pred) (w : BitVec 2) d res (k : Bank), w ≠ 0 → swf k.v 0 (0 : Vec) = true →
     let u := wideWrite p (wideWidth w) (wideGroup w) d res (wideGroup w) k
     (∀ r j, r < wideGroup w → j < 4096 / wideWidth w → elem (u.rv (d + r)).toNat (wideWidth w) j =
       if p.en = false ∨ p.mask.getLsbD (r + wideGroup w * j) = true then
         res.getD (r + wideGroup w * j) 0 % 2 ^ wideWidth w
       else if p.z = true then 0 else elem (k.rv (d + r)).toNat (wideWidth w) j) ∧
     (∀ i, i < d ∨ d + wideGroup w ≤ i → u.rv i = k.rv i) ∧ { u with v := k.v } = k)

/-- O15. X.XRMODE sets XRM.MODE and X.XFLAGS reads XFLAGS, clearing them with C = 1 (R165, R166). -/
def Obligations.ModeAndFlags : Prop :=
  (∀ t m s, Ready (.xXrmode t m) .x t s →
    exec (.xXrmode t m) s = .next (passed (putCur s { curBank s s.core with xrm := m }) .x t)) ∧
  (∀ t d s k, Ready (.xXflags t d 0) .x t s → (curBank s s.core).putS d ((curBank s s.core).xflags.setWidth 64) = .ok k →
    exec (.xXflags t d 0) s = .next (passed (putCur s k) .x t)) ∧
  (∀ t d s k, Ready (.xXflags t d 1) .x t s →
    ({ curBank s s.core with xflags := 0 } : Bank).putS d ((curBank s s.core).xflags.setWidth 64) = .ok k →
    exec (.xXflags t d 1) s = .next (passed (putCur s k) .x t))

/-- O16. The scalar floating-point words read the low 32 bits of their sources, write the zero-extended FP32 result
(FCMP: 1 or 0) and raise its flags (R169, R170); FCVT converts as R180 and R182 say; VFREDADD adds the tree of R179. -/
def Obligations.ScalarFloatResults : Prop :=
  (∀ p ∈ scalarFloatRows, ∀ t d a b s x y k1 k2 k, Ready (p.1 t d a b) .x t s →
    (curBank s s.core).getS a = .ok (x, k1) → k1.getS b = .ok (y, k2) →
    let r := p.2 (curBank s s.core) d (x.toNat % 2 ^ 32) (y.toNat % 2 ^ 32)
    (k2.raiseFlags r.2).putS d (BitVec.ofNat 64 r.1) = .ok k →
    exec (p.1 t d a b) s = .next (passed (putCur s k) .x t)) ∧
  (∀ t d a s x k1 k, Ready (.xFrcp t d a) .x t s → (curBank s s.core).getS a = .ok (x, k1) →
    (k1.raiseFlags (fRcp (x.toNat % 2 ^ 32)).2).putS d (BitVec.ofNat 64 (fRcp (x.toNat % 2 ^ 32)).1) = .ok k →
    exec (.xFrcp t d a) s = .next (passed (putCur s k) .x t)) ∧
  (∀ t d a s x k1 k, Ready (.xFrsq t d a) .x t s → (curBank s s.core).getS a = .ok (x, k1) →
    (k1.raiseFlags (fRsq (x.toNat % 2 ^ 32)).2).putS d (BitVec.ofNat 64 (fRsq (x.toNat % 2 ^ 32)).1) = .ok k →
    exec (.xFrsq t d a) s = .next (passed (putCur s k) .x t)) ∧
  (∀ t d a s x k1 k p, Ready (.xFcvt t d a) .x t s → (curBank s s.core).kxOf .x = some p →
    (curBank s s.core).getS a = .ok (x, k1) →
    let f := p.toNat % 16
    let g := p.toNat / 16 % 16
    let r := convert f g ((curBank s s.core).convMode p 0) (x.toNat % 2 ^ fmtWidth f)
    (k1.raiseFlags r.2).putS d (if fmtSigned g then BitVec.ofInt 64 (sx (fmtWidth g) r.1) else BitVec.ofNat 64 r.1) = .ok k →
    exec (.xFcvt t d a) s = .next (passed (putCur s k) .x t)) ∧
  (∀ t d a s x k1 k, Ready (.xVfredadd t d a) .x t s → (curBank s s.core).getV a = .ok (x, k1) →
    let r := (treeSum (redAdd (curBank s s.core)) 7 1 ((lanesOf x 32).map fun e => (e, 0))).headD (0, 0)
    (k1.raiseFlags r.2).putS d (BitVec.ofNat 64 r.1) = .ok k →
    exec (.xVfredadd t d a) s = .next (passed (putCur s k) .x t))

/-- O17. The vector floating-point words give each element its result in the mode of the context, commit the vector
under the word's predication, and raise the flags of the enabled elements only (R145, R168, R172-R178). -/
def Obligations.VectorFloatResults : Prop :=
  (∀ p ∈ floatRows, ∀ t f d a b s x y k1 k2 k, Ready (p.1 t f d a b) .x t s →
    (curBank s s.core).getV a = .ok (x, k1) → k1.getV b = .ok (y, k2) →
    let n := fmtWidth f.toNat
    let res := tab (fun i => p.2 f.toNat (curBank s s.core) d i (elem x.toNat n i) (elem y.toNat n i)) 0 (4096 / n)
    let q := predOf (curBank s s.core) ((curBank s s.core).kxOf .x)
    (k2.raiseFlags (enabledFlags q 0 res)).commit q n d (res.map Prod.fst) = .ok k →
    exec (p.1 t f d a b) s = .next (passed (putCur s k) .x t)) ∧
  (∀ p ∈ floatOneRows, ∀ t d a s x k1 k, Ready (p.1 t d a) .x t s → (curBank s s.core).getV a = .ok (x, k1) →
    let res := tab (fun i => p.2 (curBank s s.core) d i (elem x.toNat 32 i)) 0 128
    let q := predOf (curBank s s.core) ((curBank s s.core).kxOf .x)
    (k1.raiseFlags (enabledFlags q 0 res)).commit q 32 d (res.map Prod.fst) = .ok k →
    exec (p.1 t d a) s = .next (passed (putCur s k) .x t)) ∧
  (∀ t f d a b s x y k1 k2, Ready (.xVfcmp t f d a b) .x t s → (curBank s s.core).getV a = .ok (x, k1) →
    k1.getV b = .ok (y, k2) →
    let n := fmtWidth f.toNat
    let res := List.zipWith (fCompare f.toNat (condOf (curBank s s.core))) (lanesOf x n) (lanesOf y n)
    exec (.xVfcmp t f d a b) s = .next (passed (putCur s ((k2.raiseFlags (res.foldl (fun m r => m ||| r.2) 0)).wk d.toNat
      (BitVec.ofNat 1024 (pack 1 (res.map fun r => b2n r.1))))) .x t))

/-- O18. VFCVT converts the elements that fit in both formats and packs them from element 0 on; VQSCALE gives the two
block scales and the superscale, VQPACK the codes of 128 elements, VQUNPK their values (R180-R186). -/
def Obligations.ConversionResults : Prop :=
  (∀ t d a s x k1 k p, Ready (.xVfcvt t d a) .x t s → (curBank s s.core).kxOf .x = some p →
    (curBank s s.core).getV a = .ok (x, k1) →
    let f := p.toNat % 16
    let g := p.toNat / 16 % 16
    let res := tab (fun i => convert f g ((curBank s s.core).convMode p i) (elem x.toNat (fmtWidth f) i)) 0
      (4096 / max (fmtWidth f) (fmtWidth g))
    (k1.raiseFlags (res.foldl (fun m r => m ||| r.2) 0)).putV d
      (BitVec.ofNat 4096 (pack (fmtWidth g) (res.map Prod.fst))) = .ok k →
    exec (.xVfcvt t d a) s = .next (passed (putCur s k) .x t)) ∧
  (∀ t d a b s x y k1 k2 k, Ready (.xVqscale t d a b) .x t s → (curBank s s.core).getV a = .ok (x, k1) →
    k1.getV b = .ok (y, k2) →
    k2.putV d (BitVec.ofNat 4096 (pack 32 [blockScale (elem y.toNat 32 0) (nqBlock x 0),
      blockScale (elem y.toNat 32 0) (nqBlock x 1),
      if (decodeF 0 (elem y.toNat 32 0)).isNan then canonNan 0 else elem y.toNat 32 0])) = .ok k →
    exec (.xVqscale t d a b) s = .next (passed (putCur s k) .x t)) ∧
  (∀ t d a b s x y k1 k2 k, Ready (.xVqpack t d a b) .x t s → (curBank s s.core).getV a = .ok (x, k1) →
    k1.getV b = .ok (y, k2) →
    let r0 := packBlock (elem y.toNat 32 0 % 2 ^ 16) (elem y.toNat 32 2) (nqBlock x 0)
    let r1 := packBlock (elem y.toNat 32 1 % 2 ^ 16) (elem y.toNat 32 2) (nqBlock x 1)
    (k2.raiseFlags (r0.2 ||| r1.2)).putV d (BitVec.ofNat 4096 (pack 4 (r0.1 ++ r1.1))) = .ok k →
    exec (.xVqpack t d a b) s = .next (passed (putCur s k) .x t)) ∧
  (∀ t d a b s x y k1 k2 k, Ready (.xVqunpk t d a b) .x t s → (curBank s s.core).getV a = .ok (x, k1) →
    k1.getV b = .ok (y, k2) →
    let res := tab (fun i => roundTo 0 .rne
      (nq4Value (elem x.toNat 4 i) (elem y.toNat 32 (i / 64) % 2 ^ 16) (elem y.toNat 32 2))) 0 128
    (k2.raiseFlags (res.foldl (fun m r => m ||| r.2) 0)).putV d (BitVec.ofNat 4096 (pack 32 (res.map Prod.fst))) = .ok k →
    exec (.xVqunpk t d a b) s = .next (passed (putCur s k) .x t))

/-! ### Numbers -/

namespace Sys2Proof.Claims

open Machine

/-- 2^e. -/
def pow2 (e : Int) : Rat := if 0 ≤ e then ((2 ^ e.toNat : Nat) : Rat) else 1 / ((2 ^ (-e).toNat : Nat) : Rat)

/-- The factor of a sign. -/
def signed (s : Bool) : Rat := if s then -1 else 1

/-- A magnitude. -/
def mag (x : Rat) : Rat := if x < 0 then -x else x

/-- The exact value of what Decode returns, where it is finite (R63). -/
def value : Val → Option Rat
  | .nan => none
  | .inf _ => none
  | .zero _ => some 0
  | .fin s n d e => some (signed s * ((n : Rat) / (d : Rat)) * pow2 e)

/-- The floating formats FP32, BF16, FP16, E4M3 and E5M2 with the bits of their exponent and of their fraction, the bias,
and the largest finite encoding (R59). -/
def floatFormats : List (Nat × Nat × Nat × Int × Nat) :=
  [(0, 8, 23, 127, 0x7F7FFFFF), (1, 8, 7, 127, 0x7F7F), (2, 5, 10, 15, 0x7BFF), (3, 4, 3, 7, 0x7E), (4, 5, 2, 15, 0x7B)]

end Sys2Proof.Claims

/-- O19. Decode gives a floating encoding the value of its sign, exponent and fraction, and tells zeros, infinities and
NaN apart; E4M3 has no infinity and one NaN magnitude (R60, R61, R63). S12 scales and NQ4 elements have the values of
R65 and R67. RoundTo. A value that is exact in the format comes back unchanged and raises nothing. Otherwise, short of
overflow, the result is a neighbour of the value: toward zero, down or up as the mode says, and in the two nearest modes
no encoding is nearer; NX tells that it differs, UF that the value lies below the smallest normal one as well. Overflow
raises OF and NX and gives the result of R71; infinities follow R72 (R69-R72). -/
def Obligations.NumberRules : Prop :=
  ((∀ p ∈ floatFormats, ∀ s e f : Nat, s < 2 → e < 2 ^ p.2.1 → f < 2 ^ p.2.2.1 →
     let b := (s * 2 ^ p.2.1 + e) * 2 ^ p.2.2.1 + f
     let top := 2 ^ p.2.1 - 1
     (e = 0 → f = 0 → decodeF p.1 b = .zero (s == 1)) ∧
     let q : Rat := (f : Rat) / ((2 ^ p.2.2.1 : Nat) : Rat)
     (e = 0 → f ≠ 0 → value (decodeF p.1 b) = some (signed (s == 1) * pow2 (1 - p.2.2.2.1) * q)) ∧
     (e ≠ 0 → e ≠ top ∨ (p.1 = 3 ∧ f ≠ 7) →
       value (decodeF p.1 b) = some (signed (s == 1) * pow2 ((e : Int) - p.2.2.2.1) * (1 + q))) ∧
     (e = top → p.1 ≠ 3 → decodeF p.1 b = if f = 0 then .inf (s == 1) else .nan) ∧
     (e = top → p.1 = 3 → f = 7 → decodeF p.1 b = .nan)) ∧
   (∀ c, c < 2 ^ 16 → (s12Value c = .nan ↔ 0xFFF ≤ c)) ∧
   (∀ c, c < 0xFFF → value (s12Value c) = some (if c / 256 = 0 then pow2 (-14) * ((c : Rat) / 256)
     else pow2 (((c / 256 : Nat) : Int) - 15) * (1 + ((c % 256 : Nat) : Rat) / 256))) ∧
   (∀ c sc x v w, c < 16 → value (s12Value sc) = some v → x ≤ 0x7F7FFFFF → value (decodeF 0 x) = some w →
     value (nq4Value c sc x) = some ((level c : Rat) / 256 * v * w) ∧ (c = 7 → nq4Value c sc x = .zero false)) ∧
   (∀ c sc x, s12Value sc = .nan ∨ (0x7F7FFFFF < x ∧ x < 2 ^ 32) → nq4Value c sc x = .nan)) ∧
  ((∀ p ∈ floatFormats, ∀ (m : RMode) b, b < 2 ^ fmtWidth p.1 → decodeF p.1 b ≠ .nan →
     (m.sat = false ∨ value (decodeF p.1 b) ≠ none) → roundTo p.1 m (decodeF p.1 b) = (b, 0)) ∧
   (∀ p ∈ floatFormats, ∀ (m : RMode) s n d e x, 0 < n → 0 < d → value (.fin s n d e) = some x →
     let r := roundTo p.1 m (.fin s n d e)
     (r.2 < 4 → ∃ y, value (decodeF p.1 r.1) = some y ∧ (decodeF p.1 r.1).sign = s ∧
       r.2 = (if y = x then 0 else if mag x < pow2 (1 - p.2.2.2.1) then 3 else 1) ∧
       (m.mode = 1 → mag y ≤ mag x) ∧ (m.mode = 2 → y ≤ x) ∧ (m.mode = 3 → x ≤ y) ∧
       ∀ c z, c < 2 ^ fmtWidth p.1 → value (decodeF p.1 c) = some z →
         ¬(x < z ∧ z < y) ∧ ¬(y < z ∧ z < x) ∧ (m.mode = 0 ∨ m.mode = 4 → mag (x - y) ≤ mag (x - z))) ∧
     (4 ≤ r.2 → r.2 = 5 ∧ (∀ z, value (decodeF p.1 p.2.2.2.2) = some z → z < mag x) ∧
       r.1 = (if m.sat then (if s then 2 ^ (fmtWidth p.1 - 1) else 0) + p.2.2.2.2
         else if p.1 = 3 then 0x7F
         else (if s then 2 ^ (fmtWidth p.1 - 1) else 0) + p.2.2.2.2 +
           (if m.mode = 1 ∨ (m.mode = 2 ∧ s = false) ∨ (m.mode = 3 ∧ s = true) then 0 else 1)))) ∧
   (∀ (m : RMode) s, (∀ f, f < 5 → f ≠ 3 → (roundTo f m (.inf s)).2 = 0 ∧
       decodeF f (roundTo f m (.inf s)).1 = if m.sat then decodeF f ((if s then 2 ^ (fmtWidth f - 1) else 0) + maxEnc f)
         else .inf s) ∧
     roundTo 3 m (.inf s) = if m.sat then ((if s then 0xFE else 0x7E), 0) else (0x7F, 16)) ∧
   (∀ p ∈ floatFormats, ∀ m : RMode, (roundTo p.1 m .nan).2 = 0 ∧ decodeF p.1 (roundTo p.1 m .nan).1 = .nan ∧
     (roundTo p.1 m .nan).1 < 2 ^ (fmtWidth p.1 - 1)) ∧
   srHash 1 0 = 0x514E28B7 ∧
   (roundTo 1 ⟨5, false, 1, 0, some 0⟩ (decodeF 0 0x3F808000)).1 = 0x3F80 ∧
   (roundTo 1 ⟨5, false, 1, 0, some 0⟩ (decodeF 0 0x3F80C000)).1 = 0x3F81 ∧
   (∀ (m : RMode), roundTo 3 { m with mode := 0, sat := false } (.ofInt 460) = (0x7E, 1) ∧
     roundTo 3 { m with mode := 0, sat := false } (.ofInt 470) = (0x7F, 5)))

/-- O20. IntTo and conversions of integers: a number is rounded by the mode and clamped to the target; clamping,
infinities and NaN raise NV alone, and NX tells that a number within the range changed. An integer clamps with SAT and
wraps without, and raises nothing (R73). Floating-point arithmetic in the special cases: a NaN operand gives the
canonical NaN and no flag; Inf - Inf and 0 x Inf give it with NV; a sum of zeros and a sum that cancels take the sign of
R167; otherwise the exact result is rounded once. FMIN and FMAX put -0 below +0 and NaN above all; a compare with NaN is
unordered; VFABS and VFNEG keep only the canonical NaN (R167, R170, R171, R174). The special inputs of the special
functions and of their refining steps, and worked values (R175-R178); the blocks of NQ4: which scales VQSCALE gives,
which codes VQPACK, and the group sum of a multiplication (R79, R184, R185). -/
def Obligations.ArithmeticCases : Prop :=
  ((∀ g ∈ [8, 9, 10, 11, 12, 13, 14, 15], ∀ m : RMode,
     let w := fmtWidth g
     let lo : Int := if fmtSigned g then -2 ^ (w - 1) else 0
     let hi : Int := if fmtSigned g then 2 ^ (w - 1) - 1 else 2 ^ w - 1
     roundTo g m .nan = (0, 16) ∧ (∀ s, roundTo g m (.inf s) = ((((if s then lo else hi) % 2 ^ w).toNat), 16)) ∧
     ∀ s n d e x, 0 < n → 0 < d → value (.fin s n d e) = some x →
       ∃ y : Int, roundTo g m (.fin s n d e) =
           (((max lo (min y hi)) % 2 ^ w).toNat, if y < lo ∨ hi < y then 16 else if x = y ∨ x < lo ∨ hi < x then 0 else 1) ∧
         (y = x.floor ∨ y = x.ceil) ∧ (m.mode = 1 → mag y ≤ mag x) ∧ (m.mode = 2 → y = x.floor) ∧ (m.mode = 3 → y = x.ceil) ∧
         (m.mode = 0 ∨ m.mode = 4 → mag (x - y) ≤ 1 / 2) ∧ (m.mode = 0 → mag (x - y) = 1 / 2 → y % 2 = 0) ∧
         (m.mode = 4 → mag (x - y) = 1 / 2 → mag x < mag y)) ∧
   (∀ f ∈ [8, 9, 10, 11, 12, 13, 14, 15], ∀ g ∈ [8, 9, 10, 11, 12, 13, 14, 15], ∀ (m : RMode) (b : Nat), b < 2 ^ fmtWidth f →
     let z : Int := if fmtSigned f ∧ 2 ^ (fmtWidth f - 1) ≤ b then (b : Int) - 2 ^ fmtWidth f else b
     let w := fmtWidth g
     let lo : Int := if fmtSigned g then -2 ^ (w - 1) else 0
     let hi : Int := if fmtSigned g then 2 ^ (w - 1) - 1 else 2 ^ w - 1
     convert f g m b = (((if m.sat then max lo (min z hi) else z) % 2 ^ w).toNat, 0)) ∧
   (∀ f g (m : RMode) b, (isFloat f = true ∨ isFloat g = true) →
     convert f g m b = roundTo g { m with src := some f } (decode_ f b))) ∧
  ((∀ op f (m : RMode) a b c, (decodeF f a = .nan ∨ decodeF f b = .nan ∨ (op = .fma ∧ decodeF f c = .nan)) →
     fArith op f m a b c = (canonNan f, 0)) ∧
   (∀ f (m : RMode) a b c s t, decodeF f a = .inf s → decodeF f b = .inf t →
     (s ≠ t → fArith .add f m a b c = (canonNan f, 16)) ∧ (s = t → fArith .sub f m a b c = (canonNan f, 16))) ∧
   (∀ f (m : RMode) a b c s t, (decodeF f a = .inf s ∧ decodeF f b = .zero t) ∨ (decodeF f a = .zero t ∧ decodeF f b = .inf s) →
     fArith .mul f m a b c = (canonNan f, 16) ∧ (decodeF f c ≠ .nan → fArith .fma f m a b c = (canonNan f, 16))) ∧
   (∀ f (m : RMode) a b c s t, f < 5 → decodeF f a = .zero s → decodeF f b = .zero t →
     fArith .add f m a b c = (if (if s = t then s else m.mode == 2) then 2 ^ (fmtWidth f - 1) else 0, 0) ∧
     fArith .mul f m a b c = (if s = t then 0 else 2 ^ (fmtWidth f - 1), 0)) ∧
   (∀ f (m : RMode) a c x, f < 5 → value (decodeF f a) = some x →
     fArith .sub f m a a c = (if m.mode = 2 then 2 ^ (fmtWidth f - 1) else 0, 0)) ∧
   (∀ f (m : RMode) a b c x y z, value (decodeF f a) = some x → value (decodeF f b) = some y → value (decodeF f c) = some z →
     let n : RMode := { m with sat := false, src := none }
     (x + y ≠ 0 → ∃ v, value v = some (x + y) ∧ fArith .add f m a b c = roundTo f n v) ∧
     (x - y ≠ 0 → ∃ v, value v = some (x - y) ∧ fArith .sub f m a b c = roundTo f n v) ∧
     (x * y ≠ 0 → ∃ v, value v = some (x * y) ∧ fArith .mul f m a b c = roundTo f n v) ∧
     (x * y + z ≠ 0 → ∃ v, value v = some (x * y + z) ∧ fArith .fma f m a b c = roundTo f n v)) ∧
   (∀ top f a b, (decodeF f a = .nan ∨ decodeF f b = .nan) → fMinMax top f a b = canonNan f) ∧
   (∀ f ∈ [0, 1, 2], ∀ top a b x y, a < 2 ^ fmtWidth f → b < 2 ^ fmtWidth f → value (decodeF f a) = some x →
     value (decodeF f b) = some y → (x < y → fMinMax top f a b = (if top then b else a)) ∧
       (y < x → fMinMax top f a b = (if top then a else b)) ∧
       (x = y → x ≠ 0 → fMinMax top f a b = a)) ∧
   (∀ f ∈ [0, 1, 2], let n := 2 ^ (fmtWidth f - 1)
     fMinMax false f n 0 = n ∧ fMinMax false f 0 n = n ∧ fMinMax true f n 0 = 0 ∧ fMinMax true f 0 n = 0) ∧
   (∀ f c a b, c < 8 → (decodeF f a = .nan ∨ decodeF f b = .nan) →
     fCompare f c a b = (c == 1 || c == 6, if 2 ≤ c ∧ c ≤ 5 then 16 else 0)) ∧
   (∀ f ∈ [0, 1, 2], ∀ a b x y, a < 2 ^ fmtWidth f → b < 2 ^ fmtWidth f → value (decodeF f a) = some x →
     value (decodeF f b) = some y → (fCompare f 0 a b = (decide (x = y), 0)) ∧ fCompare f 1 a b = (decide (x ≠ y), 0) ∧
       fCompare f 2 a b = (decide (x < y), 0) ∧ fCompare f 3 a b = (decide (x ≤ y), 0) ∧
       fCompare f 4 a b = (decide (y < x), 0) ∧ fCompare f 5 a b = (decide (y ≤ x), 0) ∧
       fCompare f 6 a b = (false, 0) ∧ fCompare f 7 a b = (true, 0)) ∧
   (∀ g a, decodeF 0 a = .nan → fSignOp g a = 0x7FC00000) ∧
   (∀ a x, a < 2 ^ 32 → value (decodeF 0 a) = some x → value (decodeF 0 (fSignOp true a)) = some (-x) ∧
     value (decodeF 0 (fSignOp false a)) = some (mag x))) ∧
  ((∀ b, decodeF 0 b = .nan → fRcp b = (0x7FC00000, 0) ∧ fRsq b = (0x7FC00000, 0) ∧ fExp2 b = (0x7FC00000, 0) ∧
     fLog2 b = (0x7FC00000, 0)) ∧
   (∀ s : Bool, let b := if s then 0x80000000 else 0
     fRcp b = (b + 0x7F800000, 8) ∧ fRsq b = (b + 0x7F800000, 8) ∧ fExp2 b = (0x3F800000, 0) ∧ fLog2 b = (0xFF800000, 8)) ∧
   (fRcp 0x7F800000 = (0, 0) ∧ fRcp 0xFF800000 = (0x80000000, 0) ∧ fRsq 0x7F800000 = (0, 0) ∧
     fRsq 0xFF800000 = (0x7FC00000, 16) ∧ fExp2 0x7F800000 = (0x7F800000, 0) ∧ fExp2 0xFF800000 = (0, 0) ∧
     fLog2 0x7F800000 = (0x7F800000, 0) ∧ fLog2 0xFF800000 = (0x7FC00000, 16)) ∧
   (∀ b x, value (decodeF 0 b) = some x → x < 0 → fRsq b = (0x7FC00000, 16) ∧ fLog2 b = (0x7FC00000, 16)) ∧
   (∀ b x, value (decodeF 0 b) = some x → (128 ≤ x → fExp2 b = (0x7F800000, 5)) ∧ (x ≤ -140 → fExp2 b = (0, 3))) ∧
   (∀ b x, b < 2 ^ 32 → value (decodeF 0 b) = some x → x ≠ 0 → (fRcp b).2 < 4 →
     mag x ≤ pow2 126 →
     ∃ y, value (decodeF 0 (fRcp b).1) = some y ∧ (fRcp b).1 % 2 ^ 10 = 0 ∧ mag (x * y - 1) ≤ pow2 (-14)) ∧
   fRsq 0x40800000 = (0x3F000000, 0) ∧ fRsq 0x40000000 = (0x3F350400, 1) ∧ fExp2 0x3F800000 = (0x40000000, 0) ∧
   fLog2 0x3F800000 = (0, 0) ∧ fStep false ⟨0, false, 0, 0, none⟩ 0x40400000 0x3EAAA800 = (0x3EAAAAAB, 1) ∧
   (∀ q (m : RMode) a d, decodeF 0 a = .nan ∨ decodeF 0 d = .nan → fStep q m a d = (0x7FC00000, 0)) ∧
   (∀ q (m : RMode) a d s t, (decodeF 0 d = .inf s ∧ decodeF 0 a = .zero t) ∨ (decodeF 0 d = .zero s ∧ decodeF 0 a = .inf t) →
     fStep q m a d = (d, 0)) ∧
   (∀ x xs, (0x7F7FFFFF < x ∨ ∃ v ∈ xs, decodeF 0 v = .nan) → blockScale x xs = 0xFFF) ∧
   (∀ x xs, x ≤ 0x7F7FFFFF → (∀ v ∈ xs, value (decodeF 0 v) = some 0 ∨ ∃ s, decodeF 0 v = .inf s) → blockScale x xs = 0) ∧
   (∀ xs v z, v ∈ xs → value (decodeF 0 v) = some z → z ≠ 0 → blockScale 0 xs = 0xFFF) ∧
   (∀ sc x xs, (s12Value sc = .nan ∨ 0x7F7FFFFF < x) → packBlock sc x xs = (List.replicate xs.length 7, 0)) ∧
   (∀ sc x xs v, s12Value sc ≠ .nan → x ≤ 0x7F7FFFFF → v ∈ xs → decodeF 0 v = .nan →
     packBlock sc x xs = (List.replicate xs.length 7, 16)) ∧
   blockScale 0x3F000000 [0x3F000000, 0xBDCCCCCD, 0x3D200000, 0xBE800000] = 0xF00 ∧
   blockScale 0x3F000000 [0x3E99999A] = 0xE34 ∧
   packBlock 0xF00 0x3F000000 [0x3F000000, 0xBDCCCCCD, 0x3D200000, 0xBE800000, 0] = ([15, 5, 8, 2, 7], 1) ∧
   (∀ p bs, (bs = .nan ∨ Val.nan ∈ p ∨ (Val.inf false ∈ p ∧ Val.inf true ∈ p)) → groupSum p bs = 0x7FC00000) ∧
   (∀ p bs s, bs ≠ .nan → Val.nan ∉ p → Val.inf s ∈ p → Val.inf (!s) ∉ p →
     groupSum p bs = if bs.isZero then 0x7FC00000 else if s then 0xFF800000 else 0x7F800000) ∧
   (∀ p bs, bs ≠ .nan → (∀ v ∈ p, v.isZero = true) → groupSum p bs = 0) ∧
   (groupSum [.fin false 1 1 30, .fin true 1 1 30, .fin false 1 1 0, .fin false 1 1 (-40)] (.fin false 1 1 0) = 0x3F800000 ∧
     accAdd 0 0x3F800000 = 0x3F800000))

/-! ### Shared words -/

/-- O21. B and CALL go to the branch word's own offset plus 4 OFF, whether or not a KX precedes it; CALL pushes the
offset of the word after the branch, RET pops it. A target outside the text faults ILLEGAL/VALUE, a 17th CALL and a RET
on an empty stack ILLEGAL/STACK (R113, R131, R134). -/
def Obligations.BranchesAndCalls : Prop :=
  (∀ f s, Ready (.b f) s.engine 0 s →
    let b := curBank s s.core
    let t := b.wordPc s.engine + 4 * BitVec.ofInt 64 (widened f.toNat 18 (b.kxOf s.engine))
    (t.toNat < b.textEnd → exec (.b f) s = .next (jumped s s.engine 0 t)) ∧
    (b.textEnd ≤ t.toNat → exec (.b f) s = finish s s.engine (.b f) badValue)) ∧
  (∀ f s, Ready (.call f) s.engine 0 s →
    let b := curBank s s.core
    let t := b.wordPc s.engine + 4 * BitVec.ofInt 64 (widened f.toNat 18 (b.kxOf s.engine))
    let l := b.issue.rstk.get s.engine
    (t.toNat < b.textEnd → l.length < 16 →
      exec (.call f) s = .next (jumped (modCur s s.core fun b => b.setStack s.engine ((b.wordPc s.engine + 4) :: l)) s.engine 0 t)) ∧
    (b.textEnd ≤ t.toNat → exec (.call f) s = finish s s.engine (.call f) badValue) ∧
    (t.toNat < b.textEnd → 16 ≤ l.length → exec (.call f) s = finish s s.engine (.call f) badStack)) ∧
  (∀ s, Ready .ret s.engine 0 s →
    (∀ t l, (curBank s s.core).issue.rstk.get s.engine = t :: l →
      exec .ret s = .next (jumped (modCur s s.core fun b => b.setStack s.engine l) s.engine 0 t)) ∧
    ((curBank s s.core).issue.rstk.get s.engine = [] → exec .ret s = finish s s.engine .ret badStack))

/-- O22. A BC on its evaluating engine tests the register, sends the outcome to both other engines and goes to the
target where the condition holds; on another engine it takes the oldest outcome. BI sends and takes the word offset. A
target outside the text, of a BC that is taken or of a BI, faults ILLEGAL/VALUE on the evaluating engine and sends
nothing (R112, R131, R132, R133). The conditions of BC compare the register with zero as a signed number (R47, R132). -/
def Obligations.OutcomeBranches : Prop :=
  ((∀ g c r f s v ev, Ready (.bc g c r f) s.engine 0 s → engineOf g = some ev → ev = s.engine →
     (curBank s s.core).oqRoom ev = true → (curBank s s.core).useReg ev r.toNat = .ok v →
     let b := curBank s s.core
     let t := b.wordPc ev + 4 * BitVec.ofInt 64 (widened f.toNat 7 (b.kxOf ev))
     (branchCond c v = true → t.toNat < b.textEnd →
       exec (.bc g c r f) s = .next (jumped (putCur s (b.pushOutcome ev 1)) ev 0 t)) ∧
     (branchCond c v = true → b.textEnd ≤ t.toNat → exec (.bc g c r f) s = finish s ev (.bc g c r f) badValue) ∧
     (branchCond c v = false → exec (.bc g c r f) s = .next (passed (putCur s (b.pushOutcome ev 0)) ev 0))) ∧
   (∀ g c r f s v l ev, Ready (.bc g c r f) s.engine 0 s → engineOf g = some ev → ev ≠ s.engine →
     (curBank s s.core).oq (oqKey ev s.engine) = v :: l →
     let b := curBank s s.core
     let t := b.wordPc s.engine + 4 * BitVec.ofInt 64 (widened f.toNat 7 (b.kxOf s.engine))
     exec (.bc g c r f) s = .next (if v = 0 then passed (putCur s (b.setOq (oqKey ev s.engine) l)) s.engine 0
       else jumped (putCur s (b.setOq (oqKey ev s.engine) l)) s.engine 0 t)) ∧
   (∀ g r s v ev, Ready (.bi g r) s.engine 0 s → engineOf g = some ev → ev = s.engine →
     (curBank s s.core).oqRoom ev = true → (curBank s s.core).useReg ev r.toNat = .ok v →
     (4 * v.toNat < (curBank s s.core).textEnd →
       exec (.bi g r) s = .next (jumped (putCur s ((curBank s s.core).pushOutcome ev (v.setWidth 32))) ev 0
         (BitVec.ofNat 64 (4 * (v.toNat % 2 ^ 32))))) ∧
     ((curBank s s.core).textEnd ≤ 4 * v.toNat → exec (.bi g r) s = finish s ev (.bi g r) badValue)) ∧
   (∀ g r s v l ev, Ready (.bi g r) s.engine 0 s → engineOf g = some ev → ev ≠ s.engine →
     (curBank s s.core).oq (oqKey ev s.engine) = v :: l →
     exec (.bi g r) s = .next (jumped (putCur s ((curBank s s.core).setOq (oqKey ev s.engine) l)) s.engine 0
       (BitVec.ofNat 64 (4 * v.toNat))))) ∧
  (∀ v : Word, branchCond 0 v = decide (v.toInt = 0) ∧ branchCond 1 v = decide (v.toInt ≠ 0) ∧
     branchCond 2 v = decide (v.toInt < 0) ∧ branchCond 3 v = decide (0 ≤ v.toInt) ∧
     branchCond 4 v = decide (0 < v.toInt) ∧ branchCond 5 v = decide (v.toInt ≤ 0))

/-- O23. LOOP with a trip count t > 0 makes its level active at LC = 0 and passes; ENDL counts, and goes back to the
body while LC < t, else the level is over and the engine passes with LC = t. An engine that does not evaluate the trip
count waits for the outcome. A level that does not nest faults ILLEGAL/NEST (R28, R111, R114, R135). -/
def Obligations.HardwareLoops : Prop :=
  (∀ l s v t b1, Ready (.loop l) s.engine 0 s → levelAt (curBank s s.core) l.toNat = some v → v.kind = .temporal →
    nestAllows (curBank s s.core) s.engine v = true → tripCount (curBank s s.core) s.engine v = .ok (t, b1) →
    let next := (curBank s s.core).wordPc s.engine + 4
    (t ≠ 0 → exec (.loop l) s = .next (passed (putCur s (b1.putLoop s.engine l.toNat ⟨0, t, next, true⟩)) s.engine 0)) ∧
    (∀ p, t = 0 → findEndl s l (((curBank s s.core).textEnd - next.toNat) / 4) next = .ok (some p) →
      exec (.loop l) s = .next (jumped (putCur s (b1.putLoop s.engine l.toNat
        { loopOf b1.issue s.engine l.toNat with lc := 0 })) s.engine 0 (p + 4))) ∧
    (t = 0 → findEndl s l (((curBank s s.core).textEnd - next.toNat) / 4) next = .ok none →
      exec (.loop l) s = finish s s.engine (.loop l) badNest)) ∧
  (∀ b e v n, v.trip = .fixed n → tripCount b e v = .ok (BitVec.ofNat 32 n, b)) ∧
  (∀ b e v r w, v.trip = .reg e r → b.oqRoom e = true → b.useReg e r.toNat = .ok w →
    tripCount b e v = .ok (w.setWidth 32, b.pushOutcome e (w.setWidth 32))) ∧
  (∀ l s v, Ready (.loop l) s.engine 0 s → levelAt (curBank s s.core) l.toNat = some v →
    loopWaits (curBank s s.core) s.engine v = true → exec (.loop l) s = .next (stay s s.engine)) ∧
  (∀ b e v, loopWaits b e v = true ↔ ∃ ev r, v.trip = .reg ev r ∧ ev ≠ e ∧ b.oq (oqKey ev e) = []) ∧
  (∀ l s v, Ready (.loop l) s.engine 0 s → levelAt (curBank s s.core) l.toNat = some v →
    loopWaits (curBank s s.core) s.engine v = false → (v.kind ≠ .temporal ∨ nestAllows (curBank s s.core) s.engine v = false) →
    exec (.loop l) s = finish s s.engine (.loop l) badNest) ∧
  (∀ l s, Ready (.loop l) s.engine 0 s → levelAt (curBank s s.core) l.toNat = none →
    exec (.loop l) s = finish s s.engine (.loop l) badNest) ∧
  (∀ l s u, Ready (.endl l) s.engine 0 s → levelAt (curBank s s.core) l.toNat = some u →
    (loopOf (curBank s s.core).issue s.engine l.toNat).active = true →
    innermost (curBank s s.core) s.engine = some u.pos.toNat →
    let v := loopOf (curBank s s.core).issue s.engine l.toNat
    exec (.endl l) s = .next
      (if (v.lc + 1).toNat < v.trip.toNat then
        jumped (modCur s s.core fun b => b.putLoop s.engine l.toNat { v with lc := v.lc + 1 }) s.engine 0 v.body
      else passed (modCur s s.core fun b => b.putLoop s.engine l.toNat { v with lc := v.lc + 1, active := false }) s.engine 0)) ∧
  (∀ l s u, Ready (.endl l) s.engine 0 s → levelAt (curBank s s.core) l.toNat = some u →
    ((loopOf (curBank s s.core).issue s.engine l.toNat).active = false ∨
      innermost (curBank s s.core) s.engine ≠ some u.pos.toNat) →
    exec (.endl l) s = finish s s.engine (.endl l) badNest)

/-- O24. A joining word waits until all three engines stand at it (R111). Then EXIT stops all fetching and drops loops
and return stacks (R137); TRAP takes the fault TRAPPED with its code, to resume after the word (R138); RESUME restores
the issue state from the trap shadow and restarts each engine at its RPC, or outside a handler faults ILLEGAL/VALUE
(R127, R139); the TRAP word is not counted as passed (log 42); HALT stops the context past the word, and the other bank
runs if it is ready (R140, R351). RESUME with SKIP makes the engine of the word for whose fault the handler ran pass it
without effect where its resume offset is still that word (log 42), and all three if the word is shared; SKIP has no
effect after an asynchronous fault or TRAPPED. The record is the one the handler was entered for, though a service fault
inside it has overwritten FAULT (R127, R350). An engine that passes its word so, whichever word it is, makes the word's
tokens and counts it, and takes no other effect. A word that an earlier RESUME had still to skip when another handler
began is passed as well (log 30). ERET in bank 1 while bank 0 waits on a service fault passes the word and makes bank 0
run; where bank 0 has been stopped meanwhile, its fault counts as answered; elsewhere ERET faults ILLEGAL/VALUE. In an
unprivileged context HALT and ERET fault PRIVILEGE (R140, R353). -/
def Obligations.JoiningWords : Prop :=
  ((∀ i s, (i = .exit ∨ i = .resume ∨ i = .halt ∨ i = .eret ∨ (∃ c, i = .trap c) ∨ ∃ c, i = .round c) →
     Ready i s.engine 0 s → (curBank s s.core).joined = false → exec i s = .next (stay s s.engine)) ∧
   (∀ s, Ready .exit s.engine 0 s → (curBank s s.core).joined = true →
     exec .exit s = .next (modCur s s.core fun b =>
       { b with exiting := true, issue := { b.issue with loops := Three.all [], rstk := Three.all [] } })) ∧
   (∀ c s, Ready (.trap c) s.engine 0 s → (curBank s s.core).joined = true →
     let pc := (curBank s s.core).pcOf s.engine
     exec (.trap c) s = .next (raiseFault s s.core ⟨0x03, 3, pc, 0, 0, 0, BitVec.ofNat 64 (c.toNat * 2 ^ 16)⟩ (some (pc + 4)))) ∧
   (∀ s, Ready .resume s.engine 0 s → (curBank s s.core).joined = true → (curBank s s.core).trapActive = true →
     ∃ k : Bank, exec .resume s = .next (putCur s k) ∧ k.issue = (curBank s s.core).shadow ∧ k.shadow = Issue.zero ∧
       k.trapActive = false ∧ k.pc = (curBank s s.core).rpc ∧ k.skip = resumeSkips (curBank s s.core) ∧ k.a = (curBank s s.core).a ∧ k.s = (curBank s s.core).s ∧
       k.m = (curBank s s.core).m ∧ k.v = (curBank s s.core).v ∧ k.k = (curBank s s.core).k ∧
       k.evq = (curBank s s.core).evq ∧ k.fault = (curBank s s.core).fault) ∧
   (∀ s, Ready .resume s.engine 0 s → (curBank s s.core).joined = true → (curBank s s.core).trapActive = false →
     exec .resume s = finish s s.engine .resume badValue) ∧
   (∀ s, Ready .halt s.engine 0 s → (curBank s s.core).joined = true →
     exec .halt s = .next (switchBank (modCur s s.core fun b => { b.passAll with st := .halted }) s.core))) ∧
  ((∀ b e, (skipEngines b).get e = true ↔
     let f := b.trapRec.getD b.fault
     b.trapSkip = true ∧ f.info.getLsbD 63 = false ∧ f.code ≠ 0x03 ∧ b.rpc.get e = f.pc ∧
     (f.engine = 3 ∨ f.engine = e.tag)) ∧
   (∀ b e, (resumeSkips b).get e = true ↔ (skipEngines b).get e = true ∨ b.owed.get e = some (b.rpc.get e)) ∧
   ∀ i w e s, encode i = some w → isKx w = false → (tagOf w = e.tag ∨ (tagOf w = 3 ∧ e = s.engine)) →
     canIssue (getCore s s.core) (curBank s s.core) e = true → (curBank s s.core).skip.get e = true →
     (curBank s s.core).slipBlocks e ((curBank s s.core).pairLen e) = false → (curBank s s.core).tokReady e (dep w) = true →
     exec i s = .next (passed s e (dep w))) ∧
  ((∀ s, Ready .eret s.engine 0 s → (curBank s s.core).joined = true → (getCore s s.core).active = true →
     (getCore s s.core).bank0.st = .serviceWait → swf s.cores 0 Core.zero = true →
     ∃ u, exec .eret s = .next u ∧ (getCore u s.core).active = false ∧ (getCore u s.core).bank0.st = .running ∧
       (getCore u s.core).bank1.st = .ready ∧
       (getCore u s.core).bank1.pc = (getCore s s.core).bank1.passAll.pc) ∧
   (∀ s, Ready .eret s.engine 0 s → (curBank s s.core).joined = true → (getCore s s.core).active = true →
     (getCore s s.core).bank0.st = .stopped → (getCore s s.core).bank0.svcPend = true →
     ∃ u, exec .eret s = .next u ∧ (swf s.cores 0 Core.zero = true → (getCore u s.core).active = true ∧
       (getCore u s.core).bank0 = { (getCore s s.core).bank0 with svcPend := false, svcSeen := true } ∧
       (getCore u s.core).bank1.pc = (getCore s s.core).bank1.passAll.pc)) ∧
   (∀ s, Ready .eret s.engine 0 s → (curBank s s.core).joined = true →
     ((getCore s s.core).active = false ∨ ((getCore s s.core).bank0.st ≠ .serviceWait ∧
       ((getCore s s.core).bank0.st ≠ .stopped ∨ (getCore s s.core).bank0.svcPend = false))) →
     exec .eret s = finish s s.engine .eret badValue) ∧
   (∀ i ∈ [Instr.halt, .eret], ∀ s, canIssue (getCore s s.core) (curBank s s.core) s.engine = true →
     (curBank s s.core).skip.get s.engine = false → (curBank s s.core).kxOf s.engine = none →
     (curBank s s.core).priv = false →
     exec i s = finish s s.engine i (plainFault .privilege 0)))

/-! ### Faults -/

/-- O25. Taking a program fault where the kernel has a handler and none is active: the record is written, the resume
offsets are the stop points with the faulting word for its engine (all three for a shared word), the issue state moves
to the trap shadow and is cleared, SKIP is 0 and ACTIVE 1, and the three PCs stand at 4 TRAPOFF; registers, EVQ, memory
and every other core stay (R126). -/
def Obligations.TrapHandlerEntry : Prop :=
  ∀ s c fr all k, swf s.cores 0 Core.zero = true → isService fr.code = false → (curBank s c).kern = some k →
    k.thv = true → (curBank s c).trapActive = false →
    let b := curBank s c
    let n := curBank (takeFault s c fr all) c
    n.fault = fr ∧ n.trapRec = some fr ∧ n.shadow = b.issue ∧ n.issue = Issue.zero ∧ n.trapSkip = false ∧ n.trapActive = true ∧
    n.pc = Three.all (BitVec.ofNat 64 (4 * k.trapOff)) ∧
    (∀ p, all = some p → n.rpc = Three.all p) ∧
    (∀ e, all = none → fr.engine = e.tag → n.rpc.get e = fr.pc ∧ ∀ f, f ≠ e → n.rpc.get f = b.pc.get f) ∧
    n.a = b.a ∧ n.s = b.s ∧ n.m = b.m ∧ n.v = b.v ∧ n.k = b.k ∧ n.evq = b.evq ∧ n.st = b.st ∧
    (takeFault s c fr all).mem = s.mem ∧ ∀ i, i ≠ c → getCore (takeFault s c fr all) i = getCore s i

/-- O26. Taking a service fault: the record is written, the context waits, a SERVICE message is posted, and the other
bank runs if it is ready (R349, R351, R387). -/
def Obligations.ServiceFaultTaken : Prop :=
  ∀ s c fr all, swf s.cores 0 Core.zero = true → isService fr.code = true →
    let a := (getCore s c).active
    let u := takeFault s c fr all
    (getBank u c a).fault = fr ∧ (getBank u c a).svcRec = some fr ∧ (getBank u c a).st = .serviceWait ∧ u.mem = s.mem ∧
    ((getBank s c (!a)).st = .ready → (getCore u c).active = !a ∧ (getBank u c (!a)).st = .running) ∧
    ((getBank s c (!a)).st ≠ .ready → (getCore u c).active = a) ∧
    ∃ msg, u.mbox = s.mbox.post true msg ∧ msg.extractLsb' 0 8 = 1

/-- O27. A word that fails the checks of R55 at decode raises ILLEGAL with its subcode and field, for its engine, or for
all three if it is shared; past the end of the text there is no word and the engine faults at that offset (R110). A
fault waits for the issued words of the core, and is taken at once where there are none (R55, R123). That the first
engine to reach an outcome-bearing word raises its fault is the model's choice (log 42). The code of every fault of
R122, and that GAP, PLANE_ABSENT and DATA_POISON alone are service faults. -/
def Obligations.IllegalWordFaults : Prop :=
  ((∀ sub fbit s w, canIssue (getCore s s.core) (curBank s s.core) s.engine = true →
     (curBank s s.core).skip.get s.engine = false →
     ((curBank s s.core).pcOf s.engine).toNat < (curBank s s.core).textEnd →
     fetchWord s ((curBank s s.core).pcOf s.engine) = .ok w →
     let pc := (curBank s s.core).pcOf s.engine
     let info := BitVec.ofNat 64 (sub.toNat + fbit.toNat * 2 ^ 8)
     (tagOf w ≠ 3 → exec (.reservedOpcode sub fbit) s =
       .next (raiseFault s s.core ⟨0x01, s.engine.tag, pc, 0, 0, 0, info⟩ none)) ∧
     (tagOf w = 3 → exec (.reservedOpcode sub fbit) s = .next (raiseFault s s.core ⟨0x01, 3, pc, 0, 0, 0, info⟩ (some pc)))) ∧
   (∀ s, canIssue (getCore s s.core) (curBank s s.core) s.engine = true → (curBank s s.core).skip.get s.engine = false →
     (curBank s s.core).textEnd ≤ ((curBank s s.core).pcOf s.engine).toNat →
     exec (.reservedOpcode 0x09 0) s = .next (raiseFault s s.core
       ⟨0x01, s.engine.tag, (curBank s s.core).pcOf s.engine, 0, 0, 0, 0x09⟩ none)) ∧
   (∀ s c fr all, (curBank s c).inflight = [] → raiseFault s c fr all = takeFault s c fr all) ∧
   (∀ s c fr all, (curBank s c).inflight ≠ [] → swf s.cores 0 Core.zero = true →
     (curBank (raiseFault s c fr all) c).pend = some ⟨fr, all, false⟩ ∧ (raiseFault s c fr all).mem = s.mem)) ∧
  (FaultCode.illegal.num = 0x01 ∧ FaultCode.privilege.num = 0x02 ∧ FaultCode.trapped.num = 0x03 ∧
   FaultCode.space.num = 0x10 ∧ FaultCode.bounds.num = 0x11 ∧ FaultCode.gap.num = 0x12 ∧
   FaultCode.planeAbsent.num = 0x13 ∧ FaultCode.permission.num = 0x14 ∧ FaultCode.dataPoison.num = 0x20 ∧
   FaultCode.expansion.num = 0x21 ∧ FaultCode.tempoMiss.num = 0x30 ∧ FaultCode.link.num = 0x40 ∧
   FaultCode.ownerMismatch.num = 0x41 ∧
   ∀ f : FaultCode, isService f.num = true ↔ f = .gap ∨ f = .planeAbsent ∨ f = .dataPoison)

/-! ### The M engine and the array -/

namespace Sys2Proof.Claims

open Machine

/-- `s` with the record of command `i` behind those of its bank in the core's queue: its word and KX, and the slot, shape,
formats, mode and seed of the context (R264, R265, R345); a member without the hand stands in the list (R255). -/
def queued (i : Instr) (s : State) : State :=
  joinList (modCore { s with seq := s.seq + 1 } s.core fun k =>
    if k.active then { k with cmds1 := k.cmds1 ++ [(curBank s s.core).record s.seq i] }
    else { k with cmds := k.cmds ++ [(curBank s s.core).record s.seq i] }) s.core

/-- The checks of a word that names accumulator `acc` (R274, R275): the core is a member and holds that accumulator. -/
def MayUse (b : Bank) (acc : BitVec 3) : Prop := b.mat.member = true ∧ acc.toNat < b.mat.nacc.toNat

/-- The kernel has the current format slot (R30), and it is `f`. -/
def Slot (b : Bank) (f : FmtSlot) : Prop := b.slots[b.mat.slot.toNat]? = some f

end Sys2Proof.Claims

/-- O28. The scalar words of M: MADD wraps, MPOP takes the head of CQ, MLC reads a loop counter, TLOOK sets the three
lookaheads and TSTAT reads the tempo CSR that SEL selects, 0 BEAT, 1 MISS, 2 POLICY and 3 to 5 the lookaheads (R268,
R289, R294, R295). MSHAPE takes sizes up to 128 and faults ILLEGAL/VALUE above; MFMT and MFMTL make a slot of the
kernel's table current and fault ILLEGAL/SLOT outside it (R30, R271, R272). -/
def Obligations.MatrixScalarWords : Prop :=
  ((∀ t d a b s, Ready (.mMadd t d a b) .m t s →
     exec (.mMadd t d a b) s = .next (passed (putCur s ((curBank s s.core).wm d.toNat
       (BitVec.ofNat 64 (((curBank s s.core).rm a.toNat).toNat + ((curBank s s.core).rm b.toNat).toNat)))) .m t)) ∧
   (∀ t d s x l, Ready (.mMpop t d) .m t s → (curBank s s.core).queue 6 = x :: l → x.ready = true →
     exec (.mMpop t d) s = .next (passed (putCur s (((curBank s s.core).setQueue 6 l).wm d.toNat
       (x.data.setWidth 64))) .m t)) ∧
   (∀ t d l s, Ready (.mMlc t d l) .m t s →
     exec (.mMlc t d l) s = .next (passed (putCur s ((curBank s s.core).wm d.toNat
       ((loopOf (curBank s s.core).issue .m l.toNat).lc.setWidth 64))) .m t)) ∧
   (∀ t d a b s, Ready (.mTlook t d a b) .m t s → ((curBank s s.core).rm d.toNat).toNat < 256 →
     ((curBank s s.core).rm a.toNat).toNat < 256 → ((curBank s s.core).rm b.toNat).toNat < 256 →
     exec (.mTlook t d a b) s = .next (passed (putCur s { curBank s s.core with
       tempo := { (curBank s s.core).tempo with
         looka := ((curBank s s.core).rm d.toNat).setWidth 8
         lookb := ((curBank s s.core).rm a.toNat).setWidth 8
         lookd := ((curBank s s.core).rm b.toNat).setWidth 8 } }) .m t)) ∧
   (∀ t d n s, Ready (.mTstat t d n) .m t s →
     exec (.mTstat t d n) s = .next (passed (putCur s ((curBank s s.core).wm d.toNat
       (csrValue s s.core (getCore s s.core).active (curBank s s.core).issue (0xB0 + n.toNat)))) .m t)) ∧
   (∀ t d n s v, Ready (.mTstat t d n) .m t s →
     let x := (curBank s s.core).tempo
     [x.beat.toNat, x.miss.toNat, x.policy.toNat + x.maxMiss.toNat * 2 ^ 8 + x.consec.toNat * 2 ^ 16, x.looka.toNat,
       x.lookb.toNat, x.lookd.toNat][n.toNat]? = some v →
     exec (.mTstat t d n) s = .next (passed (putCur s ((curBank s s.core).wm d.toNat (BitVec.ofNat 64 v))) .m t))) ∧
  ((∀ t d a b s, Ready (.mMshape t d a b) .m t s →
     let k := curBank s s.core
     ((k.rm d.toNat).toNat ≤ 128 → (k.rm a.toNat).toNat ≤ 128 → (k.rm b.toNat).toNat ≤ 128 →
       exec (.mMshape t d a b) s = .next (passed (putCur s { k with mat := { k.mat with
         shapeM := (k.rm d.toNat).setWidth 8, shapeN := (k.rm a.toNat).setWidth 8, shapeK := (k.rm b.toNat).setWidth 8 } }) .m t)) ∧
     (128 < (k.rm d.toNat).toNat ∨ 128 < (k.rm a.toNat).toNat ∨ 128 < (k.rm b.toNat).toNat →
       exec (.mMshape t d a b) s = finish s .m (.mMshape t d a b) badValue)) ∧
   (∀ t n s, Ready (.mMfmt t n) .m t s →
     (n.toNat < (curBank s s.core).slots.length → exec (.mMfmt t n) s = .next (passed (putCur s { curBank s s.core with
       mat := { (curBank s s.core).mat with slot := n } }) .m t)) ∧
     ((curBank s s.core).slots.length ≤ n.toNat → exec (.mMfmt t n) s = finish s .m (.mMfmt t n) badSlot)) ∧
   (∀ t l s k v, Ready (.mMfmtl t l) .m t s → (curBank s s.core).kern = some k → k.levels[l.toNat]? = some v →
     let n := v.fbase.toNat + (loopOf (curBank s s.core).issue .m l.toNat).lc.toNat
     (v.fmtl = true → n < k.fmts.length → exec (.mMfmtl t l) s = .next (passed (putCur s { curBank s s.core with
       mat := { (curBank s s.core).mat with slot := BitVec.ofNat 8 n } }) .m t)) ∧
     ((v.fmtl = false ∨ k.fmts.length ≤ n) → exec (.mMfmtl t l) s = finish s .m (.mMfmtl t l) badSlot)))

/-- O29. The words that queue a matrix command pass once their checks hold and the queue has room: MRMODE also sets the
mode and seed, MMULK makes B the held tile of the context. A core that is no member, or names an accumulator it has not,
faults ILLEGAL/VALUE (R264, R265, R273-R278, R325). -/
def Obligations.CommandWords : Prop :=
  (∀ t m r s, Ready (.mMrmode t m r) .m t s → (getCore s s.core).queued < 16 →
    exec (.mMrmode t m r) s = .next (passed (modCur (queued (.mMrmode t m r) s) s.core fun b =>
      { b with mat := { b.mat with mode := m, seed := (b.rm r.toNat).setWidth 32 } }) .m t)) ∧
  (∀ t s, Ready (.mMfence t) .m t s → (getCore s s.core).queued < 16 →
    exec (.mMfence t) s = .next (passed (queued (.mMfence t) s) .m t)) ∧
  (∀ t c s, Ready (.mMclr t c) .m t s → (getCore s s.core).queued < 16 → MayUse (curBank s s.core) c →
    exec (.mMclr t c) s = .next (passed (queued (.mMclr t c) s) .m t)) ∧
  (∀ t c q s f, Ready (.mMdrain t c q) .m t s → (getCore s s.core).queued < 16 → MayUse (curBank s s.core) c →
    Slot (curBank s s.core) f → linkBound s q.toNat = true →
    exec (.mMdrain t c q) s = .next (passed (queued (.mMdrain t c q) s) .m t)) ∧
  (∀ t c q s, Ready (.mMldacc t c q) .m t s → (getCore s s.core).queued < 16 → MayUse (curBank s s.core) c →
    linkBound s q.toNat = true →
    exec (.mMldacc t c q) s = .next (passed (queued (.mMldacc t c q) s) .m t)) ∧
  (∀ t c qa qb k s f, Ready (.mMmul t c qa qb k) .m t s → (getCore s s.core).queued < 16 →
    MayUse (curBank s s.core) c → Slot (curBank s s.core) f →
    (qb = 127 → (curBank s s.core).mat.held = true ∧ (curBank s s.core).mat.heldFmt = f.fb) →
    mulLinks s qa.toNat qb.toNat = .ok () →
    exec (.mMmul t c qa qb k) s = .next (passed (queued (.mMmul t c qa qb k) s) .m t)) ∧
  (∀ t c qa qb k s f, Ready (.mMmulk t c qa qb k) .m t s → (getCore s s.core).queued < 16 →
    MayUse (curBank s s.core) c → Slot (curBank s s.core) f →
    (qb = 127 → (curBank s s.core).mat.held = true ∧ (curBank s s.core).mat.heldFmt = f.fb) →
    mulLinks s qa.toNat qb.toNat = .ok () →
    exec (.mMmulk t c qa qb k) s = .next (passed (modCur (queued (.mMmulk t c qa qb k) s) s.core fun b =>
      { b with mat := { b.mat with held := true, heldFmt := f.fb } }) .m t)) ∧
  (∀ t c s, Ready (.mMclr t c) .m t s → ¬MayUse (curBank s s.core) c →
    exec (.mMclr t c) s = finish s .m (.mMclr t c) badValue) ∧
  (∀ t c q s, ¬MayUse (curBank s s.core) c →
    (Ready (.mMdrain t c q) .m t s → exec (.mMdrain t c q) s = finish s .m (.mMdrain t c q) badValue) ∧
    (Ready (.mMldacc t c q) .m t s → exec (.mMldacc t c q) s = finish s .m (.mMldacc t c q) badValue)) ∧
  (∀ t c qa qb k s, ¬MayUse (curBank s s.core) c →
    (Ready (.mMmul t c qa qb k) .m t s → exec (.mMmul t c qa qb k) s = finish s .m (.mMmul t c qa qb k) badValue) ∧
    (Ready (.mMmulk t c qa qb k) .m t s → exec (.mMmulk t c qa qb k) s = finish s .m (.mMmulk t c qa qb k) badValue))

/-- O30. A matrix command that may begin, with its queues ready, takes effect: MDRAIN reserves its place, takes its rows
one after another and pushes its entry with the last, MCLR clears its region, MLDACC loads its region from the popped
entry, and MMUL pops its entries; an entry of another owner is OWNER_MISMATCH and the command ends; no command that pops
begins before an earlier one, and none pushes into a queue before an earlier one has; the oldest finished command leaves
the queue and counts in HCOUNT; a mode entry, fence or release at the head retires, of bank 1 too, whose queue always
drains (R255, R256, R261, R262, R264, R265, R275-R278). That HCOUNT stays at 511 is the model's choice (log 22), as is a
drain row by row (log 55). -/
def Obligations.MatrixCommands : Prop :=
  (∀ c i s m, c < 1024 → getCmd s c i = some m → m.op = 0x32 → m.stale = [] →
    let blank : TileEntry := ⟨(getCore s c).arrayOwner, 0, 0, (getCore s c).apois.getLsbD m.acc, m.shapeN, m.shapeM, m.fo, []⟩
    let row := fun x => drainRow (getCore s c) m m.acc x m.gnext.toNat
    let behind := laterPush ((getCore s c).cmds.take i) m
    (mayStart s c i m = true → m.want s (tableOf c) = .go →
      (m.shapeM = 0 → behind = false → exec (.arrayMdrain c i) s = .next (putCmd (pushNumbered s (tableOf c) m.qa blank) c i
        { m with gnext := 0 }.end_)) ∧
      ((m.shapeM ≠ 0 ∨ behind = true) → exec (.arrayMdrain c i) s = .next (putCmd s c i
        { m with gnext := 0, begun := true, ea := some blank }))) ∧
    ∀ x, m.running = true → arrayRuns s c i = true → m.ea = some x →
      (m.gnext.toNat < m.shapeM.toNat → (m.gnext.toNat + 1 < m.shapeM.toNat ∨ behind = true) →
        exec (.arrayMdrain c i) s = .next (putCmd s c i { m with gnext := m.gnext + 1, begun := true, ea := some (row x) })) ∧
      (m.gnext.toNat + 1 = m.shapeM.toNat → behind = false → exec (.arrayMdrain c i) s = .next (putCmd
        (pushNumbered s (tableOf c) m.qa (row x)) c i { m with gnext := m.gnext + 1 }.end_)) ∧
      (m.shapeM.toNat ≤ m.gnext.toNat →
        (behind = true → exec (.arrayMdrain c i) s = .next (putCmd s c i { m with begun := true, ea := some x })) ∧
        (behind = false → exec (.arrayMdrain c i) s = .next (putCmd (pushNumbered s (tableOf c) m.qa x) c i m.end_)))) ∧
  (∀ l m, laterPush l m = true ↔ ∃ j ∈ l, j.finished = false ∧ ∃ q ∈ j.dests, q ∈ m.dests) ∧
  (∀ s c i m, mayStart s c i m = true → m.isMul = true → laterPush ((getCore s c).cmds.take i) m = false) ∧
  (∀ c i s m, c < 1024 → getCmd s c i = some m → m.op = 0x34 → mayStart s c i m = true →
    exec (.arrayMclr c i) s = .next (putCmd (modCore s c fun k =>
      let k := setRegion k m.acc m.shapeM.toNat m.shapeN.toNat fun _ _ => 0
      if m.shapeM = 128 ∧ m.shapeN = 128 then { k with apois := k.apois &&& ~~~((1 : BitVec 8) <<< m.acc) } else k) c i m.end_)) ∧
  (∀ c i s m e s1, c < 1024 → getCmd s c i = some m → m.op = 0x33 → mayStart s c i m = true → m.want s (tableOf c) = .go →
    popTile s (tableOf c) m.qa = some (e, s1) →
    (e.owner = (getCore s1 c).arrayOwner →
      exec (.arrayMldacc c i) s = .next (putCmd (modCore s1 c fun k =>
        let k := setRegion k m.acc m.shapeM.toNat m.shapeN.toNat fun r j =>
          BitVec.ofNat 32 (roundTo 0 .rne (entryValue e r j)).1
        if e.poison then { k with apois := k.apois ||| (1 : BitVec 8) <<< m.acc } else k) c i m.end_)) ∧
    (e.owner ≠ (getCore s1 c).arrayOwner →
      exec (.arrayMldacc c i) s = .next (putCmd (if (getBank s1 c false).ctx = m.ctx then
        addDue s1 c false .ownerMismatch .m 0 (faultInfo 0 0 0 m.qa) else s1) c i m.end_))) ∧
  (∀ c i s m, c < 1024 → getCmd s c i = some m → m.isMul = true → mayStart s c i m = true → m.want s (tableOf c) = .go →
    exec (.arrayMmul c i) s = .next (beginMul s c i m)) ∧
  (∀ s c i m j, mayStart s c i m = true → (m.isMul = true ∨ m.op = 0x33) → j ∈ (getCore s c).cmds.take i →
    (j.isMul = true ∨ j.op = 0x33) → j.begun = true) ∧
  (∀ (k : Core) m l, k.cmds = m :: l → k.bank0.still = false → (∀ j ∈ k.inQueue, m.id ≤ j.id) → k.head false = some m) ∧
  (∀ c s m l, c < 1024 → (getCore s c).head false = some m → (getCore s c).cmds = m :: l → m.finished = true →
    exec (.matrixCommandComplete c 0) s = .next (passHand (modCore s c fun k =>
      { k with cmds := l, hcount := if k.hcount = 511 then 511 else k.hcount + 1 }) (tableOf c))) ∧
  (∀ c s m l, c < 1024 → swf s.cores 0 Core.zero = true → (getCore s c).head false = some m → (getCore s c).cmds = m :: l →
    (getCore s c).cmds1 = [] →
    ((m.op = 0x25 ∨ m.op = 0x35) →
      exec (.queueEntryRetire c) s = .next (passHand (modCore s c fun k => { k with cmds := l }) (tableOf c))) ∧
    (m.op = 0x21 → exec (.queueEntryRetire c) s =
      .next (passHand (releaseHand (modCore s c fun k => { k with cmds := l }) c) (tableOf c)))) ∧
  ∀ c s m l, c < 1024 → (getCore s c).cmds1 = m :: l → ((getCore s c).cmds = [] ∨ (getCore s c).bank0.still = true) →
    (getCore s c).bank1.still = false → (∀ j ∈ l, m.id ≤ j.id) → (m.op = 0x25 ∨ m.op = 0x35) →
    exec (.queueEntryRetire c) s = .next (passHand (modCore s c fun k => { k with cmds1 := l }) (tableOf c))

/-- O31. Each group of a multiplication adds the exact sum of its products, rounded once, to every element of its
region, group 0 of a command with F = 0 starting from +0; the other elements and accumulators stay (R79, R274). -/
def Obligations.MultiplyGroup : Prop :=
  ∀ c i s m ea eb, c < 1024 → swf s.cores 0 Core.zero = true → swf (getCore s c).accs 0 (0 : BitVec 32) = true →
    getCmd s c i = some m → m.isMul = true → m.begun = true → m.finished = false → arrayRuns s c i = true →
    m.ea = some ea → m.eb = some eb → m.shapeM.toNat ≤ 128 → m.shapeN.toNat ≤ 128 →
    ∃ u, exec (.arrayMmul c i) s = .next u ∧ u.mem = s.mem ∧
      (∀ r j, r < m.shapeM.toNat → j < m.shapeN.toNat →
        (getCore u c).acc m.acc (128 * r + j) = groupElem (getCore s c) m ea eb m.gnext.toNat r j) ∧
      (∀ a e, e < 16384 → (a ≠ m.acc ∨ m.shapeM.toNat ≤ e / 128 ∨ m.shapeN.toNat ≤ e % 128) →
        (getCore u c).acc a e = (getCore s c).acc a e)

/-- O32. MHAND asks for the hand and waits; once accumulators are granted the context is a member with them. MRELS of a
member queues the release and ends the membership; of another it only passes (R253, R269, R270). The hand goes to the
first request of the list whose accumulators are free: a new member gets zeroed, unpoisoned accumulators and no held
tile, and HCOUNT starts at 0 (R251, R252, R254, R255). -/
def Obligations.HandWords : Prop :=
  ((∀ t n s, Ready (.mMhand t n) .m t s → (getCore s s.core).active = false → (curBank s s.core).mat.member = false →
     (getCore s s.core).releasing = false →
     ((getCore s s.core).granted ≠ 0 →
       exec (.mMhand t n) s = .next (passed (putCur s { curBank s s.core with
         mat := { (curBank s s.core).mat with member := true, nacc := (getCore s s.core).granted, held := false } }) .m t)) ∧
     ((getCore s s.core).granted = 0 → (getTable s (tableOf s.core)).reqs.any (fun r => r.core == s.core) = false →
       exec (.mMhand t n) s = .next (stay (setTable s (tableOf s.core) { getTable s (tableOf s.core) with
         reqs := (getTable s (tableOf s.core)).reqs ++ [⟨s.core, some n⟩] }) .m))) ∧
   (∀ t n s, Ready (.mMhand t n) .m t s → (curBank s s.core).mat.member = true →
     exec (.mMhand t n) s = finish s .m (.mMhand t n) badValue) ∧
   (∀ t s, Ready (.mMrels t) .m t s →
     ((curBank s s.core).mat.member = false → exec (.mMrels t) s = .next (passed s .m t)) ∧
     ((curBank s s.core).mat.member = true → (getCore s s.core).queued < 16 →
       exec (.mMrels t) s = .next (passed (modCur (queued (.mMrels t) s) s.core fun b =>
         { b with mat := { b.mat with member := false, nacc := 0, held := false } }) .m t)))) ∧
  (∀ n s r l, n < 64 → Canonical s → (getTable s n).holder = none → (getTable s n).reqs = r :: l → r.ready s n = true →
     tableOf r.core = n →
     ∃ u, exec (.handGrant n) s = .next u ∧ (getTable u n).holder = some r.core ∧ (getTable u n).reqs = l ∧
       (getTable u n).handlen = (getCore s r.core).bank0.handlen ∧ (getCore u r.core).hcount = 0 ∧ u.mem = s.mem ∧
       (∀ a, r.n = some a → (getCore u r.core).granted = a ∧ (getCore u r.core).accOwner = some (getCore s r.core).bank0.tenant ∧ (getCore u r.core).accs = [] ∧
         (getCore u r.core).apois = 0 ∧ (getCore u r.core).heldTile = none) ∧
       (r.n = none → (getCore u r.core).granted = (getCore s r.core).granted ∧
         (getCore u r.core).accs = (getCore s r.core).accs))

/-- O33. MFEED resolves the image at m[r] and hands it to the table's feed unit, which pushes the tile once the queue
has room: the bytes of the image as it now stands, poisoned where a sector of it cannot be read, with the next sequence
number of the queue (R263, R279). A tile queue is first in, first out: a push stands behind the entries there, a pop
takes the oldest (R262, R317). -/
def Obligations.TileQueues : Prop :=
  ((∀ t q r s f ps uses, Ready (.mMfeed t q r) .m t s → Slot (curBank s s.core) f →
     let x := (curBank s s.core).rm r.toNat
     let l := tab (fun i => x + BitVec.ofNat 64 (32 * i)) 0 (containerSize f.fb / 32)
     x.toNat % 512 = 0 → (aperture x = .global ∨ aperture x = .priv) →
     imagePlaces s (viewOf s s.core (getCore s s.core).active) l = .ok (ps, uses) →
     firstPosition s (viewOf s s.core (getCore s s.core).active) l = none →
     (getTable s (tableOf s.core)).feeds.length < 32 →
     exec (.mMfeed t q r) s = .next (passed (modTable { s with seq := s.seq + 1 } (tableOf s.core) fun x =>
       { x with feeds := x.feeds ++ [⟨s.core, s.seq, q.toNat, f.fb, (curBank s s.core).tenant, ps, uses.eraseDups⟩] }) .m t)) ∧
   (∀ n s f l, n < 64 → (getTable s n).feeds = f :: l → tileRoom s n f.q = true → isLink f.q = false →
     remapHolds s f.cmd f.places = false →
     ∃ e u, exec (.feedPush n) s = .next u ∧ u.mem = s.mem ∧ e.owner = f.tenant ∧ e.fmt = f.fmt ∧ e.vcols = 128 ∧
       e.vrows = 128 ∧ e.job = 0 ∧ e.seq = sget (getTable s n).pushes f.q 0 ∧
       e.poison = (firstBad s true false f.places 0).isSome ∧
       (∀ i b loc, f.places[i]? = some ⟨.mem loc 0, 256, 256⟩ → b < 32 →
         sget e.bytes (32 * i + b) 0 = rdByte s (loc + b)) ∧
       u = pushTile (modTable (modTable s n fun x => { x with pushes := sset x.pushes f.q (e.seq + 1) 0 }) n fun x =>
         { x with feeds := l }) n f.q e)) ∧
  (∀ s n q e, swf s.tables 0 Table.zero = true → swf (getTable s n).queues 0 ([] : List TileEntry) = true →
     swf s.fabric.ports 0 Port.zero = true →
     tileQueue (pushTile s n q e) n q = tileQueue s n q ++ [e] ∧
     (∀ h l, tileQueue s n q = h :: l → ∃ u, popTile s n q = some (h, u) ∧ tileQueue u n q = l) ∧
     (tileQueue s n q = [] → popTile s n q = none) ∧
     ∀ p, p ≠ q → isLink p = false → tileQueue (pushTile s n q e) n p = tileQueue s n p)

/-! ### Tempo -/

/-- O34. TEMPO by a member without a session queues it when m1 to m8 pass their checks: the CSRs start, the session
holds its parameters, and no beat has run (R280, R281, R294); TCUT marks the session, a later CUT never turning an ABORT
back, and ends it at once where it waits after a miss (R285, R292). -/
def Obligations.TempoWords : Prop :=
  (∀ t s f, Ready (.mTempo t) .m t s → (curBank s s.core).mat.member = true → (getCore s s.core).session = none →
    Slot (curBank s s.core) f → (getCore s s.core).queued < 16 →
    let z := newSession (curBank s s.core) (launchOrder s s.core)
    (∀ r, 1 ≤ r → r ≤ 8 → tempoRegBad f r (z.reg r) = false) →
    z.accOf 0 ≠ z.accOf 1 → z.accOf 0 < (curBank s s.core).mat.nacc.toNat → z.accOf 1 < (curBank s s.core).mat.nacc.toNat →
    (curBank s s.core).mat.shapeM ≠ 0 → (curBank s s.core).mat.shapeN ≠ 0 → (curBank s s.core).mat.shapeK ≠ 0 →
    (z.qb = 127 → (curBank s s.core).mat.held = true ∧ (curBank s s.core).mat.heldFmt = f.fb) →
    linkBound s z.qa = true → linkBound s z.qb = true → linkBound s z.qd = true →
    exec (.mTempo t) s = .next (passed (modCore (modCur (queued (.mTempo t) s) s.core fun b =>
      { b with tempo := b.tempo.start z }) s.core fun k => { k with session := some z }) .m t)) ∧
  (∀ t a s, Ready (.mTcut t a) .m t s →
    ((getCore s s.core).session = none → exec (.mTcut t a) s = .next (passed s .m t)) ∧
    ∀ z, (getCore s s.core).session = some z →
      let abt := a == 1 || z.cut.getD false
      let y : Session := { z with cut := some abt }
      (z.phase ≠ .waiting ∨ notReady s s.core y = none →
        exec (.mTcut t a) s = .next (passed (putSession s s.core y) .m t)) ∧
      (z.phase = .waiting → notReady s s.core y ≠ none →
        exec (.mTcut t a) s = .next (passed (finishTempo s s.core y (if abt then 3 else 2)) .m t))) ∧
  (∀ (r : TempoRegs) z, (r.start z).beat = 0 ∧ (r.start z).miss = 0 ∧ (r.start z).consec = 0 ∧ (r.start z).pvalid = false ∧
    (r.start z).cause = 0 ∧ (r.start z).lost = 0 ∧ (r.start z).st = 1 ∧ (r.start z).policy = z.strict ∧
    (r.start z).looka = r.looka ∧ (r.start z).lookb = r.lookb ∧ (r.start z).lookd = r.lookd)

/-- O35. A queued session whose record heads the queue of the hand's holder starts at boundary 0 (R281, R284). At a
boundary it takes the lookaheads as they stand and ends where BEAT has reached its limit, a cut is pending, the launch
is aborted or a link queue that the beat needs is lost or stale; the drain of the group that the last beat completed
begins first, with KT = 1 at every boundary but 0 (R282, R285, R290, R326). Otherwise it raises the events that are due,
then runs the beat if its queues are ready, or counts a miss (R283, R285, R287). After a miss it waits until the beat is
ready or it ends; a cut that is pending by then ends it at once (R289, R292). That the events of a boundary go out as
places become free is the model's choice (log 41). A session that outlives its context keeps that context's CSRs as the
abort left them, and raises no fault of a context that has its bank by then, which is the model's reading of R128 (log
44). A finishing session first pushes a void entry for each group that was announced and not pushed; then, once there is
room, it raises END for every core of FMASK, sets the cause and names the accumulator it leaves (PVALID, PACC, KPROG),
leaves the queue, and the hand may pass (R290, R291). That END waits until all its events have places is the model's
choice (log 41). -/
def Obligations.TempoSession : Prop :=
  ((∀ c s z m, c < 1024 → tempoNow s c = some (z, m) → z.phase = .queued → tempoMoves s c z = true → turnOver s c 0 = false →
     exec (.tempoSessionStart c) s = .next (modTempo (putSession (putCmd s c 0 { m with begun := true }) c
       { z with phase := .boundary }) c z fun r => { r with st := 2 })) ∧
   (∀ c s z0 m, c < 1024 → tempoNow s c = some (z0, m) → z0.phase = .boundary → tempoMoves s c z0 = true →
     (getCore s c).heldEvents.length < 16 →
     let r := tempoOf s c z0
     let z : Session := { z0 with look := ⟨r.looka, r.lookb, r.lookd⟩ }
     let j := z.c / z.kt - 1
     let s1 := pushNumbered s (tableOf c) z.qd (drainEntry (getCore s c) m (z.accOf j))
     let z1 : Session := { z with pushed := z.pushed + 1 }
     let noDrain := z.c = 0 ∨ z.c % z.kt ≠ 0 ∨ z.c / z.kt ≤ z.pushed
     let drains := z.c ≠ 0 ∧ 0 < z.kt ∧ z.c % z.kt = 0 ∧ z.pushed < z.c / z.kt ∧ drainLost s c z m = false ∧
       (r.lookd ≠ 0 ∨ j < z.nd ∨ isLink z.qd = true)
     (z.c < z.limit → z.cut = none → z.kill = false → beatLink s c z m = none →
       (noDrain → exec (.tempoBoundary c) s = .next (goOn s c { z with phase := .raising } m)) ∧
       (drains → exec (.tempoBoundary c) s = .next (goOn s1 c { z1 with phase := .raising } m)) ∧
       (z.c ≠ 0 → 0 < z.kt → z.c % z.kt = 0 → z.pushed < z.c / z.kt → drainLost s c z m = false → r.lookd = 0 → z.nd ≤ j →
         isLink z.qd = false →
         let p := raiseNext s1 c { z1 with nd := j + 1 } (eventOf 3 z.qd (drainSeq s1 c z1 j) ((j + 1) * z.kt - 1))
         exec (.tempoBoundary c) s = .next (goOn p.1 c { p.2 with phase := .raising } m))) ∧
     (z.c = z.limit →
       (noDrain → exec (.tempoBoundary c) s = .next (finishTempo s c z 1)) ∧
       (drains → exec (.tempoBoundary c) s = .next (finishTempo s1 c z1 1))) ∧
     (z.c < z.limit → z.cut = some true → exec (.tempoBoundary c) s = .next (finishTempo s c z 3)) ∧
     (z.c < z.limit → z.cut = some false → noDrain → exec (.tempoBoundary c) s = .next (finishTempo s c z 2)) ∧
     (z.c < z.limit → z.cut = none → z.kill = true → exec (.tempoBoundary c) s = .next (finishTempo s c z 5)) ∧
     (∀ sub q, z.c < z.limit → z.cut = none → z.kill = false → beatLink s c z m = some (sub, q) →
       exec (.tempoBoundary c) s = .next (finishTempo (linkFault s c z.ctx sub q) c z 5))) ∧
   (∀ c s z m, c < 1024 → tempoNow s c = some (z, m) → z.phase = .raising → tempoEnds s c = true →
     (getCore s c).heldEvents.length < 16 → exec (.tempoBoundary c) s = .next (goOn s c z m)) ∧
   (∀ c s z m, let y := (raiseDue s c (heldRoom s c) z).2
     let u := putSession (raiseDue s c (heldRoom s c) z).1 c y
     (nextDue u c y ≠ none → goOn s c z m = u) ∧
     (nextDue u c y = none → notReady u c y = none →
       goOn s c z m = runBeat (modTempo u c y fun r => { r with consec := 0 }) c y m) ∧
     ∀ sub q, nextDue u c y = none → notReady u c y = some (sub, q) →
       (roomForAll u c y = true → goOn s c z m = tempoMiss u c y sub q) ∧ (roomForAll u c y = false → goOn s c z m = u)) ∧
   (∀ s c z sub q, let r := tempoOf s c z
     let miss : BitVec 32 := if r.miss = 0xFFFFFFFF then 0xFFFFFFFF else r.miss + 1
     let consec : BitVec 8 := if r.consec = 255 then 255 else r.consec + 1
     let u := raiseAll (modTempo s c z fun r => { r with miss := miss, consec := consec }) c z (eventOf 5 q miss.toNat z.c)
     (z.strict = true → consec.toNat = z.maxMiss →
       tempoMiss s c z sub q = finishTempo (if (getBank u c false).ctx = z.ctx then
         addDue u c false .tempoMiss .m 0 (faultInfo sub 0 0 z.c) else u) c z 4) ∧
     ((z.strict = false ∨ consec.toNat ≠ z.maxMiss) →
       (∀ abt, z.cut = some abt → tempoMiss s c z sub q = finishTempo u c z (if abt then 3 else 2)) ∧
       (z.cut = none → z.kill = true → tempoMiss s c z sub q = finishTempo u c z 5) ∧
       (z.cut = none → z.kill = false → tempoMiss s c z sub q = putSession u c { z with phase := .waiting }))) ∧
   (∀ c s z m, c < 1024 → tempoNow s c = some (z, m) → z.phase = .waiting → tempoMoves s c z = true →
     (∀ sub q, beatLink s c z m = some (sub, q) →
       exec (.tempoMissWaitEnd c) s = .next (finishTempo (linkFault s c z.ctx sub q) c z 5)) ∧
     (beatLink s c z m = none → notReady s c z = none → exec (.tempoMissWaitEnd c) s = .next (runBeat s c z m)) ∧
     (∀ abt, beatLink s c z m = none → notReady s c z ≠ none → z.cut = some abt →
       exec (.tempoMissWaitEnd c) s = .next (finishTempo s c z (if abt then 3 else 2)))) ∧
   (∀ s c (z : Session), ((getBank s c false).ctx = z.ctx → tempoOf s c z = (getBank s c false).tempo) ∧
     ((getBank s c false).ctx ≠ z.ctx → tempoOf s c z = z.left)) ∧
   ∀ s c x sub q, linkFault s c x sub q = if (getBank s c false).ctx = x then
     addDue s c false .link .m 0 (faultInfo sub 0 q (linkPort q)) else s) ∧
  ((∀ c s z m kind, c < 1024 → tempoNow s c = some (z, m) → z.phase = .finishing kind → tempoEnds s c = true →
     z.pushed < z.nd → tileRoom s (tableOf c) z.qd = true →
     exec (.tempoFinish c) s = .next (putSession (pushNumbered s (tableOf c) z.qd
       ⟨(getCore s c).arrayOwner, 0, 0, false, 0, 0, m.fo, []⟩) c { z with pushed := z.pushed + 1 })) ∧
   (∀ c s z m kind, c < 1024 → tempoNow s c = some (z, m) → z.phase = .finishing kind → tempoEnds s c = true →
     z.nd ≤ z.pushed → roomForAll s c z = true →
     ∃ u, exec (.tempoFinish c) s = .next (passHand u (tableOf c)) ∧ u.mem = s.mem ∧
       (swf s.cores 0 Core.zero = true → (getCore u c).session = none ∧ (getCore u c).lastSession = some z ∧
         (getCore u c).cmds = (getCore s c).cmds.drop 1 ∧
         ((getCore u c).heldEvents.map fun e => (e.target, e.word)) =
           ((getCore s c).heldEvents.map fun e => (e.target, e.word)) ++
             (((tab (fun i => i) 0 16).filter fun i => bit z.fmask i).map fun i =>
               (16 * tableOf c + i, eventOf 4 kind.toNat z.pushed z.c)) ∧
         ((getCore s c).bank0.ctx = z.ctx →
           let r := (getCore s c).bank0.tempo
           let x := (getCore u c).bank0.tempo
           x.cause = kind ∧ x.st = 0 ∧
           (z.c % z.kt ≠ 0 → x.pvalid = true ∧ x.pacc = BitVec.ofNat 3 (z.accOf (z.c / z.kt)) ∧
             x.kprog = BitVec.ofNat 16 (z.c % z.kt)) ∧
           (z.c % z.kt = 0 → (kind = 3 ∨ kind = 5) → z.c ≠ 0 → x.pvalid = true ∧
             x.pacc = BitVec.ofNat 3 (z.accOf (z.c / z.kt - 1)) ∧ x.kprog = BitVec.ofNat 16 z.kt) ∧
           (z.c % z.kt = 0 → ((kind ≠ 3 ∧ kind ≠ 5) ∨ z.c = 0) →
             x.pvalid = r.pvalid ∧ x.pacc = r.pacc ∧ x.kprog = r.kprog)))))

/-- O36. The oldest held event that can leave enters the EVQ of its target, whose context belongs to the launch that
raised it; an event for a full EVQ waits and lets later ones pass; an event whose target runs no context of the launch
is discarded and counted in LOST (R288). EVPOP takes the oldest event, EVPEEK reads it; both read 0 from an empty EVQ
(R296). That of an ended session the CSRs of its context count is the model's choice (log 41). -/
def Obligations.EventsDelivered : Prop :=
  (∀ c s e l, c < 1024 → swf s.cores 0 Core.zero = true → (getCore s c).bank0.st ≠ .stopped →
    (getCore s c).heldEvents = e :: l → e.arrives s = true → (getBank s e.target false).evq.length < 64 →
    ∃ u, exec (.eventDeliver c) s = .next u ∧
      (getBank u e.target false).evq = (getBank s e.target false).evq ++ [e.word] ∧ (getCore u c).heldEvents = l) ∧
  (∀ c s e f l, c < 1024 → swf s.cores 0 Core.zero = true → (getCore s c).bank0.st ≠ .stopped →
    (getCore s c).heldEvents = e :: f :: l → e.arrives s = true → 64 ≤ (getBank s e.target false).evq.length →
    f.arrives s = true → (getBank s f.target false).evq.length < 64 →
    ∃ u, exec (.eventDeliver c) s = .next u ∧
      (getBank u f.target false).evq = (getBank s f.target false).evq ++ [f.word] ∧ (getCore u c).heldEvents = e :: l) ∧
  (∀ c s e l z, c < 1024 → swf s.cores 0 Core.zero = true → (getCore s c).bank0.st ≠ .stopped →
    (getCore s c).heldEvents = e :: l → (getBank s e.target false).st = .empty →
    (getCore s c).shownSession = some z → z.launch = e.launch → (getCore s c).bank0.ctx = z.ctx →
    ∃ u, exec (.eventDeliver c) s = .next u ∧ (getCore u c).heldEvents = l ∧
      (getCore u c).bank0.tempo.lost =
        if (getCore s c).bank0.tempo.lost = 0xFFFF then 0xFFFF else (getCore s c).bank0.tempo.lost + 1) ∧
  (∀ (e : HeldEvent) s o, e.launch = some o → (getBank s e.target false).st ≠ .empty →
    (e.arrives s = true ↔ launchOrder s e.target = some o)) ∧
  (∀ t d s, Ready (.aEvpop t d) .a t s →
    exec (.aEvpop t d) s = .next (passed (putCur s (({ curBank s s.core with
      evq := (curBank s s.core).evq.tail } : Bank).wa d.toNat ((curBank s s.core).evq.headD 0))) .a t)) ∧
  (∀ t d s, Ready (.aEvpeek t d) .a t s →
    exec (.aEvpeek t d) s = .next (passed (putCur s ((curBank s s.core).wa d.toNat ((curBank s s.core).evq.headD 0))) .a t))

/-! ### Memory words -/

namespace Sys2Proof.Claims

open Machine

/-- `s` with its model counter advanced for the word's access. -/
def counted (s : State) : State := { s with seq := s.seq + 1 }

/-- The view of the running context. -/
def viewNow (s : State) : View := viewOf s s.core (getCore s s.core).active

/-- `s` with the access of a memory word, found at `f`, behind those in flight. -/
def inFlight (s : State) (b : Bank) (t : BitVec 4) (op : AccessOp) (p : BitVec 3) (su : BitVec 4) (f : Located) (data : Vec)
    (dest : Dest) (pops idx : List Nat) : State :=
  let x := newAccess b s.seq t op p su f data dest pops
  putCur (counted s) { b with clamp := b.clamp || f.clamped, inflight := b.inflight ++
    [{ x with unsent := nodePackets (counted s) b.tenant x idx }] }

/-- `s` after A has passed a memory word whose access, found at `f`, is now the last in flight, with the packets of its places
on other nodes still to send. `b` is the bank with the destination reserved, `pops` the queues whose entries it holds until it
completes and `idx` the indices of its lanes. -/
def accessed (s : State) (b : Bank) (t : BitVec 4) (op : AccessOp) (p : BitVec 3) (su : BitVec 4) (f : Located) (data : Vec)
    (dest : Dest) (pops idx : List Nat) : State :=
  issued (inFlight s b t op p su f data dest pops idx) .a t

/-- A word that writes may issue: it lies on this node, or fewer than 1,024 write packets are unacknowledged (R120, R311). -/
def MaySend (s : State) (f : Located) : Prop :=
  (∀ p ∈ f.places, ∀ l o, p.tgt ≠ .node l o) ∨ (getCore s s.core).pathTotal < 1024

/-- Access `k` of a bank, which is `x`, has no packet left to send, and nothing holds its performing back: no earlier access or
fence (R203, R211), no REMAP of its channel (R366), no multiplication over its element (R266); what a REMAP had held back as it
issued is in a state that allows it (R366). -/
def MayGo (s : State) (c bk k : Nat) (x : Access) : Prop :=
  c < 1024 ∧ (getBank s c (bk == 1)).inflight[k]? = some x ∧ ((getBank s c (bk == 1)).inflight.map fun y => y.id).Nodup ∧
  (getBank s c (bk == 1)).mayPerform k x = true ∧ remapHolds s x.id x.places = false ∧
  (∀ p ∈ x.places, accBusy s p = false) ∧ x.unsent = [] ∧ ∀ e ∈ x.late, lateFault s x e = none

/-- Scalar loads, with their size and whether they extend the sign. -/
def loadRows : List ((BitVec 4 → BitVec 6 → BitVec 5 → BitVec 3 → BitVec 4 → Instr) × Nat × Bool) :=
  [(.aLdB, 1, false), (.aLdH, 2, false), (.aLdW, 4, false), (.aLdD, 8, false), (.aLdsB, 1, true), (.aLdsH, 2, true),
    (.aLdsW, 4, true)]

/-- Scalar stores, with their size. -/
def storeRows : List ((BitVec 4 → BitVec 6 → BitVec 5 → BitVec 3 → BitVec 4 → Instr) × Nat) :=
  [(.aStB, 1), (.aStH, 2), (.aStW, 4), (.aStD, 8)]

/-- Atomics, with their opcodes. -/
def atomicRows : List ((BitVec 4 → BitVec 6 → BitVec 5 → BitVec 5 → BitVec 1 → Instr) × BitVec 8) :=
  [(.aAadd, 0x58), (.aAand, 0x59), (.aAor, 0x5A), (.aAxor, 0x5B), (.aAmin, 0x5C), (.aAmax, 0x5D), (.aAminu, 0x5E),
    (.aAmaxu, 0x5F), (.aAxchg, 0x60), (.aAcas, 0x61), (.aAfadd, 0x62)]

end Sys2Proof.Claims

/-- O37. A scalar load or store whose address a[b] + size x displacement resolves issues: A passes it, its access is the
last in flight, and a store carries the value of its register or of the entry at the head of its queue, which it holds
until it completes; an address that does not resolve makes it fault, one whose walk finds no walker free makes it stall,
and a store toward another node stalls while 1,024 write packets are unacknowledged (R117, R119, R120, R203-R205, R227).
That the walk of such a miss stands behind those in flight is the model's choice (log 7). -/
def Obligations.ScalarAccessesIssue : Prop :=
  (∀ r ∈ loadRows, ∀ t d b p y s v b1, Ready (r.1 t d b p y) .a t s → (curBank s s.core).useA b.toNat = .ok v →
    takeDest (curBank s s.core) false (loadDest d s.seq) = .ok b1 →
    let x := v + displacement r.2.1 ((curBank s s.core).kxOf .a)
    let at_ := locateAll s (viewNow s) p y r.2.1 true false false false [x]
    (∀ f, at_ = .ok f → exec (r.1 t d b p y) s = .next (accessed s b1 t (.load r.2.2) p y f 0 (loadDest d s.seq) [] [])) ∧
    (∀ e, (∀ page, e ≠ .walk page) → at_ = .error e → exec (r.1 t d b p y) s = finish s .a (r.1 t d b p y) (.error e)) ∧
    ∀ page, at_ = .error (.walk page) → walkAnswer s (viewNow s) (thisWord s .a) page = none →
      exec (r.1 t d b p y) s = .next (stay (joinWalk s s.core (getCore s s.core).active page (some (thisWord s .a))) .a)) ∧
  (∀ r ∈ storeRows, ∀ t d b p y s v w pops, Ready (r.1 t d b p y) .a t s → (curBank s s.core).useA b.toNat = .ok v →
    (curBank s s.core).getASq d = .ok (w, pops) →
    let x := v + displacement r.2 ((curBank s s.core).kxOf .a)
    let at_ := locateAll s (viewNow s) p y r.2 false true false false [x]
    (∀ f, at_ = .ok f → MaySend s f →
      exec (r.1 t d b p y) s = .next (accessed s (curBank s s.core) t .store p y f (w.setWidth 4096) .none pops [])) ∧
    (isRemote s x = true → 1024 ≤ (getCore s s.core).pathTotal → exec (r.1 t d b p y) s = .next (stay s .a)) ∧
    (∀ e, (∀ page, e ≠ .walk page) → at_ = .error e → exec (r.1 t d b p y) s = finish s .a (r.1 t d b p y) (.error e)) ∧
    ∀ page, at_ = .error (.walk page) → walkAnswer s (viewNow s) (thisWord s .a) page = none →
      exec (r.1 t d b p y) s = .next (stay (joinWalk s s.core (getCore s s.core).active page (some (thisWord s .a))) .a)) ∧
  (∀ n p, displacement n none = 0 ∧ displacement n (some p) = BitVec.ofInt 64 (n * p.toInt))

/-- O38. LDV and STV access 512 bytes, GATH and SCAT the 128 addresses a[b] + 4 x displacement + 4 index (1 index in a
position region) with the indices from SQ1 and SCAT's data from SQ0; toward another node each lane names the base and
the target adds its index; lanes that may lie on more than one node are first to be found, which is the model's way (log
59); an LDV or STV past the last offset of its window is DENIED at the window's end (R188, R195, R206-R208, R304). STO
stores on a NODE address once no job of the core still has packets for its node, and faults ILLEGAL/VALUE on any other
aperture (R310); that this fault records the address, plane and suit of the word is the model's reading (log 18). LDVC
issues as one access that expands its block when it performs: element w is the next payload word where MASK bit w is set
and zero where it is not (R246, R247); that its sectors are found as it performs is the model's choice (log 6); SFENCE
of some suits stands among the accesses in flight, of none only pushes its tokens; ASPC and ACVT write the code and the
converted pointer of their source (R209-R211). -/
def Obligations.WideAccessesIssue : Prop :=
  ((∀ t d b p y s v b1 f, Ready (.aLdv t d b p y) .a t s → (curBank s s.core).useA b.toNat = .ok v →
     takeDest (curBank s s.core) true (loadDest d s.seq) = .ok b1 →
     locateVec s (viewNow s) p y true false (v + displacement 512 ((curBank s s.core).kxOf .a)) = .ok f →
     exec (.aLdv t d b p y) s = .next (accessed s b1 t .loadVec p y f 0 (loadDest d s.seq) [] [])) ∧
   (∀ t d b p y s v w f, Ready (.aStv t d b p y) .a t s → (curBank s s.core).useA b.toNat = .ok v →
     (curBank s s.core).peekQ (d.toNat - 32) = .ok w →
     locateVec s (viewNow s) p y false true (v + displacement 512 ((curBank s s.core).kxOf .a)) = .ok f → MaySend s f →
     exec (.aStv t d b p y) s = .next (accessed s (curBank s s.core) t .store p y f w .none [d.toNat - 32] [])) ∧
   (∀ t d b p y s v i b1 f, Ready (.aGath t d b p y) .a t s → (curBank s s.core).useA b.toNat = .ok v →
     (curBank s s.core).peekQ 5 = .ok i → takeDest (curBank s s.core) true (loadDest d s.seq) = .ok b1 →
     let x := v + displacement 4 ((curBank s s.core).kxOf .a)
     locateLanes s (viewNow s) p y true false x (lanesIdx i) = .ok f →
     exec (.aGath t d b p y) s = .next (accessed s b1 t (lanesOp s (viewNow s) p y false x (lanesIdx i)) p y f 0
       (loadDest d s.seq) [5] (sentIdx s x (lanesIdx i)))) ∧
   (∀ t b p y s v i w f, Ready (.aScat t b p y) .a t s → (curBank s s.core).useA b.toNat = .ok v →
     (curBank s s.core).peekQ 4 = .ok w → (curBank s s.core).peekQ 5 = .ok i →
     let x := v + displacement 4 ((curBank s s.core).kxOf .a)
     locateLanes s (viewNow s) p y false true x (lanesIdx i) = .ok f → MaySend s f →
     exec (.aScat t b p y) s = .next (accessed s (curBank s s.core) t (lanesOp s (viewNow s) p y true x (lanesIdx i)) p y f w
       .none [4, 5] (sentIdx s x (lanesIdx i)))) ∧
   (∀ t d b p y s v w pops, Ready (.aSto t d b p y) .a t s → (curBank s s.core).useA b.toNat = .ok v →
     (curBank s s.core).getASq d = .ok (w, pops) →
     let x := v + displacement 8 ((curBank s s.core).kxOf .a)
     let n := BitVec.ofNat 22 (x.toNat / 2 ^ 40 % 2 ^ 22)
     (∀ f, aperture x = .node → (∀ j ∈ (getCore s s.core).jobs, j.holdsSto n = false) →
       locateAll s (viewNow s) p y 8 false true false false [x] = .ok f → MaySend s f →
       exec (.aSto t d b p y) s = .next (accessed s (curBank s s.core) t .sto p y f (w.setWidth 4096) .none pops [])) ∧
     (aperture x = .node → (∃ j ∈ (getCore s s.core).jobs, j.holdsSto n = true) →
       exec (.aSto t d b p y) s = .next (stay s .a)) ∧
     (aperture x ≠ .node → exec (.aSto t d b p y) s = finish s .a (.aSto t d b p y) (.error (.fault .illegal x p y 9)))) ∧
   (∀ s v x p y (i : Vec) pos, regionOf s v x = .ok pos → ∃ l, laneAddrs s v x p y (lanesIdx i) = .ok l ∧
     ∀ k, k < 128 → l[k]? = some (x + BitVec.ofNat 64 ((if pos then 1 else 4) * (i.toNat / 2 ^ (32 * k) % 2 ^ 32)))) ∧
   (∀ s v x va r, globalVa s v x = some va → walk s v va = .ok r → regionOf s v x = .ok (r.leaf.testBit 2)) ∧
   (∀ s v p y rd wr x l, isRemote s x = true →
     locateLanes s v p y rd wr x l = .ok ⟨l.map fun _ => nodePlace x 32, false, [], []⟩ ∧ sentIdx s x l = l ∧
     ((∀ i ∈ l, x.toNat % 2 ^ 40 + 4 * i < 2 ^ 40) → lanesOp s v p y wr x l = if wr then .scatter else .gather) ∧
     ∀ i ∈ l, 2 ^ 40 ≤ x.toNat % 2 ^ 40 + 4 * i → lanesOp s v p y wr x l = .find wr []) ∧
   (∀ s v p y rd wr x l, isRemote s x = false → sentIdx s x l = [] ∧
     ∀ a, laneAddrs s v x p y l = .ok a →
       ((∀ z ∈ a, isRemote s z = false) → locateLanes s v p y rd wr x l = locateAll s v p y 4 rd wr true false a ∧
         lanesOp s v p y wr x l = if wr then .scatter else .gather) ∧
       ∀ z ∈ a, isRemote s z = true → locateLanes s v p y rd wr x l =
           .ok ⟨a.map fun z => if isRemote s z then nodePlace z 32 else nowhere, false, [], []⟩ ∧
         ∃ m, lanesOp s v p y wr x l = .find wr m ∧
           ∀ k n, (k, n) ∈ m ↔ ∃ z, a[k]? = some z ∧ isRemote s z = false ∧ n = z.toNat) ∧
   (∀ s v y rd wr x, aperture x = .spad → x.toNat % 32 = 0 → x.toNat / 2 ^ 38 % 2 ^ 10 = v.core →
     x.toNat % 2 ^ 19 + 512 ≤ 0x80000 →
     spadBanks (x.toNat % 2 ^ 19) 512 (fun b => bit (spadMask s v.core v.bank) b) = true →
     let l := tab (fun i => (⟨.mem (spadLoc v.core (x.toNat % 2 ^ 19 + 32 * i)) 0, 256, 256⟩ : Place)) 0 16
     (∀ p ∈ l, placeFault s rd wr p = none) → locateVec s v 0 y rd wr x = .ok ⟨l, false, [], []⟩) ∧
   (∀ s v x, aperture x = .priv → inPosition s v x = false → 512 ≤ windowRoom x →
     vecAddrs s v x = (tab (fun i => x + BitVec.ofNat 64 (32 * i)) 0 16, 32)) ∧
   ∀ s v p y rd wr x l f, aperture x = .priv → inPosition s v x = false → windowRoom x ≤ 480 →
     l = tab (fun i => x + BitVec.ofNat 64 (32 * i)) 0 ((windowRoom x + 31) / 32) →
     locateAll s v p y 32 rd wr false false l = .ok f → locateVec s v p y rd wr x =
       .error (.fault .space (x + BitVec.ofNat 64 (windowRoom x)) p y 0x100000003)) ∧
  ((∀ t d b k y s v b1, Ready (.aLdvc t d b k y) .a t s → (curBank s s.core).useA b.toNat = .ok v →
     let x := v + displacement 32 ((curBank s s.core).kxOf .a)
     (x.toNat % 32 ≠ 0 → exec (.aLdvc t d b k y) s = finish s .a (.aLdvc t d b k y) (.error (.fault .illegal x 0 y 9))) ∧
     (x.toNat % 32 = 0 → takeDest (curBank s s.core) true (loadDest d s.seq) = .ok b1 →
       exec (.aLdvc t d b k y) s = .next (accessed s b1 t (.expand k) 0 y
         ⟨[if isRemote s x then nodePlace x 256 else nowhere], false, [], []⟩ (x.setWidth 4096) (loadDest d s.seq) [] []))) ∧
   (∀ mask payload w, w < 128 → spread mask payload 128 0 0 / 2 ^ (32 * w) % 2 ^ 32 =
     if mask.testBit w then payload / 2 ^ (32 * ones w mask) % 2 ^ 32 else 0) ∧
   (∀ t y m s, Ready (.aSfence t y m) .a t s →
     (m ≠ 0 → exec (.aSfence t y m) s = .next (accessed s (curBank s s.core) t (.fence m) 0 0 ⟨[], false, [], []⟩ 0 .none [] [])) ∧
     (m = 0 → exec (.aSfence t y m) s = .next (issued (putCur s ((curBank s s.core).pushToks .a (t &&& 3))) .a t))) ∧
   (∀ t d a s x b1, Ready (.aAspc t d a) .a t s → (curBank s s.core).useA a.toNat = .ok x →
     (curBank s s.core).putA d (aspcValue s.core x) = .ok b1 → exec (.aAspc t d a) s = .next (passed (putCur s b1) .a t)) ∧
   (∀ t d a i s x b1, Ready (.aAcvt t d a i) .a t s → (curBank s s.core).useA a.toNat = .ok x →
     (curBank s s.core).putA d (acvtValue s (viewNow s) x i.toNat) = .ok b1 →
     exec (.aAcvt t d a i) s = .next (passed (putCur s b1) .a t)) ∧
   (∀ c x, aperture x = .spad → x.toNat / 2 ^ 38 % 2 ^ 10 = c → aspcValue c x = 0x12) ∧
   (∀ c x, (aperture x ≠ .spad ∨ x.toNat / 2 ^ 38 % 2 ^ 10 ≠ c) → aspcValue c x = BitVec.ofNat 64 (aperture x).code))

/-- O39. An atomic on memory that resolves, fits its location and is readable and writable issues as one access; on a
CHIP address it faults ILLEGAL/VALUE, and where a position region's plane 0 is not as wide as it (R332-R334). That these
faults record the word's address and suit is the model's reading (log 18). What an atomic makes of the old value o and
its operand y, at 32 and 64 bits: a wrapping sum, the bitwise functions, the signed and unsigned smaller and larger, the
operand itself, for ACAS the swap value where they are equal, and for AFADD the FP32 sum, or with W = 1 the sums of the
two BF16 halves, each rounded in mode RNE (R332, R333). -/
def Obligations.AtomicsIssue : Prop :=
  ((∀ r ∈ atomicRows, ∀ t d b o w s a v z b1, Ready (r.1 t d b o w) .a t s → (curBank s s.core).useA b.toNat = .ok a →
     (curBank s s.core).useA o.toNat = .ok v →
     (if r.2 = 0x61 then (curBank s s.core).useA (o.toNat + 1) else .ok 0) = .ok z →
     let n := if r.2 = 0x62 ∨ w ≠ 1 then 4 else 8
     let x := a + (atomicKx n ((curBank s s.core).kxOf .a)).1
     let su := (atomicKx n ((curBank s s.core).kxOf .a)).2
     let bad : Out := finish s .a (r.1 t d b o w) (.error (.fault .illegal x 0 su 9))
     (x.toNat / 2 ^ 56 = 0x83 → exec (r.1 t d b o w) s = bad) ∧
     ∀ f, x.toNat / 2 ^ 56 ≠ 0x83 → liftX x 0 su (resolve s (viewNow s) x 0 n true true false) = .ok f →
       (atomicFits s (viewNow s) x n = false → exec (r.1 t d b o w) s = bad) ∧
       ∀ l, atomicFits s (viewNow s) x n = true → takeDest (curBank s s.core) false (loadDest d s.seq) = .ok b1 →
         locateAll s (viewNow s) 0 su n true true false false [x] = .ok l → MaySend s l →
         exec (r.1 t d b o w) s = .next (accessed s b1 t (.atomic r.2 (w == 1) v z) 0 su l (x.setWidth 4096)
           (loadDest d s.seq) [] [])) ∧
   ∀ n p, atomicKx n none = (0, 0) ∧
     atomicKx n (some p) = (BitVec.ofInt 64 (n * (p.extractLsb' 4 18).toInt), p.extractLsb' 0 4)) ∧
  (∀ (w : Nat) (o y z : BitVec w) (wide : Bool), w = 32 ∨ w = 64 →
     atomicNew 0x58 wide w o.toNat y.toNat z.toNat = some (o + y).toNat ∧
     atomicNew 0x59 wide w o.toNat y.toNat z.toNat = some (o &&& y).toNat ∧
     atomicNew 0x5A wide w o.toNat y.toNat z.toNat = some (o ||| y).toNat ∧
     atomicNew 0x5B wide w o.toNat y.toNat z.toNat = some (o ^^^ y).toNat ∧
     atomicNew 0x5C wide w o.toNat y.toNat z.toNat = some (if y.toInt ≤ o.toInt then y else o).toNat ∧
     atomicNew 0x5D wide w o.toNat y.toNat z.toNat = some (if o.toInt ≤ y.toInt then y else o).toNat ∧
     atomicNew 0x5E wide w o.toNat y.toNat z.toNat = some (if y ≤ o then y else o).toNat ∧
     atomicNew 0x5F wide w o.toNat y.toNat z.toNat = some (if o ≤ y then y else o).toNat ∧
     atomicNew 0x60 wide w o.toNat y.toNat z.toNat = some y.toNat ∧
     (atomicNew 0x61 wide w o.toNat y.toNat z.toNat = if o = y then some z.toNat else none) ∧
     atomicNew 0x62 false 32 (o.toNat % 2 ^ 32) (y.toNat % 2 ^ 32) z.toNat =
       some (fArith .add 0 ⟨0, false, 0, 0, none⟩ (o.toNat % 2 ^ 32) (y.toNat % 2 ^ 32) 0).1 ∧
     ∃ n, atomicNew 0x62 true 32 (o.toNat % 2 ^ 32) (y.toNat % 2 ^ 32) z.toNat = some n ∧ n < 2 ^ 32 ∧
       n % 2 ^ 16 = (fArith .add 1 ⟨0, false, 0, 0, none⟩ (o.toNat % 2 ^ 16) (y.toNat % 2 ^ 16) 0).1 ∧
       n / 2 ^ 16 = (fArith .add 1 ⟨0, false, 0, 0, none⟩ (o.toNat / 2 ^ 16 % 2 ^ 16) (y.toNat / 2 ^ 16 % 2 ^ 16) 0).1)

/-- O40. An access in flight performs: a scalar load puts the bytes of its location, extended, into its register or its
entry; the last place of an LDV or GATH fills its entry, each place or lane at its number; a store writes its place and
no byte outside, of two lanes of a SCAT on one location the higher one; a compressed load fills its entry with the
expanded block or faults; an atomic reads and writes its place; a flag word writes its cell and ends the waits that it
satisfies; a fence writes nothing. A GATH or SCAT whose lanes are to be found reads and writes nothing before every one
has been found, and faults where one does, which is the model's way to R207 and R208 (log 59); what has the last word
that A issued fault is log 6. An access waits while an earlier one of its suit on the same node, or a fence over its
suit, is still ahead of it (R117, R203-R208, R211, R246, R332, R337-R339). -/
def Obligations.AccessesPerform : Prop :=
  (∀ c bk k s x p sg d, MayGo s c bk k x → x.op = .load sg → x.places = [p] → (∀ l o, p.tgt ≠ .node l o) →
    x.todo = [0] → x.got = [] → x.dest = .areg d → d ≠ 0 → 0 < p.bits → p.bits ≤ 64 → Canonical s →
    swf (getBank s c (bk == 1)).a 0 (0 : Word) = true →
    ∃ u, exec (.accessComplete c bk k 0) s = .next u ∧ u.mem = s.mem ∧
      (getBank u c (bk == 1)).ra d.toNat = (if sg then (BitVec.ofNat p.bits (rdPlace s p)).signExtend 64
        else (BitVec.ofNat p.bits (rdPlace s p)).setWidth 64) ∧
      (∀ r, r ≠ d.toNat → (getBank u c (bk == 1)).ra r = (getBank s c (bk == 1)).ra r) ∧
      ((getBank u c (bk == 1)).inflight.map fun y => y.id) =
        ((getBank s c (bk == 1)).inflight.map fun y => y.id).filter (fun y => y != x.id) ∧
      ∀ i, i ≠ c → getCore u i = getCore s i) ∧
  (∀ c bk k s x p sg q id, MayGo s c bk k x → x.op = .load sg → x.places = [p] → (∀ l o, p.tgt ≠ .node l o) →
    x.todo = [0] → x.got = [] → x.dest = .queue q id → x.pops = [] → 0 < p.bits → p.bits ≤ 64 → Canonical s →
    swf (getBank s c (bk == 1)).issue.queues 0 ([] : List QEntry) = true →
    ∃ u, exec (.accessComplete c bk k 0) s = .next u ∧ u.mem = s.mem ∧
      let v : Word := if sg then (BitVec.ofNat p.bits (rdPlace s p)).signExtend 64
        else (BitVec.ofNat p.bits (rdPlace s p)).setWidth 64
      (getBank u c (bk == 1)).queue q = ((getBank s c (bk == 1)).queue q).map fun e =>
        if !e.ready && e.id == id then { e with data := v.setWidth 4096, ready := true } else e) ∧
  (∀ c bk k j s x p q id w, MayGo s c bk k x → x.remote = false →
    (x.op = .loadVec ∧ w * x.places.length = 4096 ∧ (∀ r ∈ x.places, r.bits = w)) ∨
      (x.op = .gather ∧ w = 32 ∧ x.places.length = 128) →
    x.todo = [j] → x.places[j]? = some p → x.dest = .queue q id → q ∉ x.pops → Canonical s → swf x.got 0 (0 : Nat) = true →
    swf (getBank s c (bk == 1)).issue.queues 0 ([] : List QEntry) = true →
    ∃ u, ∃ d : Vec, exec (.accessComplete c bk k j) s = .next u ∧ u.mem = s.mem ∧
      (getBank u c (bk == 1)).queue q = ((getBank s c (bk == 1)).queue q).map (fun e =>
        if !e.ready && e.id == id then { e with data := d, ready := true } else e) ∧
      ∀ i, i < x.places.length → d.toNat / 2 ^ (w * i) % 2 ^ w = (if i = j then rdPlace s p else sget x.got i 0) % 2 ^ w) ∧
  (∀ c bk k j s x loc b bits keep, MayGo s c bk k x → Memory.wf s.mem = true →
    (x.op = .store ∨ x.op = .sto ∨ x.op = .scatter) → j ∈ x.todo →
    x.places[j]? = some ⟨.mem loc b, bits, keep⟩ → keep ≤ bits →
    ∃ u, exec (.accessComplete c bk k j) s = .next u ∧
      (x.op ≠ .scatter ∨ laneBeaten x j = false → rdBits u loc b keep = storeData x j % 2 ^ keep) ∧
      (x.op = .scatter → laneBeaten x j = true → u.mem = s.mem) ∧
      ∀ a, a < loc ∨ loc + (b + keep + 7) / 8 ≤ a → rdByte u a = rdByte s a) ∧
  (∀ c bk k s x p op w v z, MayGo s c bk k x → x.op = .atomic op w v z → x.places = [p] → (∀ l o, p.tgt ≠ .node l o) →
    x.todo = [0] →
    ∃ u, exec (.accessComplete c bk k 0) s = .next u ∧
      u.mem = match atomicNew op.toNat w p.bits (rdPlace s p) v.toNat z.toNat with
        | some n => (wrPlace s p n).mem
        | none => s.mem) ∧
  (∀ c bk k s x kk q id, MayGo s c bk k x → x.op = .expand kk → x.remote = false → x.dest = .queue q id → x.pops = [] →
    Canonical s → swf (getBank s c (bk == 1)).issue.queues 0 ([] : List QEntry) = true →
    let a : Word := x.data.setWidth 64
    let block := expandBlock a x.suit kk.toNat fun i =>
      readSector s (viewOf s c (bk == 1)) x.id (a + BitVec.ofNat 64 (32 * i)) x.suit
    (∀ n, block = .ok n → ∃ u, exec (.accessComplete c bk k 0) s = .next u ∧ u.mem = s.mem ∧
      (getBank u c (bk == 1)).queue q = ((getBank s c (bk == 1)).queue q).map fun e =>
        if !e.ready && e.id == id then { e with data := BitVec.ofNat 4096 n, ready := true } else e) ∧
    ∀ code addr pl su info, block = .error (.fault code addr pl su info) → (getBank s c (bk == 1)).lastIssued x = true →
      exec (.accessComplete c bk k 0) s = .next (failAccess s c (bk == 1) x code addr pl su info)) ∧
  (∀ c bk k j s x wr m, MayGo s c bk k x → x.op = .find wr m → x.sent = [] → Canonical s →
    let r := findLanes s (viewOf s c (bk == 1)) x wr m
    (∀ y cl, r = .ok (y, cl) → exec (.accessComplete c bk k j) s = .next (modBank s c (bk == 1) fun b =>
      { b.putEntry y with clamp := b.clamp || cl })) ∧
    ∀ code addr pl su info, r = .error (.fault code addr pl su info) → (getBank s c (bk == 1)).lastIssued x = true →
      exec (.accessComplete c bk k j) s = .next (failAccess s c (bk == 1) x code addr pl su info)) ∧
  (∀ s v x wr m y cl, findLanes s v x wr m = .ok (y, cl) → y.finding = false → y.op = (if wr then .scatter else .gather) ∧
    (∀ e ∈ x.resps, e.1 ∈ x.todo → failed e.2 = false) ∧ y.places.length = x.todo.length ∧ y.todo = x.todo ∧ y.data = x.data) ∧
  (∀ c bk k s x set f v m, MayGo s c bk k x → Canonical s → swf (getCluster s (c / 64)).flags 0 Flag.zero = true →
    x.op = .release set f v m → x.todo = [] →
    ∃ u, exec (.accessComplete c bk k 0) s = .next u ∧ u.mem = s.mem ∧
      (flagCell u (c / 64) f.toNat).val = (if set then v else (let x := flagCell s (c / 64) f.toNat
        (if x.valid = true ∧ x.tag = (getBank s c (bk == 1)).tenant then x.val else 0) + v)) ∧
      (flagCell u (c / 64) f.toNat).valid = true ∧ (flagCell u (c / 64) f.toNat).tag = (getBank s c (bk == 1)).tenant ∧
      (∀ g, g ≠ f.toNat → flagCell u (c / 64) g = flagCell s (c / 64) g) ∧
      ∀ i w, i / 64 = c / 64 → (getBank s i false).wait = .flag f w false → w ≤ (flagCell u (c / 64) f.toNat).val →
        (getBank u i false).wait = .flag f w true) ∧
  (∀ c bk k s x m, MayGo s c bk k x → x.op = .fence m → x.todo = [] →
    ∃ u, exec (.accessComplete c bk k 0) s = .next u ∧ u.mem = s.mem) ∧
  (∀ c bk k j i s x y, c < 1024 → (getBank s c (bk == 1)).inflight[k]? = some x → i < k →
    (getBank s c (bk == 1)).inflight[i]? = some y → holdsBack y x = true → exec (.accessComplete c bk k j) s = .next s) ∧
  (∀ y x sg, x.op = .load sg ∨ x.op = .store → y.op = .store →
    (holdsBack y x = true ↔ y.suit = x.suit ∧ ∃ n ∈ y.ahead, n ∈ x.nodes)) ∧
  (∀ y x m, x.op = .store → y.op = .fence m → holdsBack y x = m.getLsbD x.suit.toNat) ∧
  (∀ y x m, x.op = .fence m → y.op = .store → holdsBack y x = m.getLsbD y.suit.toNat)

/-- O41. Resolve of a generic address: a malformed one is RESERVED; a SPAD address of another core is FOREIGN, one past
the scratchpad RESERVED, one outside the context's banks DENIED; a CLUS address whose banks carry another owner tag is
DENIED; a CHIP address outside the windows is RESERVED and one that neither the view nor the grant allows DENIED; a NODE
address of another label names that node, and one of this node's own lies in FABWIN; a PRIV window is denied from its
size on, at its end where the access begins inside it; GLOBAL translates. Through a byte leaf only plane 0 exists and a
misaligned access is ILLEGAL/VALUE; through a position leaf an element stands in its frame at its number within it,
elements past POSCOUNT are clamped; the leaf's and the plane's permissions stand in the way of reads and writes (R187,
R188, R190-R193, R195, R217, R218, R222-R226). That a CHIP address outside the windows is RESERVED whatever the grant
says, and that the leaf's permission is told before the view's, are the model's readings (log 43). -/
def Obligations.AddressResolution : Prop :=
  (∀ s v x p n rd wr ln, aperture x = .malformed → resolve s v x p n rd wr ln = spaceFault 1 .malformed 0) ∧
  (∀ s v x p n rd wr ln, (aperture x = .spad ∨ aperture x = .clus ∨ aperture x = .chip) → x.toNat % alignOf n ≠ 0 →
    resolve s v x p n rd wr ln = .error (.fault .illegal 9 none)) ∧
  (∀ s v x n rd wr ln, aperture x = .spad → x.toNat % alignOf n = 0 →
    let core := x.toNat / 2 ^ 38 % 2 ^ 10
    let off := x.toNat % 2 ^ 19
    let mine := spadBanks off n fun b => bit (spadMask s v.core v.bank) b
    (0x80000 < off + n → resolve s v x 0 n rd wr ln = spaceFault 1 .spad core) ∧
    (off + n ≤ 0x80000 → core ≠ v.core → resolve s v x 0 n rd wr ln = spaceFault 2 .spad core) ∧
    (off + n ≤ 0x80000 → core = v.core → mine = false → resolve s v x 0 n rd wr ln = spaceFault 3 .spad core) ∧
    (off + n ≤ 0x80000 → core = v.core → mine = true →
      resolve s v x 0 n rd wr ln = .ok ⟨sectors (spadLoc core off) 0 (8 * n) (8 * n), n, n, false, []⟩)) ∧
  (∀ s v x p n rd wr ln, aperture x = .priv →
    let off := x.toNat % 2 ^ 32
    let t := translate s v ((v.privBase.toNat + off) % 2 ^ 48) p n rd wr ln
    (v.privSize.toNat ≤ off → resolve s v x p n rd wr ln = spaceFault 3 .priv 0) ∧
    (∀ e, off < v.privSize.toNat → t = .error e → resolve s v x p n rd wr ln = .error e) ∧
    ∀ f, off < v.privSize.toNat → t = .ok f →
      (v.privSize.toNat < off + f.past →
        resolve s v x p n rd wr ln = spaceFault 3 .priv 0 (some (0x8000000000000000 + v.privSize))) ∧
      (off + f.past ≤ v.privSize.toNat → resolve s v x p n rd wr ln = .ok f)) ∧
  (∀ s v x n rd wr ln, aperture x = .clus → x.toNat % alignOf n = 0 →
    let core := 64 * (v.core / 64) + x.toNat / 2 ^ 40 % 2 ^ 6
    let off := x.toNat % 2 ^ 19
    let owned := spadBanks off n fun b => sget (getCore s core).spadOwner b none == some v.tenant
    let mine := spadBanks off n fun b => bit (spadMask s v.core v.bank) b
    (0x80000 < off + n → resolve s v x 0 n rd wr ln = spaceFault 1 .clus core) ∧
    (off + n ≤ 0x80000 → owned = false → resolve s v x 0 n rd wr ln = spaceFault 3 .clus core) ∧
    (off + n ≤ 0x80000 → core = v.core → mine = false → resolve s v x 0 n rd wr ln = spaceFault 3 .clus core) ∧
    (off + n ≤ 0x80000 → owned = true → (core = v.core → mine = true) →
      resolve s v x 0 n rd wr ln = .ok ⟨sectors (spadLoc core off) 0 (8 * n) (8 * n), n, n, false, []⟩)) ∧
  (∀ s v x p n rd wr ln, aperture x = .spad ∨ aperture x = .clus ∨ aperture x = .chip → x.toNat % alignOf n = 0 → p ≠ 0 →
    resolve s v x p n rd wr ln = spaceFault 1 (aperture x)
      (if aperture x = .clus then 64 * (v.core / 64) + x.toNat / 2 ^ 40 % 2 ^ 6 else x.toNat / 2 ^ 38 % 2 ^ 10)) ∧
  (∀ s v x n rd wr ln, aperture x = .chip → x.toNat % alignOf n = 0 →
    let core := x.toNat / 2 ^ 38 % 2 ^ 10
    let kind := x.toNat / 2 ^ 35 % 8
    let off := x.toNat % 2 ^ 34
    let top := x.toNat.testBit 34
    let size := [0x80000, 0x6400, 0x280, 0x80000, 0x10000, 0x8000, 0, 0].getD kind 0
    let k := getCore s core
    let b := k.bank (chipBank k kind (x.toNat % 2 ^ 35))
    let inside : Prop := off + n ≤ size ∧ (top = false ∨ kind = 1 ∨ kind = 2)
    let granted : Prop := v.grant.getLsbD kind = true ∧ (wr = true → v.grant.getLsbD 8 = true) ∧
      (core / 64 = v.core / 64 ∨ v.grant.getLsbD 9 = true) ∧ b.st ≠ .empty ∧ b.tenant = v.tenant
    0 < n →
    (¬inside → resolve s v x 0 n rd wr ln = spaceFault 1 .chip core) ∧
    (inside → v.priv = false → ¬granted → resolve s v x 0 n rd wr ln = spaceFault 3 .chip core) ∧
    (inside → v.priv = true ∨ granted → resolve s v x 0 n rd wr ln = .ok
      ⟨if kind = 0 then sectors (spadLoc core off) 0 (8 * n) (8 * n)
        else [⟨.chip core kind (x.toNat % 2 ^ 35) 0, 8 * n, 8 * n⟩], n, n, false, []⟩)) ∧
  (∀ s v x p n rd wr ln, aperture x = .node →
    let label := x.toNat / 2 ^ 40 % 2 ^ 22
    let off := x.toNat % 2 ^ 40
    let size := s.fabric.winSize.toNat
    let t := translate s v ((s.fabric.winBase.toNat + off) % 2 ^ 48) p n rd wr ln
    (label ≠ s.fabric.label.toNat → resolve s v x p n rd wr ln =
      .ok ⟨[⟨.node (BitVec.ofNat 22 label) (BitVec.ofNat 40 off), 8 * n, 8 * n⟩], n, n, false, []⟩) ∧
    (label = s.fabric.label.toNat →
      (size ≤ off → resolve s v x p n rd wr ln = spaceFault 3 .node 0) ∧
      (∀ e, off < size → t = .error e → resolve s v x p n rd wr ln = .error e) ∧
      ∀ f, off < size → t = .ok f →
        (size < off + f.past → resolve s v x p n rd wr ln =
          spaceFault 3 .node 0 (some (BitVec.ofNat 64 (3 * 2 ^ 62 + label * 2 ^ 40 + size)))) ∧
        (off + f.past ≤ size → resolve s v x p n rd wr ln = .ok f))) ∧
  (∀ s v x p n rd wr ln, aperture x = .global →
    resolve s v x p n rd wr ln = translate s v (x.toNat % 2 ^ 48) p n rd wr ln) ∧
  (∀ s v va p n rd wr ln level leaf psd wk, walk s v va = .ok ⟨level, leaf, psd, wk⟩ → leaf / 4 % 2 = 0 →
    let base := va / 2 ^ leafShift level * 2 ^ leafShift level
    let pa := leaf / 2 ^ 12 % 2 ^ 28 * 4096 + (va - base)
    (p ≠ 0 → translate s v va p n rd wr ln = xfault .planeAbsent 1) ∧
    (va % alignOf n ≠ 0 → translate s v va 0 n rd wr ln = xfault .illegal 9) ∧
    (∀ e, va % alignOf n = 0 → permitted v leaf none rd wr = .error e → translate s v va 0 n rd wr ln = .error e) ∧
    (va % alignOf n = 0 → permitted v leaf none rd wr = .ok () →
      (backed s pa = true → backed s (pa + n - 1) = true → translate s v va 0 n rd wr ln =
        .ok ⟨sectors pa 0 (8 * n) (8 * n), n, n, false, [.leaf (BitVec.ofNat 48 base) (BitVec.ofNat 2 level) none wk]⟩) ∧
      (backed s pa = false ∨ backed s (pa + n - 1) = false → translate s v va 0 n rd wr ln = gap 1 0))) ∧
  (∀ s v va p n rd wr ln level leaf psd wk, walk s v va = .ok ⟨level, leaf, psd, wk⟩ → leaf / 4 % 2 = 1 →
    let id := leaf / 2 ^ 48 % 2 ^ 16
    let w := planeWidth (psdAttr psd p)
    let g := if (psdAttr psd p).testBit 3 then 64 else 1
    let base := va / 2 ^ leafShift level * 2 ^ leafShift level
    let pos := 4096 * (leaf / 2 ^ 12 % 2 ^ 36) + (va - base)
    let c := if ln then 1 else 8 * n / w
    let u := pos / g
    let code := psdAttr psd p / 2 ^ (6 + 2 * (v.xlat.view.toNat % 4)) % 4
    let keep := min c ((psdPosCount psd + g - 1) / g - u)
    (psdPlanes psd ≤ p → translate s v va p n rd wr ln = xfault .planeAbsent (faultInfo 2 0 id)) ∧
    (p < psdPlanes psd →
      ((ln = false ∧ 8 * n < w) ∨ u % c ≠ 0 → translate s v va p n rd wr ln = xfault .illegal 9) ∧
      ((ln = true ∨ w ≤ 8 * n) → u % c = 0 →
        (psdPosCount psd ≤ pos → translate s v va p n rd wr ln = xfault .bounds (faultInfo 0 0 id pos)) ∧
        (pos < psdPosCount psd →
          (∀ e, permitted v leaf (some code) rd wr = .error e → translate s v va p n rd wr ln = .error e) ∧
          ∀ fr pa, permitted v leaf (some code) rd wr = .ok () → frameOf s v id psd p w (u / 4096) = .ok (fr, pa) →
            translate s v va p n rd wr ln = .ok ⟨sectors (fr + u % 4096 * w / 8) (u % 4096 * w % 8) (c * w) (keep * w),
              c * g, c * g - pos % g, decide (keep < c), [.leaf (BitVec.ofNat 48 base) (BitVec.ofNat 2 level)
                (some (BitVec.ofNat 16 id)) wk, .frame (BitVec.ofNat 16 id) pa]⟩)))) ∧
  (∀ v leaf code,
    (leaf.testBit 4 = false → permitted v leaf code false true = permission true v false) ∧
    (leaf.testBit 3 = false → permitted v leaf code true false = permission false v false) ∧
    (leaf.testBit 4 = true → permitted v leaf none false true = .ok () ∧ permitted v leaf (some 3) false true = .ok () ∧
      ∀ k, k ≠ 3 → permitted v leaf (some k) false true = permission true v true) ∧
    (leaf.testBit 3 = true → permitted v leaf none true false = .ok () ∧ permitted v leaf (some 0) true false =
      permission false v true ∧ ∀ k, k ≠ 0 → permitted v leaf (some k) true false = .ok ())) ∧
  (∀ s v va (r : Reading) e,
    let n := r.level.toNat
    let table := if n = 4 then v.xlat.root.toNat / 4096 * 4096 else r.table.toNat
    0 < n → n < 5 → readStruct s (table + 8 * (va / 2 ^ leafShift n % 512)) 8 n = .ok e →
    (e.testBit 0 = false → readOn s v va r = gap 0 n) ∧
    (e.testBit 0 = true → entryBad n e = true → readOn s v va r = gap 2 n) ∧
    (e.testBit 0 = true → entryBad n e = false → e.testBit 1 = true →
      (e.testBit 2 = false → readOn s v va r = .ok (.inr (n, e, 0))) ∧
      (e.testBit 2 = true → v.xlat.psdn.toNat ≤ e / 2 ^ 48 % 2 ^ 16 → readOn s v va r = gap 3 n) ∧
      (e.testBit 2 = true → e / 2 ^ 48 % 2 ^ 16 < v.xlat.psdn.toNat →
        readOn s v va r = .ok (.inl ⟨5, 0, BitVec.ofNat 64 e, BitVec.ofNat 2 n⟩))) ∧
    (e.testBit 0 = true → entryBad n e = false → e.testBit 1 = false →
      readOn s v va r = .ok (.inl ⟨r.level - 1, BitVec.ofNat 64 (e / 2 ^ 12 % 2 ^ 28 * 4096), 0, 0⟩))) ∧
  (∀ s v va (r : Reading) d, r.level = 5 →
    readStruct s (v.xlat.psdt.toNat / 64 * 64 + 64 * (r.leaf.toNat / 2 ^ 48)) 64 5 = .ok d →
    readOn s v va r = if psdBad d then gap 3 r.leafLevel.toNat else .ok (.inr (r.leafLevel.toNat, r.leaf.toNat, d))) ∧
  (∀ s v va k r, (∀ e, readOn s v va r = .error e → walkFrom s v va (k + 1) r = .error e) ∧
    (∀ q, readOn s v va r = .ok (.inl q) → walkFrom s v va (k + 1) r = walkFrom s v va k q) ∧
    ∀ x, readOn s v va r = .ok (.inr x) → walkFrom s v va (k + 1) r = .ok x)

/-! ### Synchronisation and system words -/

/-- O42. Flag words: FLAGSET and FLAGADD take over a cell that is not the tenant's at 0 and issue an access that writes
it once the covered suits have performed; FLAGWAIT, after taking it over likewise, passes where the cell has its value,
and else once a write has brought it there; a cell that another tenant running in the cluster owns faults SPACE/DENIED
(R336-R339). The other fields of that record are the model's reading (log 18). That the take-over comes at issue is the
model's choice (log 56). QPUSH puts its event behind those of the target core's EVQ, discards it where no context of the
launch runs there, and faults ILLEGAL/VALUE on a bad number or kind (R340). -/
def Obligations.FlagAndEventWords : Prop :=
  (∀ r ∈ [(Instr.aFlagset, true), (Instr.aFlagadd, false)], ∀ t f i s, Ready (r.1 t f i) .a t s →
    let v := flagKx i ((curBank s s.core).kxOf .a)
    (flagDenied s f = false → exec (r.1 t f i) s = .next (accessed (takeFlag s f) (curBank (takeFlag s f) s.core) t
      (.release r.2 f v.1 v.2) 0 0 ⟨[], false, [], []⟩ 0 .none [] [])) ∧
    (flagDenied s f = true → exec (r.1 t f i) s = finish s .a (r.1 t f i) (plainFault .space 3))) ∧
  (∀ t f i s, Ready (.aFlagwait t f i) .a t s →
    let v := (flagKx i ((curBank s s.core).kxOf .a)).1
    let x := flagCell s (s.core / 64) f.toNat
    let mine : Flag := if x.valid = true ∧ x.tag = (curBank s s.core).tenant then x else ⟨0, (curBank s s.core).tenant, true⟩
    ((∀ g w m, (curBank s s.core).wait ≠ .flag g w m) →
      (takeFlag s f = if x.valid = true ∧ x.tag = (curBank s s.core).tenant then s else setFlag s (s.core / 64) f.toNat mine) ∧
      (flagDenied s f = false → v ≤ mine.val → swf s.clusters 0 Cluster.zero = true →
        swf (getCluster s (s.core / 64)).flags 0 Flag.zero = true →
        exec (.aFlagwait t f i) s = .next (passed (takeFlag s f) .a t)) ∧
      (flagDenied s f = false → mine.val < v → swf s.clusters 0 Cluster.zero = true →
        swf (getCluster s (s.core / 64)).flags 0 Flag.zero = true →
        exec (.aFlagwait t f i) s = .next (stay (modCur (takeFlag s f) s.core fun b => { b with wait := .flag f v false }) .a)) ∧
      (flagDenied s f = true → exec (.aFlagwait t f i) s = finish s .a (.aFlagwait t f i) (plainFault .space 3))) ∧
    (∀ g w, (curBank s s.core).wait = .flag g w true →
      exec (.aFlagwait t f i) s = .next (passed (modCur s s.core fun b => { b with wait := .none }) .a t)) ∧
    (∀ g w, (curBank s s.core).wait = .flag g w false → exec (.aFlagwait t f i) s = .next (stay s .a))) ∧
  (∀ (i : BitVec 12) p, flagKx i none = (i.setWidth 32, 0xFFFF) ∧
    flagKx i (some p) = ((p.extractLsb' 16 6 ++ i).setWidth 32, p.extractLsb' 0 16)) ∧
  (∀ t a b s x v, Ready (.aQpush t a b) .a t s → (curBank s s.core).useA a.toNat = .ok x → (curBank s s.core).useA b.toNat = .ok v →
    (63 < x.toNat ∨ v.toNat / 2 ^ 56 < 0x80 → exec (.aQpush t a b) s = finish s .a (.aQpush t a b) badValue) ∧
    (x.toNat ≤ 63 → 0x80 ≤ v.toNat / 2 ^ 56 → (curBank s s.core).inflight = [] →
      let c := 64 * (s.core / 64) + x.toNat
      (∀ n, (curBank s s.core).launch = some n → (getBank s c false).launch = some n → (getBank s c false).st ≠ .empty →
        (getBank s c false).evq.length < 64 →
        exec (.aQpush t a b) s = .next (passed (modBank s c false fun b => { b with evq := b.evq ++ [v] }) .a t)) ∧
      (∀ n, (curBank s s.core).launch = some n → ((getBank s c false).launch ≠ some n ∨ (getBank s c false).st = .empty) →
        exec (.aQpush t a b) s = .next (passed s .a t)) ∧
      ((curBank s s.core).launch = none → exec (.aQpush t a b) s = .next (passed s .a t))))

/-- O43. Words that wait for earlier work: TRICK ends its wait once what its mask names, accepted before it, is over;
DRAIN passes with no job of its channel and context, raising a recorded error; RFENCE once no job names another node and
no write packet is unsent or unacknowledged; ROUND makes the context wait at the round; WNEXT asks the shoe, which
answers, in the rotating order of the cores that ask, with the next index, or with 2^64 - 1 (R99, R104, R107, R136,
R244, R312, R335, R341). That an A.WNEXT of a RANGE launch moves CPTR, and that one which gets no index does not, is the
model's choice (log 49). -/
def Obligations.WaitingWords : Prop :=
  (∀ t m s, Ready (.aTrick t m) .a t s → (∀ k, (curBank s s.core).wait ≠ .trick k) → swf s.cores 0 Core.zero = true →
    let u := modCur (counted s) s.core fun b => { b with wait := .trick s.seq }
    (trickClear u s.core s.seq m = true → (m.getLsbD 8 = true → (getCore u s.core).collErr = none) →
      exec (.aTrick t m) s = .next (passed (modCur u s.core fun b => { b with wait := .none }) .a t)) ∧
    (trickClear u s.core s.seq m = false → exec (.aTrick t m) s = .next (stay u .a))) ∧
  (∀ t m s k, Ready (.aTrick t m) .a t s → (curBank s s.core).wait = .trick k → trickClear s s.core k m = true →
    (m.getLsbD 8 = true → (getCore s s.core).collErr = none) → swf s.cores 0 Core.zero = true →
    exec (.aTrick t m) s = .next (passed (modCur s s.core fun b => { b with wait := .none }) .a t)) ∧
  (∀ s c k m, trickClear s c k m = true →
    (∀ j ∈ (getCore s c).jobs, j.id < k → (j.kind = .copy → m.getLsbD j.chan.toNat = false) ∧
      (j.kind = .coll → m.getLsbD 8 = false) ∧ (j.kind = .swap → m.getLsbD 9 = false)) ∧
    (m.getLsbD 10 = true → ∀ x ∈ (getCore s c).inQueue, k ≤ x.id)) ∧
  (∀ t c s, Ready (.aDrain t c) .a t s →
    (∀ j ∈ (getCore s s.core).jobs, j.kind = .copy → j.ctx = (curBank s s.core).ctx → j.chan ≠ c) →
    (sget (getCore s s.core).errs c.toNat none = none → exec (.aDrain t c) s = .next (passed s .a t)) ∧
    ∀ r, sget (getCore s s.core).errs c.toNat none = some r → exec (.aDrain t c) s = .next (stay (raiseFault
      (modCore s s.core fun k => { k with errs := sset k.errs c.toNat none none }) s.core
      { r with engine := 0, pc := (curBank s s.core).pcOf .a, info := raisedInfo r c.toNat } none) .a)) ∧
  (∀ t c s j, Ready (.aDrain t c) .a t s → j ∈ (getCore s s.core).jobs → j.kind = .copy → j.chan = c →
    j.ctx = (curBank s s.core).ctx → exec (.aDrain t c) s = .next (stay s .a)) ∧
  (∀ t s, Ready (.aRfence t) .a t s → (∀ j ∈ (getCore s s.core).jobs, j.kind ≠ .swap → j.nodes = []) →
    (getCore s s.core).bank0.sendsWrites = false → (getCore s s.core).bank1.sendsWrites = false →
    (getCore s s.core).pathTotal = 0 → exec (.aRfence t) s = .next (passed s .a t)) ∧
  (∀ t s, Ready (.aRfence t) .a t s → (getCore s s.core).pathTotal ≠ 0 → exec (.aRfence t) s = .next (stay s .a)) ∧
  (∀ y s n l, Ready (.round y) s.engine 0 s → (curBank s s.core).joined = true → (curBank s s.core).launch = some n →
    getLaunch s n = some l → roundBad l (y + 1) = false → ownPartDone s s.core ((curBank s s.core).round.count.toNat + 1) = true →
    exec (.round y) s = .next (modCur (setLaunch s n (some { l with roundScope := y + 1 })) s.core fun b =>
      { b with round := { b.round with waiting := true, scope := y + 1 } })) ∧
  (∀ y s n l, Ready (.round y) s.engine 0 s → (curBank s s.core).joined = true → (curBank s s.core).launch = some n →
    getLaunch s n = some l → roundBad l (y + 1) = true → exec (.round y) s = finish s s.engine (.round y) badValue) ∧
  (∀ t d s, Ready (.aWnext t d) .a t s → (∀ x y, (curBank s s.core).wait ≠ .wnext x y) →
    exec (.aWnext t d) s = .next (stay (modCur s s.core fun b => { b with wait := .wnext d t }) .a)) ∧
  (∀ c s d t n l p l2, c < 1024 → (curBank s c).wait = .wnext d t → canIssue (getCore s c) (curBank s c) .a = true →
    (curBank s c).launch = some n → getLaunch s n = some l → l.nextIndex c = some (p, l2) →
    wnextTurn s n c l = true →
    exec (.wnextServed c) s = .next (modCur (moveCptr (setLaunch s n (some l2)) c) c fun b =>
      leaveWord .a t false none (((indexWrites l2.kern .cores p).foldl (fun (b : Bank) w => b.wa w.1 w.2) { b with wait := .none }).wa
        d.toNat (BitVec.ofNat 64 p)))) ∧
  (∀ c s d t n l, c < 1024 → (curBank s c).wait = .wnext d t → canIssue (getCore s c) (curBank s c) .a = true →
    (curBank s c).launch = some n → getLaunch s n = some l → l.nextIndex c = none →
    wnextTurn s n c l = true →
    exec (.wnextServed c) s = .next (modCur s c fun b =>
      leaveWord .a t false none (({ b with wait := .none } : Bank).wa d.toNat 0xFFFFFFFFFFFFFFFF))) ∧
  (∀ c s d t n l e, c < 1024 → (curBank s c).wait = .wnext d t → (curBank s c).launch = some n → getLaunch s n = some l →
    recRange l.record = false → e < 1024 →
    (e + 1024 - s.shoe.cptr.toNat) % 1024 < (c + 1024 - s.shoe.cptr.toNat) % 1024 → asksDeal s n e = true →
    exec (.wnextServed c) s = .next s)

/-- O44. The next index: a DEAL launch hands out its iterations in order (R98, R99). A RANGE launch takes the lowest of
the core's own range; a core with none cuts the range of the first core around the ring that has two left, taking its
upper half rounded down (R103). -/
def Obligations.NextIndex : Prop :=
  (∀ (l : Launch) c, recRange l.record = false → l.next < l.total →
    l.nextIndex c = some (l.next, { l with next := l.next + 1 })) ∧
  (∀ (l : Launch) c, recRange l.record = false → l.total ≤ l.next → l.nextIndex c = none) ∧
  (∀ (l : Launch) c, recRange l.record = true → sget l.lo c 0 < sget l.hi c 0 →
    l.nextIndex c = some (sget l.lo c 0, { l with lo := sset l.lo c (sget l.lo c 0 + 1) 0 })) ∧
  (∀ (l : Launch) c, recRange l.record = true → sget l.hi c 0 ≤ sget l.lo c 0 →
    (∀ i, i < 63 → sget l.hi (64 * (c / 64) + (c + 1 + i) % 64) 0 < sget l.lo (64 * (c / 64) + (c + 1 + i) % 64) 0 + 2) →
    l.nextIndex c = none) ∧
  (∀ (l : Launch) c k, c < 1024 → recRange l.record = true → sget l.hi c 0 ≤ sget l.lo c 0 → k < 63 →
    swf l.lo 0 0 = true → swf l.hi 0 0 = true →
    let v := 64 * (c / 64) + (c + 1 + k) % 64
    (∀ i, i < k → sget l.hi (64 * (c / 64) + (c + 1 + i) % 64) 0 < sget l.lo (64 * (c / 64) + (c + 1 + i) % 64) 0 + 2) →
    sget l.lo v 0 + 2 ≤ sget l.hi v 0 →
    ∃ u, l.nextIndex c = some (sget l.lo v 0 + (sget l.hi v 0 - sget l.lo v 0 + 1) / 2, u) ∧
      sget u.hi v 0 = sget l.lo v 0 + (sget l.hi v 0 - sget l.lo v 0 + 1) / 2 ∧ sget u.lo v 0 = sget l.lo v 0 ∧
      sget u.lo c 0 = sget l.lo v 0 + (sget l.hi v 0 - sget l.lo v 0 + 1) / 2 + 1 ∧ sget u.hi c 0 = sget l.hi v 0 ∧
      ∀ w, w ≠ v → w ≠ c → sget u.lo w 0 = sget l.lo w 0 ∧ sget u.hi w 0 = sget l.hi w 0)

/-- O45. CSRR reads a CSR, whose fields hold what the machine does (CORE.ID, SLIPWIN, STEP, TOK, LC, FAULT, TRAP,
CTX.STAT, XRM, XSEED, XFLAGS, the tempo CSRs), and CSRW writes its writable fields; a privileged CSR in an unprivileged
context faults PRIVILEGE, a CSR with nothing to write or a value that its entry does not accept ILLEGAL/VALUE (R110,
R124, R125, R163, R196, R216, R240, R257, R294, R348, R367). XLAT.STAT.CLAMP and the clamp bits of COPY.STAT clear where
a 1 is written. That CSRR reads TOK after its own pops is the model's reading (log 42), that it accepts a PSDN above
65,536 its choice (log 43). -/
def Obligations.CsrWords : Prop :=
  (∀ t d c s, Ready (.aCsrr t d c) .a t s → (csrPrivileged c.toNat = true → (curBank s s.core).priv = true) →
    exec (.aCsrr t d c) s = .next (passed (putCur s ((curBank s s.core).wa d.toNat
      (csrAtIssue s t c.toNat))) .a t)) ∧
  (∀ s t, swf s.cores 0 Core.zero = true →
    let b := curBank s s.core
    let r := csrAtIssue s t
    let n := BitVec.ofNat 64
    (r 0x010 = n b.slipwin.toNat ∧ r 0x011 = b.issue.steps.a ∧ r 0x012 = b.issue.steps.x ∧ r 0x013 = b.issue.steps.m ∧
      (∀ k lo, (k, lo) ∈ [(0, 0), (3, 4), (4, 8), (2, 12), (5, 16), (1, 20)] →
        (r 0x014).extractLsb' lo 4 = (b.popToks .a t).tok k) ∧ (r 0x014).toNat < 2 ^ 24 ∧
      ∀ l, l < 16 → r (0x020 + l) = n (loopOf b.issue .a l).lc.toNat) ∧
    (r 0x040 = n b.fault.code.toNat ∧ r 0x041 = n b.fault.engine.toNat ∧ r 0x042 = b.fault.pc ∧ r 0x043 = b.fault.addr ∧
      r 0x044 = n b.fault.plane.toNat ∧ r 0x045 = n b.fault.suit.toNat ∧ r 0x046 = b.fault.info ∧
      r 0x048 = n (b.trapActive.toNat + 2 * b.trapSkip.toNat) ∧ r 0x049 = b.rpc.a ∧ r 0x04A = b.rpc.x ∧ r 0x04B = b.rpc.m) ∧
    r 0x050 = n ((getCore s s.core).active.toNat + 2 * b.priv.toNat +
      4 * (getBank s s.core !(getCore s s.core).active).svcWaits.toNat + 2 ^ 16 * b.tenant.toNat) ∧
    (r 0x060 = n b.xrm.toNat ∧ r 0x061 = n b.xseed.toNat ∧ r 0x062 = n b.xflags.toNat) ∧
    (r 0x070 = n s.core ∧ r 0x071 = n b.chipGrant.toNat ∧ r 0x072 = b.privBase ∧ r 0x073 = b.privSize ∧
      r 0x074 = s.fabric.winBase ∧ r 0x075 = s.fabric.winSize ∧ r 0x076 = n s.fabric.label.toNat) ∧
    (r 0x080 = b.xlat.root ∧ r 0x081 = b.xlat.psdt ∧ r 0x082 = b.xlat.psdn ∧ r 0x083 = b.xlat.view ∧ r 0x084 = n b.clamp.toNat) ∧
    (r 0x0A0 = n b.handlen.toNat ∧
      r 0x0A3 = n (b.mat.shapeM.toNat + 2 ^ 8 * b.mat.shapeN.toNat + 2 ^ 16 * b.mat.shapeK.toNat)) ∧
    (r 0x0B0 = n b.tempo.beat.toNat ∧ r 0x0B1 = n b.tempo.miss.toNat ∧
      r 0x0B2 = n (b.tempo.policy.toNat + 2 ^ 8 * b.tempo.maxMiss.toNat + 2 ^ 16 * b.tempo.consec.toNat) ∧
      r 0x0B3 = n b.tempo.looka.toNat ∧ r 0x0B4 = n b.tempo.lookb.toNat ∧ r 0x0B5 = n b.tempo.lookd.toNat ∧
      r 0x0B6 = n (b.tempo.st.toNat + 2 ^ 4 * b.tempo.cause.toNat + 2 ^ 8 * b.tempo.pvalid.toNat + 2 ^ 9 * b.tempo.pacc.toNat +
        2 ^ 16 * b.tempo.kprog.toNat + 2 ^ 32 * b.tempo.lost.toNat))) ∧
  (∀ t d c s, Ready (.aCsrr t d c) .a t s → csrPrivileged c.toNat = true → (curBank s s.core).priv = false →
    exec (.aCsrr t d c) s = finish s .a (.aCsrr t d c) (plainFault .privilege 0)) ∧
  (∀ t d c s v, Ready (.aCsrw t d c) .a t s → (curBank s s.core).useA d.toNat = .ok v →
    (csrPrivileged c.toNat = true → (curBank s s.core).priv = false →
      exec (.aCsrw t d c) s = finish s .a (.aCsrw t d c) (plainFault .privilege 0)) ∧
    ((csrPrivileged c.toNat = true → (curBank s s.core).priv = true) →
      (csrWritable c.toNat = false ∨ csrAccepts (curBank s s.core) c.toNat v = false →
        exec (.aCsrw t d c) s = finish s .a (.aCsrw t d c) badValue) ∧
      (csrWritable c.toNat = true → csrAccepts (curBank s s.core) c.toNat v = true →
        exec (.aCsrw t d c) s = .next (passed (csrWrite s c.toNat v) .a t)))) ∧
  (∀ s v, swf s.cores 0 Core.zero = true →
    (curBank (csrWrite s 0x010 v) s.core).slipwin = v.setWidth 13 ∧
    (curBank (csrWrite s 0x061 v) s.core).xseed = v.setWidth 32 ∧
    (curBank (csrWrite s 0x071 v) s.core).chipGrant = v.setWidth 10 &&& 0x33F ∧
    (csrWrite s 0x074 v).fabric.winBase = v ∧ (csrWrite s 0x075 v).fabric.winSize = v ∧
    (curBank (csrWrite s 0x080 v) s.core).xlat.root = v ∧ (curBank (csrWrite s 0x081 v) s.core).xlat.psdt = v ∧
    (curBank (csrWrite s 0x082 v) s.core).xlat.psdn = v ∧ (curBank (csrWrite s 0x083 v) s.core).xlat.view = v ∧
    (curBank (csrWrite s 0x0A0 v) s.core).handlen = v.setWidth 9 ∧
    ((curBank s s.core).trapActive = true → (curBank (csrWrite s 0x048 v) s.core).trapSkip = v.getLsbD 1 ∧
      (curBank (csrWrite s 0x049 v) s.core).rpc.a = v ∧ (curBank (csrWrite s 0x04A v) s.core).rpc.x = v ∧
      (curBank (csrWrite s 0x04B v) s.core).rpc.m = v) ∧
    ((curBank s s.core).trapActive = false → ∀ n ∈ [0x048, 0x049, 0x04A, 0x04B],
      curBank (csrWrite s n v) s.core = curBank s s.core) ∧
    (curBank (csrWrite s 0x084 v) s.core).clamp = ((curBank s s.core).clamp && !v.getLsbD 0) ∧
    (getCore (csrWrite s 0x090 v) s.core).clamps = (getCore s s.core).clamps &&& ~~~v.setWidth 8 ∧
    (getCore (csrWrite s 0x090 v) s.core).cclamp = ((getCore s s.core).cclamp && !v.getLsbD 23)) ∧
  (∀ b v, (csrAccepts b 0x010 v = true ↔ 16 ≤ v.toNat % 2 ^ 13 ∧ v.toNat % 2 ^ 13 ≤ 4096) ∧
    (csrAccepts b 0x0A0 v = true ↔ 1 ≤ v.toNat % 2 ^ 9 ∧ v.toNat % 2 ^ 9 ≤ 256) ∧
    ∀ n ∈ [0x049, 0x04A, 0x04B], (csrAccepts b n v = true ↔ v.toNat % 4 = 0 ∧ v.toNat < b.textEnd)) ∧
  (∀ n, csrPrivileged n = true ↔ n = 0x071 ∨ n = 0x074 ∨ n = 0x075 ∨ (0x080 ≤ n ∧ n ≤ 0x083)) ∧
  ∀ s n v, (csrWrite s n v).mem = s.mem ∧ ∀ i, i ≠ s.core → getCore (csrWrite s n v) i = getCore s i

/-- O46. TLBI removes every cached translation it covers and completes once no earlier walk is left and no earlier
access, job or feed that used a covered entry; REMAP of an idle channel makes ILV the LIVE map, every byte of the
channel zero and no sector poisoned, and changes no other byte; LQBIND binds or unbinds a populated port with empty
queues. Bad operands fault ILLEGAL/VALUE (R319, R364-R366). What counts as using an entry is log 16. -/
def Obligations.SystemWords : Prop :=
  (∀ t k a b s x y, Ready (.aTlbi t k a b) .a t s → (∀ d z m tn mk, (curBank s s.core).wait ≠ .tlbi d z m tn mk) →
    (curBank s s.core).useA a.toNat = .ok x → (curBank s s.core).useA b.toNat = .ok y →
    let n := y.toNat % 2 ^ 32
    let ten := if y.getLsbD 48 then none else some (y.extractLsb' 32 16)
    let good := (k = 0 ∧ x.toNat / 2 ^ 48 = 0 ∧ x.toNat % 2 ^ 12 = 0) ∨ (k = 1 ∧ x.toNat / 2 ^ 16 = 0 ∧ n = 0) ∨
      (k ≠ 0 ∧ k ≠ 1 ∧ x = 0 ∧ n = 0)
    let u := counted (invalidate s k.toNat x.toNat n ten)
    let d : Shoot := ⟨k.toNat, x.toNat, n, ten, s.seq⟩
    ((y.toNat / 2 ^ 49 ≠ 0 ∨ ¬good) → exec (.aTlbi t k a b) s = finish s .a (.aTlbi t k a b) badValue) ∧
    (y.toNat / 2 ^ 49 = 0 → good → k = 0 → n = 0 → exec (.aTlbi t k a b) s = .next (passed s .a t)) ∧
    (y.toNat / 2 ^ 49 = 0 → good → (k ≠ 0 ∨ n ≠ 0) →
      (shootDone u d = true → exec (.aTlbi t k a b) s = .next (passed u .a t)) ∧
      (shootDone u d = false → exec (.aTlbi t k a b) s = .next (stay (modCur u s.core fun b =>
        { b with wait := .tlbi k.toNat x.toNat n ten (s.seq + 1) }) .a)))) ∧
  (∀ t k a b s d, Ready (.aTlbi t k a b) .a t s → (curBank s s.core).wait = .tlbi d.kind d.x d.n d.ten d.mark →
    (d.mark = 0 ∨ shootDone s d = true → exec (.aTlbi t k a b) s =
      .next (passed (modCur s s.core fun b => { b with wait := .none }) .a t)) ∧
    (d.mark ≠ 0 → shootDone s d = false → exec (.aTlbi t k a b) s = .next (stay s .a))) ∧
  (∀ s d, shootDone s d = true →
    (∀ p ∈ s.cores, (∀ x ∈ p.2.bank0.inflight, d.holds p.2.bank0.tenant x.id x.uses = false) ∧
      (∀ x ∈ p.2.bank1.inflight, d.holds p.2.bank1.tenant x.id x.uses = false) ∧
      ∀ j ∈ p.2.jobs, d.holds j.tenant j.id (j.uses ++ j.walked.flatMap Walked.used) = false) ∧
    ∀ p ∈ s.clusters, ∀ w ∈ p.2.walks, d.mark ≤ w.id) ∧
  (∀ s k x n ten c, swf s.cores 0 Core.zero = true → swf s.tables 0 Table.zero = true →
    (∀ e, e ∈ (getCore (invalidate s k x n ten) c).tlb ↔ e ∈ (getCore s c).tlb ∧ coversLeaf k x n ten e = false) ∧
    (∀ e, e ∈ (getTable (invalidate s k x n ten) c).tlb ↔ e ∈ (getTable s c).tlb ∧ coversLeaf k x n ten e = false) ∧
    (∀ e, e ∈ (getTable (invalidate s k x n ten) c).pfc ↔ e ∈ (getTable s c).pfc ∧ coversFrame k x ten e = false)) ∧
  (∀ c s d, c < 1024 → (curBank s c).wait = .tlbi d.kind d.x d.n d.ten d.mark → shootDone s d = true →
    exec (.shootdownComplete c) s = .next (modCur s c fun b => { b with wait := .tlbi d.kind d.x d.n d.ten 0 })) ∧
  (∀ t a s x, Ready (.aRemap t a) .a t s → (∀ m n, (curBank s s.core).wait ≠ .remap m n) →
    (curBank s s.core).useA a.toNat = .ok x →
    (1023 < x.toNat → exec (.aRemap t a) s = finish s .a (.aRemap t a) badValue) ∧
    (x.toNat ≤ 1023 → channelIdle (counted s) x.toNat s.seq = true →
      exec (.aRemap t a) s = .next (passed (reform (counted s) x.toNat) .a t)) ∧
    (x.toNat ≤ 1023 → channelIdle (counted s) x.toNat s.seq = false →
      exec (.aRemap t a) s = .next (stay (modCur (counted s) s.core fun b => { b with wait := .remap x.toNat (s.seq + 1) }) .a))) ∧
  (∀ c s ch m, c < 1024 → (curBank s c).wait = .remap ch m → m ≠ 0 → channelIdle s ch m = true →
    exec (.remapComplete c) s = .next (modCur (reform s ch) c fun b => { b with wait := .remap ch 0 })) ∧
  (∀ s ch, Memory.wf s.mem = true → swf s.near 0 Near.zero = true →
    (nearMap (reform s ch) ch).ilv = (nearMap s ch).live ∧ (nearMap (reform s ch) ch).live = (nearMap s ch).live ∧
    (∀ a, a / 2 ^ 27 = ch → rdByte (reform s ch) a = 0 ∧ poisoned (reform s ch) a = false) ∧
    (∀ a, a / 2 ^ 27 ≠ ch → rdByte (reform s ch) a = rdByte s a)) ∧
  (∀ t d a b s x y, Ready (.aLqbind t d a b) .a t s → (curBank s s.core).useA a.toNat = .ok x →
    (curBank s s.core).useA b.toNat = .ok y → x.toNat < 2 ^ 8 → y.toNat < 2 ^ 32 → (x.getLsbD 6 = false → y.toNat % 2 ^ 16 ≠ 0) →
    s.disc.ports.getLsbD d.toNat = true →
    exec (.aLqbind t d a b) s = .next (passed (modPort { s with cores := smap s.cores Core.zero (markStale d.toNat) } d.toNat
      fun p => p.rebind x y) .a t)) ∧
  (∀ t d a b s x y, Ready (.aLqbind t d a b) .a t s → (curBank s s.core).useA a.toNat = .ok x →
    (curBank s s.core).useA b.toNat = .ok y → (2 ^ 8 ≤ x.toNat ∨ 2 ^ 32 ≤ y.toNat ∨ (x.getLsbD 6 = false ∧ y.toNat % 2 ^ 16 = 0)) →
    exec (.aLqbind t d a b) s = finish s .a (.aLqbind t d a b) badValue) ∧
  ∀ p x y, let q := Port.rebind p x y
    q.inq = [] ∧ q.outq = [] ∧ q.txNum = 0 ∧ q.rxNum = 0 ∧ q.credit = 0 ∧ q.mism = 0 ∧ q.lost = false ∧
    q.bound = !x.getLsbD 6 ∧ ((p.st = 2 ∨ p.st = 3) → q.notice = some (!x.getLsbD 6) ∧ q.noticeDue = false) ∧
    (p.st ≠ 2 → p.st ≠ 3 → q.noticeDue = true) ∧
    (x.getLsbD 6 = false → q.table = x.extractLsb' 0 6 ∧ q.round = x.getLsbD 7 ∧ q.job = y.extractLsb' 0 16 ∧
      q.tenant = y.extractLsb' 16 16)

namespace Sys2Proof.Claims

open Machine

/-- Launch queue `q` has room behind the records that A.LAUNCH words have issued for it and not yet put there. -/
def Room (s : State) (q : BitVec 4) : Prop :=
  ((getLq s q.toNat).tail - (getLq s q.toNat).head).toNat +
    (s.cores.map fun e => e.2.bank0.launchesTo q.toNat + e.2.bank1.launchesTo q.toNat).sum < 2 ^ (getLq s q.toNat).log2.toNat

end Sys2Proof.Claims

/-- O47. LAUNCH checks its queue and, where the queue has room behind the records that LAUNCH words have yet to put
there, passes with the read of its 64-byte record in flight, which appends the record once read; on a full queue it
stalls, and the record is read once; a record of an unprivileged context keeps the tenant and at most the queue's
priority. CPY, COLL and SWAP read their card, check it and give the job a scheduler slot with what it reads and writes;
a job waits for an earlier one that its footprint meets (R106, R231, R237, R242, R243, R248, R313, R316). The fields of
the records of a faulty card and of a misaligned address are the model's reading (log 18). -/
def Obligations.JobWords : Prop :=
  (∀ t r q s x, Ready (.aLaunch t r q) .a t s → (∀ p i w, (curBank s s.core).wait ≠ .launch p i w) →
    (curBank s s.core).useA r.toNat = .ok x →
    (x.toNat % 64 ≠ 0 → exec (.aLaunch t r q) s = finish s .a (.aLaunch t r q) (.error (.fault .illegal x 0 0 9))) ∧
    (x.toNat % 64 = 0 → ((getLq s q.toNat).en = false ∨ (getLq s q.toNat).dev = false) →
      exec (.aLaunch t r q) s = finish s .a (.aLaunch t r q) (plainFault .privilege 0)) ∧
    ∀ f, x.toNat % 64 = 0 → (getLq s q.toNat).en = true → (getLq s q.toNat).dev = true →
      locateAll s (viewNow s) 0 0 64 true false false false [x] = .ok f →
      (Room s q → exec (.aLaunch t r q) s =
        .next (accessed s (curBank s s.core) t (.record q false) 0 0 f 0 .none [] [])) ∧
      (¬Room s q → exec (.aLaunch t r q) s = .next (stay (modCur (inFlight s (curBank s s.core) t (.record q true) 0 0 f 0 .none
        [] []) s.core fun b => { b with wait := .launch q s.seq none }) .a))) ∧
  (∀ s c bk x q, x.op = .record q true → swf s.cores 0 Core.zero = true → (getBank s c bk).wait = .launch q x.id none →
    (getBank (finishAccess s c bk x) c bk).wait = .launch q x.id (some (launchRecord s c bk q x))) ∧
  (∀ s c bk x q, x.op = .record q false →
    finishAccess s c bk x = appendRecord (leaveFlight s c bk x) q.toNat (launchRecord s c bk q x) false) ∧
  (∀ s c bk q x, launchRecord s c bk q x = trimRecord (getLq s q.toNat) (getBank s c bk).tenant (getBank s c bk).priv
    (BitVec.ofNat 512 x.value)) ∧
  (∀ t r q p i w s, Ready (.aLaunch t r q) .a t s → (curBank s s.core).wait = .launch p i (some w) →
    (Room s q → exec (.aLaunch t r q) s = .next (issued (modCur (appendRecord s q.toNat w false) s.core
      fun b => { b.pushToks .a (t &&& 3) with wait := .none }) .a t)) ∧
    (¬Room s q → exec (.aLaunch t r q) s = .next (stay s .a))) ∧
  (∀ (v : LaunchQueue) ten r, trimRecord v ten true r = r ∧ recTenant (trimRecord v ten false r) = ten ∧
    recPrio (trimRecord v ten false r) = min (recPrio r) v.maxp.toNat ∧
    recDidx (trimRecord v ten false r) = recDidx r ∧ recClmask (trimRecord v ten false r) = recClmask r) ∧
  (∀ t c r s y k src dst, Ready (.aCpy t c r) .a t s → (curBank s s.core).useA r.toNat = .ok y → readCard s y = .ok k →
    copyRegions s (viewNow s) k = .ok () → cardChecks y (copyChecks s (viewNow s) k) = .ok () →
    (getCore s s.core).jobs.length < 64 →
    copySource s (viewNow s) y k = .ok src → copyDest s (viewNow s) y k = .ok dst →
    let s1 := if (src.elems ++ dst.elems).any fun e => e.clamped then
        modCore (counted s) s.core fun x => { x with clamps := x.clamps ||| (1 : BitVec 8) <<< c.toNat } else counted s
    let rd := if cardQsrc k then [queueKey (tableOf s.core) (cardSrc k).toNat]
      else src.elems.map fun e => if cardDc k then ((placeKey e.place).1, 544) else placeKey e.place
    let wr := if cardQdst k then [queueKey (tableOf s.core) (cardDst k).toNat] else dst.elems.map fun e => placeKey e.place
    exec (.aCpy t c r) s = .next (passed (acceptJob s1 (newJob s1 s.seq .copy c k src.elems dst.elems [src.gran, dst.gran]
      (blockPlaces k src.elems) rd wr)) .a t)) ∧
  (∀ t c r s y k n, Ready (.aCpy t c r) .a t s → (curBank s s.core).useA r.toNat = .ok y → readCard s y = .ok k →
    copyRegions s (viewNow s) k = .ok () → cardChecks y (copyChecks s (viewNow s) k) = cardFault y n →
    exec (.aCpy t c r) s = finish s .a (.aCpy t c r) (cardFault y n)) ∧
  (∀ t r s y k src dst tmp, Ready (.aColl t r) .a t s → (curBank s s.core).useA r.toNat = .ok y → readCard s y = .ok k →
    cardChecks y (collChecks s k) = .ok () → (getCore s s.core).jobs.length < 64 →
    resolveSide s (viewNow s) y (collSuit k) (collSide k (collSrc k) true false) (cells 1 (collCount k)) = .ok src →
    resolveSide s (viewNow s) y (collSuit k) (collSide k (collDst k) false true) (cells 1 (collDstLen k)) = .ok dst →
    resolveSide s (viewNow s) y (collSuit k) (collSide k (collTmp k) true true) (cells 1 (collTmpLen k)) = .ok tmp →
    let s1 := if (src.elems ++ dst.elems ++ tmp.elems).any fun e => e.clamped then
        modCore (counted s) s.core fun x => { x with cclamp := true } else counted s
    let keys := fun (l : List ElemAt) => l.map fun e => placeKey e.place
    exec (.aColl t r) s = .next (passed (acceptJob s1 (newJob s1 s.seq .coll 0 k src.elems (dst.elems ++ tmp.elems)
      [src.gran, dst.gran, tmp.gran] [] (keys (src.elems ++ tmp.elems)) (keys (dst.elems ++ tmp.elems)))) .a t)) ∧
  (∀ t r s y k, Ready (.aSwap t r) .a t s → (curBank s s.core).useA r.toNat = .ok y → readCard s y = .ok k →
    swapOk s k = true → (getCore s s.core).jobs.length < 64 →
    let fp := (swapEntries k).map (fun e => (e, 8)) ++ [((swapFrames s k).1, swapSize k), ((swapFrames s k).2, swapSize k)]
    exec (.aSwap t r) s = .next (passed (acceptJob (counted s) (newJob (counted s) s.seq .swap 0 k [] [] [] [] fp fp)) .a t)) ∧
  (∀ s id kind ch k src dst gr pl rd wr a, (∃ e ∈ rd, e.1 ≤ a ∧ a < e.1 + e.2) →
    ∃ e ∈ (newJob s id kind ch k src dst gr pl rd wr).reads, e.1 ≤ a ∧ a < e.1 + e.2) ∧
  (∀ i j, edge i j = true ↔ (∃ x ∈ i.writes, ∃ y ∈ j.reads, x.1 < y.1 + y.2 ∧ y.1 < x.1 + x.2) ∨
    (∃ x ∈ i.reads, ∃ y ∈ j.writes, x.1 < y.1 + y.2 ∧ y.1 < x.1 + x.2) ∨
    ∃ x ∈ i.writes, ∃ y ∈ j.writes, x.1 < y.1 + y.2 ∧ y.1 < x.1 + x.2) ∧
  (∀ t r s y k, Ready (.aSwap t r) .a t s → (curBank s s.core).useA r.toNat = .ok y → readCard s y = .ok k →
    swapOk s k = false → exec (.aSwap t r) s = finish s .a (.aSwap t r) (.error (.fault .illegal y 0 0 9)))

/-! ### What the device does by itself, and what the host does to it -/

namespace Sys2Proof.Claims

open Machine

/-- `s` after a write of CCc.CTL that names bank `b` (R347). -/
def named (s : State) (c : Nat) (b : Nat) : State := modCore s c fun k => { k with ctlBank := b == 1 }

/-- `s` with ERR of core `c` set. -/
def erred (s : State) (c : Nat) (n : BitVec 4) : State := modCore s c fun k => { k with err := n }

end Sys2Proof.Claims

/-- O48. Faults that wait are taken once the core has drained: a service fault, a program fault, or the oldest
asynchronous fault with the PC at which its engine stands, and an owner mismatch of a job then leaves ERR; a context
whose kernel has been aborted then gives up its bank (R123, R128, R349, R363). A stop completes once the issued words
have completed and the array stands still: the context is STOPPED with its registers, PCs and queues as they are, and
the other bank runs if it is ready (R355-R357). The commands of CCc.CTL on a ready node: each acts in the bank states
that allow it and otherwise sets ERR: 2 for a state that does not, 1 for STOP of a launch without preemption, 3 and 4
for a snapshot of another version or core (R347, R352, R354, R355, R361). That RESTORE brings back the oldest evicted
context with the tenant and privilege of the header, in bank 0 one of a launch and in bank 1 one of none where there is
such a one, is the model's choice (log 46). What answers the host gets once the context has changed, and that an ABORT
of a stopped context without SVCPEND posts what FAULT holds, are the model's reading (log 15). -/
def Obligations.ControlCommands : Prop :=
  ((∀ c s p, c < 1024 → (curBank s c).pend = some p → p.abort = false → (curBank s c).st = .running →
     (curBank s c).drained = true →
     (isService p.fr.code = true → exec (.serviceFaultDrain c) s = .next (takeFault s c p.fr p.all)) ∧
     (isService p.fr.code = false → exec (.faultTake c) s = .next (endAbort (takeFault s c p.fr p.all) c))) ∧
   (∀ c s p, c < 1024 → (curBank s c).pend = some p → (curBank s c).drained = false →
     exec (.serviceFaultDrain c) s = .next s ∧ ((getCore s c).active = false → exec (.faultTake c) s = .next s)) ∧
   (∀ s c, (∀ p, (getBank s c false).pend = some p → p.abort = true → (getBank s c false).drained = true →
       endAbort s c = vacate s c false) ∧
     ((∀ p, (getBank s c false).pend = some p → p.abort = false) → endAbort s c = s)) ∧
   (∀ c s r l e, c < 1024 → (curBank s c).due = r :: l → r.engine = Engine.tag e → (curBank s c).st = .running →
     (curBank s c).stopping = false → (curBank s c).pend = none → (curBank s c).drained = true →
     (curBank s c).round.waiting = false →
     exec (.asyncFaultTake c) s =
       .next (takeFault (clearMismatch (modCur s c fun x => { x with due := l }) c r) c
         { r with pc := (curBank s c).pc.get e } none)) ∧
   (∀ c b s, c < 1024 → b < 2 → swf s.cores 0 Core.zero = true → (getBank s c (b == 1)).stopping = true →
     (getBank s c (b == 1)).drained = true → (getBank s c (b == 1)).pend = none → (b = 0 → (getCore s c).arrayStill = true) →
     ∃ u, exec (.stopComplete c b) s = .next u ∧ u.mem = s.mem ∧ (getBank u c (b == 1)).st = .stopped ∧
       (getBank u c (b == 1)).stopping = false ∧ (getBank u c (b == 1)).wait = .none ∧
       (getBank u c (b == 1)).a = (getBank s c (b == 1)).a ∧ (getBank u c (b == 1)).s = (getBank s c (b == 1)).s ∧
       (getBank u c (b == 1)).m = (getBank s c (b == 1)).m ∧ (getBank u c (b == 1)).v = (getBank s c (b == 1)).v ∧
       (getBank u c (b == 1)).k = (getBank s c (b == 1)).k ∧ (getBank u c (b == 1)).pc = (getBank s c (b == 1)).pc ∧
       (getBank u c (b == 1)).issue = (getBank s c (b == 1)).issue ∧
       ((getBank s c (b == 1)).st = .running → (getCore s c).active = (b == 1) → (getBank s c !(b == 1)).st = .ready →
         (getCore u c).active = !(b == 1) ∧ (getBank u c !(b == 1)).st = .running))) ∧
  (∀ c b s, c < 1024 → b < 2 → s.disc.ready = true → swf s.cores 0 Core.zero = true →
     let x := getBank s c (b == 1)
     let n := named s c b
     ((x.st = .running ∨ x.st = .ready ∨ x.st = .halted ∨ x.st = .serviceWait) → (b = 0 → x.pe = true) →
       exec (.ccStop c b) s = .next (modBank n c (b == 1) fun y => { y with stopping := true })) ∧
     ((x.st = .running ∨ x.st = .ready ∨ x.st = .halted ∨ x.st = .serviceWait) → b = 0 → x.pe = false →
       exec (.ccStop c b) s = .next (erred n c 1)) ∧
     ((x.st = .empty ∨ x.st = .stopped ∨ x.st = .restoring) → exec (.ccStop c b) s = .next (erred n c 2)) ∧
     (x.st ≠ .stopped → exec (.ccRun c b) s = .next (erred n c 2) ∧ exec (.ccEvict c b) s = .next (erred n c 2)) ∧
     (x.st = .stopped → x.hdr.toNat % 2 ^ 16 ≠ 0x0103 → exec (.ccRun c b) s = .next (erred n c 3)) ∧
     (x.st = .stopped → x.hdr.toNat % 2 ^ 16 = 0x0103 → x.hdr.toNat / 2 ^ 38 % 2 ^ 10 ≠ c →
       exec (.ccRun c b) s = .next (erred n c 4)) ∧
     (x.st = .stopped → x.hdr.toNat % 2 ^ 16 = 0x0103 → x.hdr.toNat / 2 ^ 38 % 2 ^ 10 = c →
       ∃ u, exec (.ccRun c b) s = .next u ∧ u.mem = s.mem ∧ (getBank u c (b == 1)).st =
         if x.svcPend then .serviceWait else if b = 1 ∧ (getBank s c false).st = .running then .ready else .running) ∧
     (x.st = .stopped → ∃ u, exec (.ccEvict c b) s = .next u ∧ u.mem = s.mem ∧ (getBank u c (b == 1)).st = .empty ∧
       (getBank u c (b == 1)).kern = none ∧ (getBank u c (b == 1)).launch = none) ∧
     (x.st ≠ .empty → exec (.ccRestore c b) s = .next (erred n c 2)) ∧
     (x.st = .empty → b = 1 → x.hdrw.toNat / 2 ^ 32 % 16 ≠ 0 → exec (.ccRestore c b) s = .next (erred n c 2)) ∧
     (x.st = .empty → x.hdrw.toNat / 2 ^ 32 % 16 = 0 → ∃ u, exec (.ccRestore c b) s = .next u ∧
       (getBank u c (b == 1)).st = .stopped ∧ (getBank u c (b == 1)).tenant = x.hdrw.extractLsb' 48 16 ∧
       (getBank u c (b == 1)).priv = x.hdrw.getLsbD 31 ∧ (getBank u c (b == 1)).owner = some (x.hdrw.extractLsb' 48 16) ∧
       (getBank u c (b == 1)).ctx = ((getCore s c).returning (b == 1) (x.hdrw.extractLsb' 48 16) (x.hdrw.getLsbD 31) s.seq).ctx ∧
       (x.owner ≠ some (x.hdrw.extractLsb' 48 16) → (getBank u c (b == 1)).a = [] ∧ (getBank u c (b == 1)).v = []) ∧
       (x.owner = some (x.hdrw.extractLsb' 48 16) → (getBank u c (b == 1)).a = x.a ∧ (getBank u c (b == 1)).v = x.v)) ∧
     (x.st = .halted → exec (.ccRelease c b) s = .next (makeRunnable n c (b == 1))) ∧
     (x.st ≠ .halted → exec (.ccRelease c b) s = .next (erred n c 2)) ∧
     (x.st = .serviceWait → exec (.ccRetry c b) s =
       .next (makeRunnable (modCore n c fun k => { k with late := false }) c (b == 1))) ∧
     (x.st ≠ .serviceWait → x.st ≠ .stopped → x.svcSeen = true →
       exec (.ccRetry c b) s = .next (modCore n c fun k => { k with late := true }) ∧
       exec (.ccAbort c b) s = .next (modCore n c fun k => { k with late := true })) ∧
     (x.st ≠ .serviceWait → x.st ≠ .stopped → x.svcSeen = false →
       exec (.ccRetry c b) s = .next (erred (modCore n c fun k => { k with late := false }) c 2) ∧
       (x.svcPast = true → exec (.ccAbort c b) s = .next (modCore n c fun k => { k with late := true })) ∧
       (x.svcPast = false → exec (.ccAbort c b) s = .next (erred (modCore n c fun k => { k with late := false }) c 2))) ∧
     (x.st = .serviceWait → exec (.ccAbort c b) s =
       .next (abortKernel (modCore n c fun k => { k with late := false }) c (b == 1) (x.svcRec.getD x.fault))) ∧
     (x.st = .stopped → x.svcPend = true → exec (.ccRetry c b) s =
       .next (modBank (modCore n c fun k => { k with late := false }) c (b == 1) fun y =>
         { y with svcPend := false, svcSeen := true })) ∧
     (x.st = .stopped → x.svcPend = false → x.svcSeen = true → exec (.ccRetry c b) s =
       .next (modCore n c fun k => { k with late := true })) ∧
     (x.st = .stopped → x.svcPend = true → b = 1 → exec (.ccAbort c b) s =
       .next (abortKernel (modBank (modCore n c fun k => { k with late := false }) c true fun y =>
         { y with svcPend := false, svcSeen := true }) c true (x.svcRec.getD x.fault))) ∧
     (x.st = .stopped → x.svcPend = false → b = 1 → exec (.ccAbort c b) s =
       .next (abortKernel (modCore n c fun k => { k with late := false }) c true x.fault)) ∧
     (x.st = .stopped → x.svcPend = false → b = 0 → exec (.ccAbort c b) s =
       .next (abortKernel (evictArray (modCore n c fun k => { k with late := false }) c) c false x.fault)) ∧
     ((b = 1 ∧ (getBank s c false).st = .running) → (getBank (makeRunnable n c (b == 1)) c (b == 1)).st = .ready) ∧
     ((b = 0 ∨ (getBank s c false).st ≠ .running) → (getBank (makeRunnable n c (b == 1)) c (b == 1)).st = .running ∧
       (getCore (makeRunnable n c (b == 1)) c).active = (b == 1)))

/-- O49. The moves of jobs. A copy reads its sources as it begins and pushes or writes what they come to; element (i, k)
inside the valid part is the source element at row i and column k, transposed if TR, and zero outside; a swap marks its
entries and then exchanges the frames and the entries; a collective starts, meets its partner and combines what it
receives (R229, R231-R236, R241, R249, R313-R315). That a step's data arrives at once and that a copy reads as it begins
and writes as it completes are the model's choices (log 25, log 33); that the LINK error of a collective holds the
partner's window base and label is its reading (log 18). -/
def Obligations.JobMoves : Prop :=
  (∀ c i s j, c < 1024 → getJob s c i = some j → j.kind = .copy → j.phase = .accepted → mayBegin s c j (cardSuit j.card) = true →
    channelTurn s c j = true → ∀ u, beginCopy s c j = .ok u → exec (.copyJobBegin c i) s = .next u) ∧
  (∀ c s j loc b w keep, swf s.cores 0 Core.zero = true → cardQsrc j.card = false → cardDc j.card = false →
    j.src = [⟨.mem loc b, w, keep⟩] → j.tagHolds s ⟨.mem loc b, w, keep⟩ = true →
    placeFault s true false ⟨.mem loc b, w, keep⟩ = none → j.unsent = [] → j ∈ (getCore s c).jobs →
    ∃ u, beginCopy s c j = .ok u ∧
      ({ j with got := sset j.got 0 (rdPlace s ⟨.mem loc b, w, keep⟩) 0
                phase := if cardQdst j.card then .pushing else .reading } : Job) ∈ (getCore u c).jobs) ∧
  (∀ c i s j, c < 1024 → getJob s c i = some j → j.kind = .copy → j.phase = .pushing → j.sent = [] → j.unsent = [] →
    tileRoom s (tableOf c) (cardDst j.card).toNat = true →
    exec (.copyQueuePush c i) s = .next (putJob (pushTile (copyEntry s j).1 (tableOf c) (cardDst j.card).toNat (copyEntry s j).2) c
      { j with phase := .writing })) ∧
  (∀ s (j : Job), let e := (copyEntry s j).2
    e.owner = j.tenant ∧ e.job = 0 ∧ e.seq = cardSeq j.card ∧ e.fmt = BitVec.ofNat 4 (cardDfmt j.card) ∧
    (e.poison = true ↔ ∃ p ∈ cells (cardDrows j.card) (cardDcols j.card), ∃ v, copyValue j p.1 p.2 = some (v, true)) ∧
    ((∀ p ∈ cells (cardDrows j.card) (cardDcols j.card), ∃ v, copyValue j p.1 p.2 = some (v, false)) →
      (copyEntry s j).1 = s)) ∧
  (∀ c i s j, c < 1024 → getJob s c i = some j → j.kind = .copy → j.phase = .reading → j.sent = [] → j.unsent = [] →
    cardDc j.card = false → (∀ p ∈ j.dst, accBusy s p = false) →
    ∀ r, writeCopy s c j = .ok r → exec (.copyJobComplete c i) s = .next (endCopy (putJob r.1 c r.2) c r.2)) ∧
  (∀ (j : Job) r c, j.entry = none → cardDc j.card = false → cardCv j.card = false → j.lost = [] →
    let i := if cardTr j.card then c else r
    let k := if cardTr j.card then r else c
    (i < cardVrows j.card → k < cardVcols j.card → copyValue j r c =
      some (sget j.got (i * cardVcols j.card + k) 0 % 2 ^ fmtWidth (cardDfmt j.card),
        j.pois.contains (i * cardVcols j.card + k))) ∧
    (cardVrows j.card ≤ i ∨ cardVcols j.card ≤ k → copyValue j r c = some (0, false))) ∧
  (∀ c i s j, c < 1024 → getJob s c i = some j → j.kind = .swap → j.phase = .accepted → swapTurn s j = true →
    (swapEntries j.card).all (fun pa => !bit (entryAt s pa) 2) = true → mayBegin s c j (swapSuit j.card) = true →
    ∃ u, exec (.swapJobStart c i) s = .next (putJob u c { j with phase := .reading }) ∧
      u.mem = (setInswap s (swapEntries j.card)).mem) ∧
  (∀ c i s j, c < 1024 → getJob s c i = some j → j.kind = .swap → j.phase = .reading → entriesIdle s j = true →
    exec (.swapJobExchange c i) s = .next (dropJob (exchange s j.card) c j)) ∧
  (∀ s k, Memory.wf s.mem = true → swapMove k = false → swapOk s k = true →
    let fa := (swapFrames s k).1
    let fb := (swapFrames s k).2
    let n := swapSize k
    (∀ e ∈ [swapEnta k, swapEntb k], ∀ f ∈ [fa, fb], e + 8 ≤ f ∨ f + n ≤ e) →
    (∀ i, i < n → rdByte (exchange s k) (fa + i) = rdByte s (fb + i) ∧ rdByte (exchange s k) (fb + i) = rdByte s (fa + i)) ∧
    entryAt (exchange s k) (swapEnta k) = (if (entryAt s (swapEntb k)).testBit 2 then entryAt s (swapEntb k) - 4
      else entryAt s (swapEntb k)) ∧
    entryAt (exchange s k) (swapEntb k) = (if (entryAt s (swapEnta k)).testBit 2 then entryAt s (swapEnta k) - 4
      else entryAt s (swapEnta k)) ∧
    ∀ a, (a < fa ∨ fa + n ≤ a) → (a < fb ∨ fb + n ≤ a) → (a < swapEnta k ∨ swapEnta k + 8 ≤ a) →
      (a < swapEntb k ∨ swapEntb k + 8 ≤ a) → rdByte (exchange s k) a = rdByte s a) ∧
  (∀ c s j, c < 1024 → firstColl s c = some j → j.phase = .accepted → j.stop = false → mayBegin s c j (collSuit j.card) = true →
    (∀ p ∈ j.dst, accBusy s p = false) → exec (.collectiveComplete c) s = .next (beginColl s c j)) ∧
  (∀ c s j, c < 1024 → firstColl s c = some j → j.phase = .writing → j.sent = [] → j.unsent = [] →
    (∀ p ∈ j.dst, accBusy s p = false) →
    exec (.collectiveComplete c) s = .next (parkError (dropJob s c j) c j)) ∧
  (∀ c s j d q, c < 1024 → firstColl s c = some j → j.phase = .reading → j.stop = false → collPartner s j = some (d, q) →
    (getPort s d).st = 0 → (∀ p ∈ j.dst, accBusy s p = false) →
    exec (.collectiveComplete c) s = .next (endColl (recordError s c j { jobError .link 1 (nodeBase q) (collPlane j.card)
      (collSuit j.card) with info := faultInfo 1 0 0 q.toNat }) c { j with phase := .writing, stop := true })) ∧
  (∀ c s m j d q, c < 1024 → (getCore s c).jobs.find? (fun j => j.kind == .coll && collTag j.card == m.tag) = some j →
    collPartner s j = some (d, q) → q = m.src → j.partner = none → j.stop = false →
    (m.op.toNat = collOp j.card → m.fmt.toNat = collFmt j.card → m.count.toNat = collCount j.card → m.stepNo = j.stepNo →
      exec (.collReadyMessage c m) s = .next (putJob (collSend (heardOf s q) c { j with partner := some m }).1 c
        (collSend (heardOf s q) c { j with partner := some m }).2)) ∧
    ((m.op.toNat ≠ collOp j.card ∨ m.fmt.toNat ≠ collFmt j.card ∨ m.count.toNat ≠ collCount j.card ∨ m.stepNo ≠ j.stepNo) →
      exec (.collReadyMessage c m) s = .next (putJob (recordError (heardOf s q) c j { jobError .link 2 (nodeBase q) (collPlane j.card)
        (collSuit j.card) with info := faultInfo 2 0 0 q.toNat }) c { j with stop := true }))) ∧
  (∀ c s (data : CollData) j d q m, c < 1024 → firstColl s c = some j → collPartner s j = some (d, q) → j.stop = false → j.phase = .reading →
    j.partner = some m → j.mine = true → collGather j.card = false →
    data.bytes.length = collCount j.card * collWidth j.card / 8 → (∀ p ∈ j.dst, accBusy s p = false) →
    let u := writeAll (heardOf s q) c j (collPlane j.card) (collSuit j.card)
      (collPuts j 2 0 (collCount j.card) fun i =>
        some (dataElem data.bytes (collWidth j.card) i, data.pois.contains i))
    exec (.collectiveStep c data) s =
      .next (putJob u c { combineStep u j q data.bytes data.pois with stepNo := j.stepNo + 1, partner := none })) ∧
  (∀ s (j : Job) q data pois i, collGather j.card = false → swf j.got 0 0 = true → i < collCount j.card →
    (combineStep s j q data pois).pois = (j.pois ++ pois).eraseDups ∧
    sget (combineStep s j q data pois).got i 0 = if s.fabric.label.toNat < q.toNat
      then combine2 (collOp j.card) (collFmt j.card) (sget j.got i 0) (dataElem data (collWidth j.card) i)
      else combine2 (collOp j.card) (collFmt j.card) (dataElem data (collWidth j.card) i) (sget j.got i 0))

/-- O50. The shoe: TAIL and CTL writes, RETRY and SKIP, the head record, rejection and dispatch, replicas, zero counts,
core starts, exits, the bump of the completion counter when a launch retires, the abort of a launch with its message of
kind 3 and no bump, and rounds (R22, R83-R86, R88, R90-R102, R128, R341, R368, R370, R403). Where a record with a zero
count or with DIES moves QPTR, and where one with both completes, are the model's choices (log 48), as are that any TAIL
is accepted with EN = 0 and that a TAIL write which would take a slot from an A.LAUNCH that has passed does nothing, and
as are the places of a rotating order (log 49); the streams of replicas have the core number of log 40; a retired launch
leaves its relay (log 58), and a notice clears the count of inbound tag failures of its port (log 34). -/
def Obligations.ShoeMoves : Prop :=
  (∀ q v s, s.disc.ready = true → let l := getLq s q.toNat
    let n := claimed s q.toNat
    (l.en = true → (v - l.head).toNat ≤ 2 ^ l.log2.toNat →
      ((n = 0 ∨ (v - l.head).toNat + n ≤ 2 ^ l.log2.toNat) →
        exec (.lqTailWrite q v) s = .next (setLq s q.toNat { l with tail := v, replicaSlots := l.replicasBefore v })) ∧
      (n ≠ 0 → 2 ^ l.log2.toNat < (v - l.head).toNat + n → exec (.lqTailWrite q v) s = .next (setLq s q.toNat l)) ∧
      ∀ i, i ∈ l.replicasBefore v ↔ i ∈ l.replicaSlots ∧ (i - l.head).toNat < (v - l.head).toNat) ∧
    (l.en = true → 2 ^ l.log2.toNat < (v - l.head).toNat →
      exec (.lqTailWrite q v) s = .next (setLq s q.toNat { l with ovf := true })) ∧
    (l.en = false → ∃ n : LaunchQueue, exec (.lqTailWrite q v) s = .next (setLq s q.toNat n) ∧ n.head = v ∧ n.tail = v ∧
      n.copy = none)) ∧
  (∀ q v s, s.disc.ready = true → v.getLsbD 4 = false → v.getLsbD 5 = false → let l := getLq s q.toNat
    ∃ n : LaunchQueue, exec (.lqEnableWrite q v) s = .next (setLq s q.toNat n) ∧ n.en = (v.getLsbD 0 && l.log2 != 0) ∧
      n.dev = v.getLsbD 1 ∧ n.maxp = v.extractLsb' 2 2 ∧ n.head = l.head ∧ n.tail = l.tail) ∧
  (∀ q s, let l := getLq s q.toNat
    (l.rej = true → ∃ n m : LaunchQueue, exec (.lqRetry q) s = .next (setLq s q.toNat n) ∧ n.rej = false ∧ n.check = 0 ∧
      n.head = l.head ∧ n.copy = none ∧ exec (.lqSkip q) s = .next (setLq s q.toNat m) ∧ m.rej = false ∧ m.check = 0 ∧
      m.head = l.head + 1 ∧ m.copy = none) ∧
    (l.rej = false → exec (.lqRetry q) s = .next (setLq s q.toNat l) ∧ exec (.lqSkip q) s = .next (setLq s q.toNat l))) ∧
  (∀ q s x n, let l := getLq s q.toNat
    l.en = true → l.rej = false → l.copy = none → l.head ≠ l.tail → tenantXlat s l.ten = some x →
    readNum s (tenantView l.ten x) (l.slotVa l.head) 64 = some n → swf s.shoe.lq 0 LaunchQueue.zero = true →
    ∃ u, exec (.headRecordRead q) s = .next u ∧ (getLq u q.toNat).copy = some (BitVec.ofNat 512 n) ∧
      (getLq u q.toNat).copyOk = true ∧ (getLq u q.toNat).copyRepl = l.replicaSlots.contains l.head ∧ (getLq u q.toNat).head = l.head ∧ (getLq u q.toNat).tail = l.tail ∧ u.mem = s.mem) ∧
  (∀ s q slot n, chooseQueue s = some q → freeSlot s = some slot →
    admission s (getLq s q).copyOk (getLq s q).copyRepl ((getLq s q).copy.getD 0) = .error n →
    exec .launchDispatch s = .next (reject s q n)) ∧
  (∀ s q slot a, chooseQueue s = some q → freeSlot s = some slot →
    let v := getLq s q
    let r := v.copy.getD 0
    let arrived := v.copyRepl
    let zero := a.total = 0 ∨ (a.kern.hasDies = true ∧ a.dies = 0)
    admission s v.copyOk arrived r = .ok a →
    (a.kern.hasDies = true → arrived = false → ¬zero → exec .launchDispatch s = .next (sendReplicas (setLq (turnPtr s q) q
      { v with dies := a.dies, sent := 0, acked := 0, banksBad := a.banksBad }) q 3)) ∧
    ((a.kern.hasDies = false ∨ arrived = true ∨ zero) →
      (a.banksBad = true → exec .launchDispatch s = .next (reject s q 23)) ∧
      (a.banksBad = false → zero → exec .launchDispatch s = .next (bump (setLq (turnPtr s q) q v.advance) r)) ∧
      (a.banksBad = false → ¬zero → exec .launchDispatch s = .next (setLaunch (setLq { turnPtr s q with seq := s.seq + 1 } q
        v.advance) slot (some (newLaunch r a s.seq (BitVec.ofNat 4 q) v.head)))))) ∧
  (∀ q s r, let l := getLq s q.toNat
    l.copy = some r → l.dies ≠ 0 → l.sent = l.acked →
    (l.acked = l.dies → l.banksBad = false → exec (.replicaResend q) s = .next (setLq s q.toNat l.advance)) ∧
    (l.acked = l.dies → l.banksBad = true → exec (.replicaResend q) s = .next (reject s q.toNat 23)) ∧
    (l.acked ≠ l.dies → replicaLabel r l.acked = s.fabric.label →
      ((l.en = false ∨ l.dev = false) → exec (.replicaResend q) s = .next (reject s q.toNat 21)) ∧
      (l.en = true → l.dev = true → queueFull s q.toNat = true → exec (.replicaResend q) s = .next s)) ∧
    (l.acked ≠ l.dies → replicaLabel r l.acked ≠ s.fabric.label →
      let p := { blankPacket s 1024 (replicaLabel r l.acked) 0 .replica (recTenant r) 0 with
        size := 64, op := BitVec.ofNat 8 q.toNat, data := bytesOf (replicaOf r l.acked).toNat 64 }
      exec (.replicaResend q) s = .next (modLq (sendPacket s p).2 q.toNat fun v =>
        { v with sent := l.acked + 1, flight := some (replicaLabel r l.acked, (sendPacket s p).1) }))) ∧
  (∀ s p r, let l := getLq s p.op.toNat
    ((l.dies = 0 ∨ l.flight ≠ some (p.dst, p.num)) → replicaAnswer s p r = s) ∧
    (∀ f : FaultRec, l.dies ≠ 0 → l.flight = some (p.dst, p.num) → r = .fault f →
      (f.code = 0 → replicaAnswer s p r = setLq s p.op.toNat { l with flight := none, sent := l.acked }) ∧
      (f.code ≠ 0 → replicaAnswer s p r = reject s p.op.toNat 21)) ∧
    ∀ x y, l.dies ≠ 0 → l.flight = some (p.dst, p.num) → r = .data x y → l.sent = l.dies → l.banksBad = false →
      l.copy ≠ none → swf s.shoe.lq 0 LaunchQueue.zero = true →
      ∃ u, replicaAnswer s p r = setLq (setLq s p.op.toNat { l with flight := none, acked := l.sent }) p.op.toNat u ∧
        u.head = l.head + 1 ∧ u.copy = none ∧ u.dies = 0) ∧
  (∀ s r, swf s.shoe.cc 0 (0 : BitVec 32) = true → (recBen r = false → bump s r = s) ∧
    (recBen r = true → ccOf (bump s r) (recBcnt r) = ccOf s (recBcnt r) + 1) ∧
    ∀ k, k ≠ recBcnt r → ccOf (bump s r) k = ccOf s k) ∧
  (∀ s c n l, swf s.cores 0 Core.zero = true → (getCore s c).active = false → (getBank s c false).launch = some n →
    getLaunch s n = some l →
    release s c = retireIf (setLaunch (vacate (releaseHand s c) c false) n (some { l with exited := l.exited ++ [c] })) n) ∧
  (∀ s n l, getLaunch s n = some l →
    let dealt := (recRange l.record = true ∧ l.began = true) ∨ (recRange l.record = false ∧ l.next = l.total)
    (dealt → l.started ≠ [] → l.exited.length = l.started.length →
      retireIf s n = bump (keepRelay (setLaunch s n none) l) l.record) ∧
    ((¬dealt ∨ l.started = [] ∨ l.exited.length ≠ l.started.length) → retireIf s n = s)) ∧
  (∀ s c fr n l, (getBank s c false).launch = some n → getLaunch s n = some l →
    abortKernel s c false fr = setLaunch (stopForAbort (abortCores (postFault s 3 fr c false (some n)) n
      (l.started.filter (· != c))) c false) n none ∧
    ∀ k, ccOf (abortKernel s c false fr) k = ccOf s k) ∧
  (∀ s c, swf s.cores 0 Core.zero = true →
    ((getBank s c false).drained = true → (∀ m ∈ (getCore s c).cmds, m.begun = false) → stopForAbort s c false =
      vacate (releaseHand (modCore s c fun k => { k with cmds := [], session := none }) c) c false) ∧
    ((getBank s c false).drained = true → (getBank (stopForAbort s c false) c false).st = .empty)) ∧
  (∀ q rec s, let l := getLq s q.toNat
    (l.en = true → l.dev = true → queueFull s q.toNat = false → exec (.replicaReceive q rec) s = .next (appendRecord s q.toNat rec true)) ∧
    (l.en = false ∨ l.dev = false ∨ queueFull s q.toNat = true → exec (.replicaReceive q rec) s = .next s)) ∧
  (∀ s q, queueFull s q = true ↔ 2 ^ (getLq s q).log2.toNat ≤ ((getLq s q).tail - (getLq s q).head).toNat + claimed s q) ∧
  (∀ s q, claimed s q = (s.cores.map fun e => e.2.bank0.launchesTo q + e.2.bank1.launchesTo q).sum) ∧
  (∀ s q r b, swf s.shoe.lq 0 LaunchQueue.zero = true →
    (getLq (appendRecord s q r b) q).tail = (getLq s q).tail + 1 ∧ (getLq (appendRecord s q r b) q).head = (getLq s q).head) ∧
  (∀ c s n l, c < 1024 → coreFree s c = true → dealLaunch s c = some (n, l) → dealTurn s n c = true →
    exec (.dealCoreStart c) s = .next (startCore (moveCptr (setLaunch s n (some
      { l with next := l.next + 1, started := l.started ++ [c] })) c) n l c l.next)) ∧
  (∀ n s l, n < 64 → getLaunch s n = some l → recRange l.record = true → l.began = false →
    (recCores l.record).all (fun c => coreFree s c && !reservedAgainst s l c) = true →
    exec (.rangeLaunchStart n) s = .next (startRange (setLaunch s n (some { l with began := true })) n (recCores l.record).length
      l.total 0 (recCores l.record))) ∧
  (∀ s n l c p x, let b := startBank s n l c p x
    b.pc = Three.all (BitVec.ofNat 64 (4 * l.kern.entry)) ∧ b.tenant = recTenant l.record ∧
    b.privBase = (s.shoe.privBase + BitVec.ofNat 64 c * s.shoe.privStride) &&& 0x0000FFFFFFFFF000 ∧ b.privSize = s.shoe.privStride ∧ b.xlat = x ∧
    b.slipwin = (if l.kern.slipInit = 0 then 1024 else l.kern.slipInit.setWidth 13) ∧
    b.handlen = (if l.kern.handLen = 0 then 32 else l.kern.handLen.setWidth 9) ∧ b.issue = Issue.zero ∧ b.evq = [] ∧
    b.trapActive = false ∧ b.priv = false ∧ b.launch = some n ∧ b.kern = some l.kern ∧ b.owner = some (recTenant l.record)) ∧
  (∀ c s, c < 1024 → (curBank s c).st = .running → (curBank s c).exiting = true → (curBank s c).stopping = false →
    (curBank s c).pend = none → (curBank s c).due = [] → exitReady s c = true →
    (takeError (getCore s c) = none → exec (.exitComplete c) s = .next (release s c)) ∧
    (∀ r k, takeError (getCore s c) = some (r, k) → exec (.exitComplete c) s = .next (takeFault (setCore s c k) c
      { r with engine := 3, pc := (curBank s c).pcOf .a } (some ((curBank s c).pcOf .a))))) ∧
  (∀ n s l, n < 64 → swf s.cores 0 Core.zero = true → getLaunch s n = some l → l.roundScope ≠ 2 → l.started.Nodup →
    l.started.all (hasArrived s n l) = true → roundWaiters s n l ≠ [] →
    ∃ u, exec (.roundComplete n) s = .next u ∧ u.mem = s.mem ∧
      (∀ c ∈ roundWaiters s n l, (getBank u c false).round.waiting = false ∧
        (getBank u c false).round.count = (getBank s c false).round.count + 1 ∧
        (getBank u c false).pc = (getBank s c false).passAll.pc) ∧
      ∀ c, c ∉ roundWaiters s n l → getCore u c = getCore s c) ∧
  (∀ n s l, n < 64 → getLaunch s n = some l → l.started.all (hasArrived s n l) = false →
    exec (.roundComplete n) s = .next s) ∧
  (∀ n d s l, n < 64 → getLaunch s n = some l → exec (.roundArrivalNotice n d) s =
    .next (advanceRound (setLaunch (modPort s d Port.heard) n (some { l with gotDims := l.gotDims ++ [d] })) n))

/-- O51. Packets: the next of its stream is delivered once and answered, an earlier one is acknowledged again with its
saved response, a later one is discarded; an ordered-flag packet waits for its stream and its marks; an answer frees its
packet; the timer resends all that is unacknowledged, and after RETRY resends of the oldest answers it LINK; classes and
labels (R195, R300-R303, R307, R310). A fault comes only for the last word that A issued (log 6); when streams end is
log 40, that whatever is heard of a neighbour clears the inbound tag failures of its port log 34, and that an unusable
tenant record is answered like an absent one, and a lane that is to be found with its address, log 59. -/
def Obligations.PacketMoves : Prop :=
  (∀ s p k, (p.dst ≠ s.fabric.label ∨ p.resp ≠ none) → exec (.remoteRequestDeliver p k) s = .next s) ∧
  (∀ s p k, p.dst = s.fabric.label → p.resp = none →
    let h := heardFrom s p.src p.dst p.rclass
    let t := getRecv s p.src p.core p.sclass
    let ahead := (p.num - t.expect).toInt
    (ahead < 0 → t.saved.find? (fun x => x.1 == p.num) = none → exec (.remoteRequestDeliver p k) s = .next h) ∧
    (∀ m r j d x l, ahead < 0 → t.saved.find? (fun x => x.1 == p.num) = some (m, r) → p.rclass = some j →
      path s.fabric.label.toNat p.src.toNat j.toNat = (x, d) :: l →
      ((getPort s d).st = 2 → exec (.remoteRequestDeliver p k) s =
        .next (modPort h d fun q => { q with pkts := q.pkts ++ [{ blankPacket s p.core p.src p.sclass p.kind p.tenant 0 with
          rclass := some j, num := m, resp := some r }] })) ∧
      ((getPort s d).st ≠ 2 → exec (.remoteRequestDeliver p k) s = .next h)) ∧
    (0 < ahead → p.kind ≠ .sto → exec (.remoteRequestDeliver p k) s = .next h) ∧
    (∀ u r, ahead = 0 → p.kind ≠ .sto → p.parts ≤ 1 → serveOne h p k = some (u, r) →
      exec (.remoteRequestDeliver p k) s = .next (delivered u p [(p.num, r)])) ∧
    (ahead = 0 → p.kind = .sto → marksReached s p = true → exec (.remoteRequestDeliver p k) s = .next (deliverSto h p)) ∧
    (0 ≤ ahead → p.kind = .sto → (ahead ≠ 0 ∨ marksReached s p = false) → s.fabric.heldSto = [] →
      exec (.remoteRequestDeliver p k) s = .next { h with fabric := { h.fabric with heldSto := [p] } })) ∧
  (∀ s a b k d x, (path a.toNat b.toNat k.toNat).find? (fun h => h.1 ^^^ 2 ^ h.2 == s.fabric.label.toNat) = some (x, d) →
    heardFrom s a b (some k) = modPort s d fun p => { p with tagsIn := 0 }) ∧
  (∀ s p l, (getRecv (delivered s p l) p.src p.core p.sclass).expect = (getRecv s p.src p.core p.sclass).expect + 1 ∧
    (getRecv (delivered s p l) p.src p.core p.sclass).saved.length ≤ 64 ∧ (delivered s p l).mem = s.mem) ∧
  (∀ s p k, p.kind ≠ .replica → p.lane = false → requestView s p = none → serveOne s p k = some (s, .fault ⟨0x10, 0, 0,
    BitVec.ofNat 64 (3 * 2 ^ 62 + p.dst.toNat * 2 ^ 40 + p.off.toNat), p.plane, p.suit, 3 + 5 * 2 ^ 32⟩)) ∧
  (∀ s v p f wr, p.kind = (if wr then PacketKind.store else .load) → p.ebits = 0 → p.lane = false → p.dst = s.fabric.label →
    requestView s p = some v →
    locate s v s.seq (BitVec.ofNat 64 (3 * 2 ^ 62 + p.dst.toNat * 2 ^ 40 + p.off.toNat)) p.plane p.suit p.size (!wr) wr false =
      .ok f →
    (p.op ≠ 0x4D) → remapHolds s s.seq f.places = false → ∀ k, serveOne s p k = some (if wr then
      (writePlaces s f.places (ofBytes p.data), .data [] f.clamped)
      else (s, .data (bytesOf (readPlaces s f.places) p.size) f.clamped))) ∧
  (∀ s v p k, p.kind = .load → p.ebits = 0 → p.lane = true → p.op ≠ 0 → requestView s p = some v →
    let x := packetAddr s v p
    let told := some (s, Response.data (bytesOf x.toNat 8) false)
    let at_ := locate s v s.seq x p.plane p.suit p.size (p.op != 0x4F) (p.op == 0x4F) true
    ((isRemote s x = true ∨ aperture x ≠ .node) → serveOne s p k = told) ∧
    (∀ f, aperture x = .node → isRemote s x = false → at_ = .ok f → serveOne s p k = told) ∧
    ∀ code addr pl su info, aperture x = .node → isRemote s x = false → at_ = .error (.fault code addr pl su info) →
      serveOne s p k = some (s, .fault ⟨code.num, 0, 0, addr, pl, su, info⟩)) ∧
  (∀ s src c k p, s.fabric.heldSto.find? (fun q => q.src == src && q.core == c && q.sclass == k &&
      q.num == (getRecv s src c k).expect) = some p →
    (marksReached s p = true → exec (.stoDeliver src c k) s = .next (deliverSto s p)) ∧
    (marksReached s p = false → exec (.stoDeliver src c k) s = .next s)) ∧
  (∀ s c dst k n r, (getSend s c dst k).unacked.find? (fun p => p.num == n) = none →
    exec (.remoteAck c dst k n r) s = .next s) ∧
  (∀ s c dst k n r p, (getSend s c dst k).unacked.find? (fun p => p.num == n) = some p →
    (mayAnswer s p r = true → exec (.remoteAck c dst k n r) s = .next (answerPacket
      (forgetPacket (heardFrom s p.dst s.fabric.label p.rclass) (getSend s c dst k) p) p r)) ∧
    (mayAnswer s p r = false → failed r = true ∧ exec (.remoteAck c dst k n r) s = .next s)) ∧
  (∀ s p, (∀ q, q ∈ (getSend (forgetPacket s (getSend s p.core p.dst p.sclass) p) p.core p.dst p.sclass).unacked →
    q.num ≠ p.num)) ∧
  (∀ s c dst k p l, (getSend s c dst k).unacked = p :: l →
    (s.fabric.e2eRetry.toNat ≤ sget (getSend s c dst k).resends p.num.toNat 0 →
      mayAnswer s p (.fault (unreachable p)) = true → exec (.e2eResend c dst k) s =
        .next (answerPacket (forgetPacket s (getSend s c dst k) p) p (.fault (unreachable p)))) ∧
    (sget (getSend s c dst k).resends p.num.toNat 0 < s.fabric.e2eRetry.toNat → ∃ n, exec (.e2eResend c dst k) s =
      .next (resendAll (putSend s { getSend s c dst k with resends := n }) (p :: l)) ∧
      sget n p.num.toNat 0 = sget (getSend s c dst k).resends p.num.toNat 0 + 1 + (l.filter fun q => q.num == p.num).length)) ∧
  (∀ p : Packet, (unreachable p).code = 0x40 ∧ (unreachable p).info = BitVec.ofNat 64 (1 + p.dst.toNat * 2 ^ 32)) ∧
  (∀ s c dst k, (getSend s c dst k).unacked = [] → exec (.streamExpire true c dst k) s = .next { s with fabric :=
    { s.fabric with sends := s.fabric.sends.filter fun t => !t.is c dst k } }) ∧
  (∀ s c src k, s.fabric.heldSto = [] → exec (.streamExpire false c src k) s = .next { s with fabric := { s.fabric with
    recvs := s.fabric.recvs.filter fun t => !t.is src c k
    parts := s.fabric.parts.filter fun q => !(q.src == src && q.core == c && q.sclass == k) } }) ∧
  (∀ s dst k, (dst, k) ∉ s.fabric.marks → exec (.downNotice dst k) s =
    .next { s with fabric := { s.fabric with marks := s.fabric.marks ++ [(dst, k)] } }) ∧
  (∀ s dst k, (dst, k) ∈ s.fabric.marks → exec (.downNotice dst k) s = .next s ∧ classUsable s dst k.toNat = false) ∧
  (∀ s p k d, p.rclass = some k → (path p.src.toNat p.dst.toNat k.toNat).find? (fun h => h.1 == s.fabric.label.toNat) =
      some (s.fabric.label.toNat, d) →
    let h := heardFrom s p.src p.dst (some k)
    ((getPort s d).st = 2 → exec (.packetHopArrival p) s = .next (modPort h d fun q => { q with pkts := q.pkts ++ [p] })) ∧
    ((getPort s d).st ≠ 2 → exec (.packetHopArrival p) s =
      .next { h with fabric := { h.fabric with notices := h.fabric.notices ++ [(p.src, p.dst, k)] } })) ∧
  (∀ v s, s.disc.ready = true → (∀ p ∈ s.fabric.ports, p.2.lockSt = 0) →
    exec (.fabLabelWrite v) s = .next { s with fabric := { s.fabric with label := v.setWidth 22 } }) ∧
  (∀ v s, s.disc.ready = true → (∃ p ∈ s.fabric.ports, p.2.lockSt ≠ 0) → exec (.fabLabelWrite v) s = .next s) ∧
  ∀ s, s.disc.ready = true → exec .fabDowngenWrite s =
    .next { s with fabric := { s.fabric with downGen := s.fabric.downGen + 1, marks := [] } }

/-- O52. The path of a class from one label to another crosses the dimensions in which they differ, each once, in
ascending order from the class's first dimension round; each hop leaves the node that the hops before it reach, and the
last reaches the destination (R301). -/
def Obligations.PathsReach : Prop :=
  ∀ (src dst : Nat) (k : BitVec 2), src < 2 ^ 22 → dst < 2 ^ 22 →
    let l := path src dst k.toNat
    l.map Prod.snd = ((List.range 22).map fun i => ([0, 6, 11, 16].getD k.toNat 0 + i) % 22).filter
      (fun d => (src ^^^ dst).testBit d) ∧
    (∀ i x d, l[i]? = some (x, d) → x = (l.take i).foldl (fun y h => y ^^^ 2 ^ h.2) src) ∧
    l.foldl (fun y h => y ^^^ 2 ^ h.2) src = dst

/-- O53. A port of a ready node: EN, RETRAIN and QUIESCE, coming up with fresh credit and the bind notice that is due,
going down, replays, lanes and packets (R299, R300, R306, R319, R322, R323). What a port keeps and forgets where these
rules do not say it is log 34. The lock of a port: LOCK from UNLOCKED, after which an enabled port trains; the end of
the session, which brings the port up; tag failures and rekeys in RUN; UNLOCK from LOCKED and ERROR, and from RUN only
when quiesced; any other command is refused (R391, R393-R395). Keys and group counts are the peer's (log 51). Tile
transfers over a bound link: the oldest entry not yet begun leaves under credit, with the binding's JOB; a transfer that
is the next of its direction and of the port's job enters the inbound queue with the port's owner, one of another job is
discarded, counted and reported; acknowledgements, credit and bind notices; the exclusion zone changes only timing
(R267, R319-R322). That a second transfer may begin before the first is acknowledged, and that this node's own credits
are the free places of its inbound queue, is log 34. -/
def Obligations.PortMoves : Prop :=
  (∀ d s, d < 22 → s.disc.ready = true → swf s.fabric.ports 0 Port.zero = true → let p := getPort s d
     let down (q : Port) (c : BitVec 8) : Port := { q with pkts := [], sending := 0, st := 0, cause := c }
     (p.lockSt = 0 → p.en = false → s.disc.ports.getLsbD d = true →
       exec (.portEnable d true) s = .next (setPort s d { p with en := true, st := 1, cause := 0 })) ∧
     (p.lockSt = 0 → p.en = false → s.disc.ports.getLsbD d = false →
       exec (.portEnable d true) s = .next (setPort s d { p with en := true, st := 0, cause := 2 })) ∧
     (p.lockSt = 0 → p.bound = false → exec (.portEnable d false) s = .next (setPort s d { down p 1 with en := false })) ∧
     (p.lockSt = 0 → p.bound = true → p.lost = false → ∃ u, exec (.portEnable d false) s = .next u ∧
       u.fabric = (setPort s d { down p 1 with en := false, lost := true }).fabric ∧
       ∃ m, u.mbox = s.mbox.post false m ∧ m.extractLsb' 0 8 = 6) ∧
     (p.lockSt ≠ 0 → ∀ e, exec (.portEnable d e) s = .next s) ∧
     (p.en = true → s.disc.ports.getLsbD d = true → exec (.portRetrain d) s = .next (setPort s d { p with
       pkts := [], sending := 0, tagsIn := 0, tagsOut := 0, lockSt := if p.lockSt = 2 then 1 else p.lockSt
       st := 1, cause := 0 })) ∧
     (∀ on, exec (.portQuiesce d on) s = .next (setPort s d { p with
       quiesce := on, st := if p.st = 2 ∨ p.st = 3 then (if on then 3 else 2) else p.st })) ∧
     (∀ l, p.en = true → p.st ≠ 2 → p.st ≠ 3 → s.disc.ports.getLsbD d = true →
       (l ≠ s.fabric.label ^^^ (1 : BitVec 22) <<< d → exec (.portUp d l) s = .next (setPort s d { down p 3 with peer := l })) ∧
       (l = s.fabric.label ^^^ (1 : BitVec 22) <<< d →
         (p.lockSt = 1 → exec (.portUp d l) s = .next (setPort s d { p with peer := l, st := 1, cause := 0 })) ∧
         (p.lockSt ≠ 1 → p.lockSt ≠ 2 → exec (.portUp d l) s = .next (setPort s d { p with peer := l, st := 0, cause := 6 })) ∧
         (p.lockSt = 2 → exec (.portUp d l) s = .next (setPort s d { p with
           st := if p.quiesce then 3 else 2, peer := l, cause := 0, replays := 0, flitFails := 0, tagsIn := 0, tagsOut := 0
           sending := 0, credit := 0, noticeDue := false, notice := if p.noticeDue then some p.bound else p.notice })))) ∧
     (∀ c ∈ [(2 : BitVec 8), 3, 4, 5], p.st ≠ 0 → exec (.portDown d c) s = .next (setPort s d (down p c))) ∧
     ((p.st = 2 ∨ p.st = 3) →
       let r := if p.replays = 0xFFFF then p.replays else p.replays + 1
       exec (.linkReplay d (.good true)) s = .next (setPort s d { p with replays := r, flitFails := 0, tagsIn := 0 }) ∧
       exec (.linkReplay d (.good false)) s = .next (setPort s d { p with replays := r, flitFails := 0, tagsOut := 0 }) ∧
       (p.flitFails < 15 → exec (.linkReplay d .bad) s = .next (setPort s d { p with replays := r, flitFails := p.flitFails + 1 })) ∧
       (15 ≤ p.flitFails → exec (.linkReplay d .bad) s = .next (setPort s d { down p 4 with replays := r, flitFails := 0 }))) ∧
     (∀ l, p.st ≠ 0 → (p.spared = false → exec (.laneFailure d l) s = .next (setPort s d { p with spared := true, lane := l })) ∧
       (p.spared = true → exec (.laneFailure d l) s = .next (setPort s d (down p 5)))) ∧
     exec (.flitAgeDiscard d) s = .next (setPort s d { p with pkts := p.pkts.drop 1 }) ∧
     ((p.st = 2 ∨ p.st = 3) → exec (.linkLost d) s = .next s) ∧
     (p.st ≠ 2 → p.st ≠ 3 → p.bound = true → p.lost = false → ∃ u, exec (.linkLost d) s = .next u ∧
       u.fabric = (setPort s d { p with lost := true }).fabric ∧ ∃ m, u.mbox = s.mbox.post false m ∧ m.extractLsb' 0 8 = 6)) ∧
  (∀ d s, d < 22 → s.disc.ready = true → let p := getPort s d
     let trains := p.en && s.disc.ports.getLsbD d
     (p.lockSt = 0 → exec (.lockCmdLock d) s = .next (setPort s d { p with
       pkts := [], sending := 0, lockSt := 1, lockCause := 0, tagsIn := 0, tagsOut := 0
       st := if trains then 1 else p.st, cause := if trains then 0 else p.cause })) ∧
     (p.lockSt ≠ 0 → exec (.lockCmdLock d) s = .next (setPort s d { p with refused := true })) ∧
     ((p.lockSt = 1 ∨ p.lockSt = 3) → exec (.lockCmdUnlock d) s = .next (setPort s d { p with lockSt := 0, lockCause := 0 })) ∧
     ((p.lockSt = 0 ∨ (p.lockSt = 2 ∧ p.st ≠ 3)) → exec (.lockCmdUnlock d) s = .next (setPort s d { p with refused := true })) ∧
     (p.lockSt = 2 → p.st = 3 → ∃ u, exec (.lockCmdUnlock d) s = .next u ∧ u.fabric = (setPort s d { p with
       pkts := [], sending := 0, st := 0, cause := 6, lockSt := 0, lockCause := 0 }).fabric ∧
       ∃ m, u.mbox = s.mbox.post false m ∧ m.extractLsb' 0 8 = 7) ∧
     (∀ e, p.lockSt ≠ 1 → exec (.lockSessionDone d e) s = .next s) ∧
     (p.lockSt = 1 → s.mgmt.st = 2 → p.st = 1 → p.peer = s.fabric.label ^^^ (1 : BitVec 22) <<< d →
       exec (.lockSessionDone d .complete) s = .next (setPort s d { p with
         lockSt := 2, st := if p.quiesce then 3 else 2, cause := 0, replays := 0, flitFails := 0, tagsIn := 0, tagsOut := 0
         sending := 0, credit := 0, noticeDue := false, notice := if p.noticeDue then some p.bound else p.notice })) ∧
     (p.lockSt = 1 → s.mgmt.st ≠ 2 → exec (.lockSessionDone d .complete) s = .next s) ∧
     (p.lockSt = 1 → exec (.lockSessionDone d .failed) s = .next (lockError s d 3) ∧
       exec (.lockSessionDone d .badPeer) s = .next (lockError s d 2)) ∧
     (p.lockSt = 2 → (p.st = 2 ∨ p.st = 3) →
       let r := if p.replays = 0xFFFF then p.replays else p.replays + 1
       (p.tagsIn < 3 → exec (.tagFailure d true) s = .next (setPort s d { p with replays := r, tagsIn := p.tagsIn + 1 })) ∧
       (p.tagsOut < 3 → exec (.tagFailure d false) s = .next (setPort s d { p with replays := r, tagsOut := p.tagsOut + 1 })) ∧
       (3 ≤ p.tagsIn → exec (.tagFailure d true) s = .next (lockError s d 1)) ∧
       (3 ≤ p.tagsOut → exec (.tagFailure d false) s = .next (lockError s d 1))) ∧
     (p.lockSt = 2 → s.mgmt.st = 2 → exec (.rekey d false) s = .next (lockError s d 4)) ∧
     exec (.rekey d true) s = .next s ∧
     (∀ c, swf s.fabric.ports 0 Port.zero = true → p.bound = false → let u := lockError s d c
       (getPort u d).lockSt = 3 ∧ (getPort u d).lockCause = c ∧ (getPort u d).st = 0 ∧ (getPort u d).cause = 6 ∧
       ∃ m, u.mbox = s.mbox.post false m ∧ m.extractLsb' 0 8 = 7)) ∧
  (∀ d s, d < 22 → let p := getPort s d
     let heard : Port := { p with tagsIn := 0 }
     (∀ e, p.bound = true → p.lost = false → p.st = 2 → p.quiesce = false → p.credit ≠ 0 → p.outq[p.sending]? = some e →
       exec (.linkTransferBegin d) s = .next (setPort s d { p with
         outq := lset p.outq p.sending { e with job := p.job }, sending := p.sending + 1, credit := p.credit - 1 })) ∧
     ((p.bound = false ∨ p.credit = 0 ∨ p.outq.length ≤ p.sending) → exec (.linkTransferBegin d) s = .next (setPort s d p)) ∧
     (∀ n e, (p.lost = true ∨ (p.st ≠ 2 ∧ p.st ≠ 3)) → exec (.linkTransferReceive d n e) s = .next s) ∧
     (∀ n e, n ≠ p.rxNum → (p.st = 2 ∨ p.st = 3) → p.lost = false →
       exec (.linkTransferReceive d n e) s = .next (setPort s d heard)) ∧
     (∀ e, (p.st = 2 ∨ p.st = 3) → p.lost = false → p.bound = true → e.job = p.job → advertised s d ≠ 0 →
       exec (.linkTransferReceive d p.rxNum e) s = .next (pushTile (setPort s d { heard with rxNum := p.rxNum + 1 })
         p.table.toNat (32 + d) { e with owner := p.tenant })) ∧
     (p.bound = true → advertised s d = 4 - (p.inq.length + heldPlaces s p.table.toNat (32 + d))) ∧
     (p.bound = false → advertised s d = 0) ∧
     (∀ e, (p.st = 2 ∨ p.st = 3) → p.lost = false → (p.bound = false ∨ e.job ≠ p.job) →
       ∃ u, exec (.linkTransferReceive d p.rxNum e) s = .next u ∧ u.fabric = (setPort s d { heard with
         rxNum := p.rxNum + 1, mism := if p.mism = 255 then p.mism else p.mism + 1 }).fabric ∧
         ∃ m, u.mbox = s.mbox.post false m ∧ m.extractLsb' 0 8 = 5) ∧
     ((p.st = 2 ∨ p.st = 3) → p.lost = false → p.sending ≠ 0 → exec (.transferAck d p.txNum) s =
       .next (setPort s d { heard with outq := p.outq.drop 1, txNum := p.txNum + 1, sending := p.sending - 1 })) ∧
     (∀ n, n ≠ p.txNum → (p.st = 2 ∨ p.st = 3) → exec (.transferAck d n) s = .next (setPort s d heard)) ∧
     (∀ n : BitVec 3, (p.st = 2 ∨ p.st = 3) → exec (.creditAdvertise d n) s =
       .next (setPort s d { heard with credit := BitVec.ofNat 3 (min 4 (p.credit.toNat + n.toNat)) })) ∧
     (∀ b, (p.st = 2 ∨ p.st = 3) → exec (.bindNotice d b) s =
       .next (setPort s d { heard with txNum := 0, rxNum := 0, sending := 0, credit := if b then 4 else 0 })) ∧
     ∀ t, t < 64 → exec (.exclusionWindow t) s = .next s)

namespace Sys2Proof.Claims

/-- CSR images of the snapshot window whose every field is the context's own, with those fields. -/
def ownImages : List (Nat × Word) :=
  [(0x010, 0x1FFF), (0x011, 0xFFFFFFFFFFFFFFFF), (0x012, 0xFFFFFFFFFFFFFFFF), (0x013, 0xFFFFFFFFFFFFFFFF), (0x014, 0xFFFFFF),
   (0x020, 0xFFFFFFFF), (0x02F, 0xFFFFFFFF), (0x040, 0xFF), (0x041, 3), (0x042, 0xFFFFFFFFFFFFFFFF), (0x043, 0xFFFFFFFFFFFFFFFF),
   (0x044, 7), (0x045, 0xF), (0x046, 0xFFFFFFFFFFFFFFFF), (0x048, 3), (0x049, 0xFFFFFFFFFFFFFFFF), (0x04A, 0xFFFFFFFFFFFFFFFF),
   (0x04B, 0xFFFFFFFFFFFFFFFF), (0x060, 7), (0x061, 0xFFFFFFFF), (0x062, 0x1F), (0x071, 0x33F), (0x072, 0x0000FFFFFFFFF000),
   (0x080, 0xFFFFFFF000), (0x081, 0xFFFFFFFFC0), (0x082, 0x1FFFF), (0x083, 3), (0x084, 1), (0x0A0, 0x1FF), (0x0A3, 0xFFFFFF),
   (0x0A4, 0xF07FFFFFFFF), (0x0B0, 0x1FFFFFFFF), (0x0B1, 0xFFFFFFFF), (0x0B2, 0xFFFF01), (0x0B3, 0xFF), (0x0B4, 0xFF),
   (0x0B5, 0xFF), (0x0B6, 0xFFFFFFFF0F73)]

end Sys2Proof.Claims

/-- O54. Translation caches, banks and errors of storage: a walk is joined or started, makes one read at a time, and its
end caches the leaf found, unless a shoot-down has overtaken the walk, and gives it or its fault to all that joined it;
what meets a walk in flight joins it and makes its remaining reads, and waits only for a walker (log 7); a plane-frame
entry is cached; LIVE takes only banks that are present; a failing bank leaves LIVE and posts BANK; a sector without
users becomes poisoned (R199, R226, R227, R308, R387). Which entry leaves a full cache is log 7, and how the frame's
entry is known log 24. A read of the CHIP aperture gives the register, accumulator or byte of the held tile at its
offset, and a write changes that alone: of the bank that offset bit 34 selects; a0, s0 and m0 read 0 and discard writes,
as do accumulators that the core does not hold and a held tile that is not set or ends before the offset (R192). The
snapshot window of a bank lies at 0x8000 times its number. A write is discarded unless the bank is stopped or restoring,
but for the header of an empty one; else what it wrote of the register's fields is read back, no other register of the
window changes (of the CSR images ten are named), and the registers and the other bank stay. With SHSEL = 1 a write of
the issue state goes to the trap shadow, and is discarded while no handler is active (R358-R360, R362). -/
def Obligations.StorageMoves : Prop :=
  ((∀ c b va s, c < 1024 → b < 2 → (getBank s c (b == 1)).st ≠ .empty → (getCore s c).gated = false →
     let page := va.toNat / 4096
     let k := getCluster s (c / 64)
     ((getCore s c).tlb ++ (getTable s (c / 16)).tlb).any (tlbHit (viewOf s c (b == 1)) (4096 * page)) = false →
     (k.walks.any (fun w => w.is c b (getBank s c (b == 1)).tenant page) = false →
       exec (.walkStart c b va) s = .next (setCluster { s with seq := s.seq + 1 } (c / 64) { k with walks := k.walks ++
         [⟨s.seq, c, b, (getBank s c (b == 1)).tenant, BitVec.ofNat 36 page, ⟨4, 0, 0, 0⟩, 0, [], false⟩] })) ∧
     (∀ w l, k.walks = w :: l → w.is c b (getBank s c (b == 1)).tenant page = true →
       (∀ x ∈ l, x.is c b (getBank s c (b == 1)).tenant page = false) →
       exec (.walkStart c b va) s = .next (setCluster s (c / 64) { k with
         walks := { w with joined := if w.joined = 255 then 255 else w.joined + 1 } :: l }))) ∧
   (∀ n i s w, n < 16 → i < 128 → (getCluster s n).walks[i]? = some w → exec (.walkComplete n i) s = .next (advanceWalk s w)) ∧
   (∀ n i s, n < 16 → 128 ≤ i → exec (.walkComplete n i) s = .next s) ∧
   (∀ s (w : Walk), let v := viewOf s w.core (w.bank == 1)
     let k := getCluster s (w.core / 64)
     let u := setCluster s (w.core / 64) { k with walks := k.walks.filter fun x => x.id != w.id }
     let va := 4096 * w.vpage.toNat
     ((v.tenant ≠ w.tenant ∨ (getBank s w.core (w.bank == 1)).st = .empty ∨ (getCore s w.core).gated = true) →
       advanceWalk s w = u) ∧
     (v.tenant = w.tenant → (getBank s w.core (w.bank == 1)).st ≠ .empty → (getCore s w.core).gated = false →
       (∀ r, readOn s v va w.at_ = .ok (.inl r) → advanceWalk s w = setCluster s (w.core / 64) { k with
         walks := k.walks.map fun x => if x.id == w.id then { x with at_ := r } else x }) ∧
       (∀ code info a, readOn s v va w.at_ = .error (.fault code info a) →
         advanceWalk s w = walkDelivers u w (.fault code info)) ∧
       (∀ lev leaf psd, w.stale = true → readOn s v va w.at_ = .ok (.inr (lev, leaf, psd)) → advanceWalk s w =
         walkDelivers u w (.leaf (BitVec.ofNat 2 lev) (BitVec.ofNat 64 leaf) (BitVec.ofNat 512 psd) w.id)) ∧
       ∀ lev leaf psd, w.stale = false → readOn s v va w.at_ = .ok (.inr (lev, leaf, psd)) → swf s.cores 0 Core.zero = true →
         advanceWalk s w = walkDelivers (cacheLeaf u w.core w.bank v va lev leaf psd) w
           (.leaf (BitVec.ofNat 2 lev) (BitVec.ofNat 64 leaf) (BitVec.ofNat 512 psd) w.id) ∧
         (getCore (advanceWalk s w) w.core).tlb.length ≤ max 64 (getCore s w.core).tlb.length ∧
         ∃ e, (getCore (advanceWalk s w) w.core).tlb.getLast? = some e ∧ e.tenant = w.tenant ∧ e.bank = w.bank ∧
           e.leaf = BitVec.ofNat 64 leaf ∧ e.level = BitVec.ofNat 2 lev)) ∧
   (∀ s (w : Walk) d, walkDelivers s w d =
     w.waiters.foldl (fun s x => deliverTo s w.core (w.bank == 1) ⟨x, w.vpage, d⟩) s) ∧
   (∀ s c b (r : Walked), swf s.cores 0 Core.zero = true →
     let x := getBank s c b
     let u := deliverTo s c b r
     (∀ id, r.to_ = .job id → getBank u c b = x ∧ ∀ j, j ∈ (getCore u c).jobs ↔ ∃ i ∈ (getCore s c).jobs,
       j = if i.id = id then { i with walked := i.walked ++ [r] } else i) ∧
     ((∀ id, r.to_ ≠ .job id) → (x.stands r.to_ = false → getBank u c b = x) ∧
       (x.stands r.to_ = true → ∀ y, y ∈ (getBank u c b).walked ↔ (y ∈ x.walked ∧ x.stands y.to_ = true) ∨ y = r))) ∧
   (∀ s v who (f : State → Act State), ((∀ page, f s ≠ .error (.walk page)) → lookUpState s v who f = (s, f s)) ∧
     ∀ page, f s = .error (.walk page) →
       (walkAnswer s v who page = none → lookUpState s v who f = (s, .error (.walk page))) ∧
       ∀ r u, 0 < walksToMeet s v → walkAnswer s v who page = some (r, u) →
         (∀ q, f (givenIn u v [r]) ≠ .error (.walk q)) → lookUpState s v who f = (u, ungiven v (f (givenIn u v [r])))) ∧
   (∀ s v who page, let l := (getCluster s (v.core / 64)).walks
     let is := fun (w : Walk) => w.is v.core v.bank.toNat v.tenant page
     (∀ r, takeDelivery s v who page = some r → walkAnswer s v who page = some r) ∧
     (takeDelivery s v who page = none →
       (∀ w, (l.take 128).find? is = some w → walkAnswer s v who page = finishWalk s v who w) ∧
       (128 ≤ l.length → (l.take 128).find? is = none → walkAnswer s v who page = none))) ∧
   (∀ s v who (w : Walk) lev leaf psd, (∀ e n, who ≠ .fetch e n) → walkFrom s v (4096 * w.vpage.toNat) 5 w.at_ = .ok (lev, leaf, psd) →
     let d : Delivered := .leaf (BitVec.ofNat 2 lev) (BitVec.ofNat 64 leaf) (BitVec.ofNat 512 psd) w.id
     finishWalk s v who w = some (⟨who, w.vpage, d⟩, walkDelivers (endWalk s v w (.ok (lev, leaf, psd)))
       { w with waiters := w.waiters.filter (fun x => x != who) ++ [who] } d)) ∧
   (∀ c b psd p f s d e, c < 1024 → b < 2 → (getBank s c (b == 1)).st ≠ .empty →
     let v := viewOf s c (b == 1)
     let t := getTable s (c / 16)
     let pa := psdFtb d p.toNat * 256 + 8 * f.toNat
     psd.toNat < v.xlat.psdn.toNat →
     t.pfc.any (fun e => e.tenant == v.tenant && e.bank == b && e.psdid == psd && e.plane == p && e.frame == f) = false →
     readStruct s (v.xlat.psdt.toNat / 64 * 64 + 64 * psd.toNat) 64 5 = .ok d → psdBad d = false → p.toNat < psdPlanes d →
     readStruct s pa 8 0 = .ok e → cacheable s e (planeWidth (psdAttr d p.toNat)) = true →
     exec (.planeFrameFill c b psd p f) s = .next (setTable s (c / 16) { t with
       pfc := cacheAdd 4096 t.pfc ⟨v.tenant, b, psd, p, f, pa, BitVec.ofNat 64 e⟩ })) ∧
   (∀ ch v s, s.disc.ready = true → exec (.nearLiveWrite ch v) s =
     .next (setNear s ch.toNat { nearMap s ch.toNat with live := v &&& banksPresent s ch.toNat })) ∧
   (∀ ch b c s, (nearMap s ch.toNat).live.getLsbD b.toNat = true → swf s.near 0 Near.zero = true → (c = 1 ∨ c = 2) →
     ∃ u, exec (.bankFailureEvent ch b c) s = .next u ∧ u.mem = s.mem ∧ (nearMap u ch.toNat).ilv = (nearMap s ch.toNat).ilv ∧
       (∀ i, i < 16 → (nearMap u ch.toNat).live.getLsbD i = ((nearMap s ch.toNat).live.getLsbD i && i != b.toNat)) ∧
       ∃ m, u.mbox = s.mbox.post false m ∧ m.extractLsb' 0 8 = 4 ∧ m.extractLsb' 8 8 = c) ∧
   (∀ ch b c s, c ≠ 1 → c ≠ 2 → exec (.bankFailureEvent ch b c) s = .next s) ∧
   (∀ loc s, loc < 2 ^ 40 → backed s loc = true → sectorUsers s loc = [] → framesOf s [loc / 32 * 32] = [] →
     ∃ u, exec (.sectorPoison loc none) s = .next u ∧ u.mem = s.mem ∧
       ∀ a, poisoned u a = (poisoned s a || a / 32 == loc / 32))) ∧
  ((∀ s c kind off n v, wrPlace s ⟨.chip c kind off 0, 8 * n, 8 * n⟩ v = chipWrite s c kind off n v ∧
     rdPlace s ⟨.chip c kind off 0, 8 * n, 8 * n⟩ = chipRead s c kind off n) ∧
   (∀ s c kind off n v, (chipWrite s c kind off n v).mem = s.mem ∧
     ∀ i, i ≠ c → getCore (chipWrite s c kind off n v) i = getCore s i) ∧
   (∀ s c (b : Bool) r (v : Word), r < 32 → let at_ := b.toNat * 2 ^ 34
     (chipWrite s c 2 (at_ + 8 * r) 8 v.toNat = modBank s c b fun x => x.wa r v) ∧
     (chipWrite s c 2 (at_ + 0x100 + 8 * r) 8 v.toNat = modBank s c b fun x => x.ws r v) ∧
     (r < 16 → (chipWrite s c 2 (at_ + 0x200 + 8 * r) 8 v.toNat = modBank s c b fun x => x.wm r v) ∧
       chipRead s c 2 (at_ + 0x200 + 8 * r) 8 = ((getBank s c b).rm r).toNat) ∧
     chipRead s c 2 (at_ + 8 * r) 8 = ((getBank s c b).ra r).toNat ∧
     chipRead s c 2 (at_ + 0x100 + 8 * r) 8 = ((getBank s c b).rs r).toNat) ∧
   (∀ (x : Bank) v, x.wa 0 v = x ∧ x.ws 0 v = x ∧ x.wm 0 v = x ∧ x.ra 0 = 0 ∧ x.rs 0 = 0 ∧ x.rm 0 = 0) ∧
   (∀ (x : Bank) r i v, r ≠ 0 → swf x.a 0 (0 : Word) = true → swf x.s 0 (0 : Word) = true → swf x.m 0 (0 : Word) = true →
     ((x.wa r v).ra i = if i = r then v else x.ra i) ∧ ((x.ws r v).rs i = if i = r then v else x.rs i) ∧
     ((x.wm r v).rm i = if i = r then v else x.rm i) ∧ ({ x.wa r v with a := x.a, inflight := x.inflight } : Bank) = x ∧
     ({ x.ws r v with s := x.s } : Bank) = x ∧ ({ x.wm r v with m := x.m } : Bank) = x) ∧
   (∀ s c (b : Bool) n (v : Vec) (k : Mask), let at_ := b.toNat * 2 ^ 34
     (n < 48 → chipRead s c 1 (at_ + 512 * n) 512 = ((getBank s c b).rv n).toNat ∧ (swf (getBank s c b).v 0 (0 : Vec) = true →
       chipWrite s c 1 (at_ + 512 * n) 512 v.toNat = modBank s c b fun x => x.wv n v)) ∧
     (n < 8 → chipRead s c 1 (at_ + 0x6000 + 128 * n) 128 = ((getBank s c b).rk n).toNat ∧
       (swf (getBank s c b).k 0 (0 : Mask) = true →
         chipWrite s c 1 (at_ + 0x6000 + 128 * n) 128 k.toNat = modBank s c b fun x => x.wk n k))) ∧
   (∀ s c j e (v : Word), swf s.cores 0 Core.zero = true → swf (getCore s c).accs 0 (0 : BitVec 32) = true → j < 8 → e < 16384 →
     e % 2 = 0 → let k := getCore s c
     let u := chipWrite s c 3 (0x10000 * j + 4 * e) 8 v.toNat
     chipRead s c 3 (0x10000 * j + 4 * e) 8 =
       (if j < k.granted.toNat then (k.acc j e).toNat + 2 ^ 32 * (k.acc j (e + 1)).toNat else 0) ∧
     (k.granted.toNat ≤ j → getCore u c = k) ∧
     (j < k.granted.toNat → (getCore u c).acc j e = v.setWidth 32 ∧ (getCore u c).acc j (e + 1) = v.extractLsb' 32 32 ∧
       ∀ i f, f < 16384 → (i ≠ j ∨ (f ≠ e ∧ f ≠ e + 1)) → (getCore u c).acc i f = k.acc i f)) ∧
   ∀ s c o (v : Word), swf s.cores 0 Core.zero = true → o < 0x8000 → o % 8 = 0 → let k := getCore s c
     let u := chipWrite s c 5 o 8 v.toNat
     ((k.bank0.mat.held = false ∨ containerSize k.bank0.mat.heldFmt ≤ o) → chipRead s c 5 o 8 = 0 ∧ getCore u c = k) ∧
     ∀ e, k.bank0.mat.held = true → o < containerSize k.bank0.mat.heldFmt → k.heldTile = some e →
       swf e.bytes 0 (0 : Byte) = true → chipRead u c 5 o 8 = v.toNat ∧
       ∀ p, p < 0x8000 → p % 8 = 0 → p ≠ o → chipRead u c 5 p 8 = chipRead s c 5 p 8) ∧
  ((∀ s c (b : Bool) off (v : Word), off < 0x8000 → off % 8 = 0 →
     (chipWrite s c 4 (b.toNat * 0x8000 + off) 8 v.toNat = modCore s c fun k => snapPut k b off v) ∧
     chipRead s c 4 (b.toNat * 0x8000 + off) 8 = (snapGet s c b off).toNat) ∧
   (∀ (k : Core) b off v, (k.bank b).st ≠ .stopped → (k.bank b).st ≠ .restoring → ((k.bank b).st ≠ .empty ∨ off ≠ 0) →
     snapPut k b off v = k) ∧
   (∀ s c b v, swf s.cores 0 Core.zero = true → (getBank s c b).st = .empty → (∀ p ∈ (getBank s c b).staged, p.1 ≠ 0) →
     snapGet (modCore s c fun k => snapPut k b 0 v) c b 0 = v &&& 0xFFFFFFCFFC00FFFF) ∧
   ∀ s c b off (v : Word), c < 1024 → swf s.cores 0 Core.zero = true → off < 0x8000 → off % 8 = 0 →
     ((getBank s c b).st = .stopped ∨ (getBank s c b).st = .restoring) →
     (∀ e, swf ((getBank s c b).issue.loops.get e) 0 LoopState.zero = true) →
     let x := getBank s c b
     let u := modCore s c fun k => snapPut k b off v
     (getBank u c (!b) = getBank s c (!b) ∧ (getBank u c b).a = x.a ∧ (getBank u c b).s = x.s ∧ (getBank u c b).m = x.m ∧
       (getBank u c b).v = x.v ∧ (getBank u c b).k = x.k) ∧
     ((∀ p ∈ x.staged, p.1 ≠ off) → (off = 0 → snapGet u c b 0 = v &&& 0xFFFFFFCFFC00FFFF) ∧
       (off ∈ [8, 16, 24] → snapGet u c b off = v)) ∧
     (x.shsel = true → x.trapActive = false → snapSelected off = true → snapGet u c b off = snapGet s c b off) ∧
     (x.shsel = true → snapSelected off = true → (getBank u c b).issue = x.issue) ∧
     (off = 0x1240 → v.getLsbD 0 = false → (getBank u c b).shadow = Issue.zero ∧ ∀ p ∈ (getBank u c b).staged, p.1 < 0x10000) ∧
     (x.shsel = false → 0x100 ≤ off → off < 0x400 → (∀ p ∈ x.staged, p.1 ≠ off) →
       snapGet u c b off = if off % 16 < 8 then v else v &&& 0x1FFFFFFFF) ∧
     (x.shsel = false → 0x400 ≤ off → (off < 0x1000 ∨ 0x1800 ≤ off) →
       (snapMask off ≠ 0 → snapGet u c b off = v &&& snapMask off) ∧
       (snapMask off = 0 → snapGet u c b off = snapGet s c b off) ∧
       ∀ o, o < 0x8000 → o % 8 = 0 → o ≠ off → snapGet u c b o = snapGet s c b o) ∧
     ∀ n w, x.shsel = false → (n, w) ∈ ownImages → off = 0x1000 + 8 * n → snapGet u c b off = v &&& w ∧
       ∀ m ∈ [0x010, 0x014, 0x020, 0x040, 0x048, 0x061, 0x072, 0x080, 0x0A3, 0x0B6], m ≠ n → snapGet u c b (0x1000 + 8 * m) = snapGet s c b (0x1000 + 8 * m))

/-- O55. BAR2, for every access of 1 to 64 bytes inside the window: a read returns its bytes and is poisoned where a
sector is poisoned or retired, whose bytes read 0; a write changes exactly its bytes, sector by sector; a whole sector
written is no longer poisoned, a part of a poisoned sector and a retired sector abort, and an address that is not backed
answers Unsupported Request or is dropped and logged with the request's header (R308, R382, R389). The first write after
a reset begins to stage an image (log 52). -/
def Obligations.HostWindow : Prop :=
  (∀ off n s, 1 ≤ n → n ≤ 64 → off.toNat + n ≤ 2 ^ 32 →
    let pa := s.mgmt.hostwin.toNat / 2 ^ 32 % 256 * 2 ^ 32 + off.toNat
    exec (.bar2Read off n) s = .next { s with reply := hostRead s pa n } ∧
    ((∀ i, i < n → backed s (pa + i) = true ∧ backed s ((pa + i) / 32 * 32) = true ∧ retired s (pa + i) = false ∧
        poisoned s (pa + i) = false ∧ retired s ((pa + i) / 32 * 32) = false) →
      hostRead s pa n = .data (rdBytes s pa n) false) ∧
    (pa % 32 + n ≤ 32 → backed s pa = true → retired s pa = false → poisoned s pa = true →
      hostRead s pa n = .data (rdBytes s pa n) true) ∧
    (pa % 32 + n ≤ 32 → backed s pa = true → retired s pa = true → hostRead s pa n = .data (List.replicate n 0) true) ∧
    (pa % 32 + n ≤ 32 → backed s pa = false → hostRead s pa n = .unsupported)) ∧
  (∀ off n s, ¬ (1 ≤ n ∧ n ≤ 64 ∧ off.toNat + n ≤ 2 ^ 32) → exec (.bar2Read off n) s = .next s) ∧
  (∀ (off : BitVec 32) (l : List Byte) s, 1 ≤ l.length → l.length ≤ 64 → off.toNat + l.length ≤ 2 ^ 32 →
    let pa := s.mgmt.hostwin.toNat / 2 ^ 32 % 256 * 2 ^ 32 + off.toNat
    let t := { s with reply := .none, mgmt := { s.mgmt with staged := true } }
    exec (.bar2Write off l) s = .next (hostWriteParts ⟨off, l.length⟩ t l (sectorParts pa l.length)) ∧
    ((∀ i, i < l.length → backed s (pa + i) = true ∧ backed s ((pa + i) / 32 * 32) = true ∧ retired s (pa + i) = false ∧
        poisoned s (pa + i) = false ∧ retired s ((pa + i) / 32 * 32) = false ∧ poisoned s ((pa + i) / 32 * 32) = false) →
      Memory.wf s.mem = true →
      ∃ u, exec (.bar2Write off l) s = .next u ∧ u.aer = s.aer ∧ (∀ a, poisoned u a = poisoned s a) ∧
        ∀ a, rdByte u a = if pa ≤ a ∧ a < pa + l.length then l.getD (a - pa) 0 else rdByte s a) ∧
    (pa % 32 + l.length ≤ 32 →
      (backed s pa = false → exec (.bar2Write off l) s =
        .next { t with aer := s.aer ++ [.unsupported pa off l.length] }) ∧
      (backed s pa = true → (retired s pa = true ∨ (poisoned s pa = true ∧ l.length ≠ 32)) → exec (.bar2Write off l) s =
        .next { t with aer := s.aer ++ [.abort pa off l.length] }) ∧
      (backed s pa = true → retired s pa = false → l.length = 32 → exec (.bar2Write off l) s =
        .next (wrBytes (setPoison t pa false) pa l)))) ∧
  (∀ (off : BitVec 32) (l : List Byte) s, ¬ (1 ≤ l.length ∧ l.length ≤ 64 ∧ off.toNat + l.length ≤ 2 ^ 32) →
    exec (.bar2Write off l) s = .next s)

/-- O56. The mailbox, the readback block, firmware, SPDM, node reset and bring-up (R378, R385, R388, R390-R392, R402): a
held message is posted once a slot is free, one SERVICE message being held for a bank (log 50); LOAD needs a staged
image (log 52); the outcome of a verification is that of the image, and RESET keeps FAIL (log 37); NODE_RESET leaves
registers, LABEL, LIVE, ILV and owner tags as reset does (log 8, log 9, log 27); the writes that wait for bring-up are
log 36; SPDM codes are log 12. Power: one step of the loop above, below and within the band; the effective cap; the
emergency input halves DUTY and sets S to 15 until it recovers; E and AVG are compared in NPKG-ths of a watt, in which
GBUDGET / NPKG is a whole number; group reports, both ways; gating of an idle core (R365, R397, R399-R401). What INST
takes is free (log 11); when a core may be gated is log 26, and when a member counts as missed log 35. -/
def Obligations.PlatformMoves : Prop :=
  ((∀ s x l, s.mbox.held = x :: l → s.mbox.full = false → exec .mailboxHeldPost s = .next { s with mbox := { s.mbox with
     ring := sset s.mbox.ring (s.mbox.tail.toNat % 2 ^ s.mbox.log2.toNat) x 0, tail := s.mbox.tail + 1,
     msix := s.mbox.msix + 1, held := l } }) ∧
   (∀ s, (s.mbox.held = [] ∨ s.mbox.full = true) → exec .mailboxHeldPost s = .next s) ∧
   (∀ (m : Mailbox) v, (m.full = false → m.held = [] → m.post v = m.put) ∧
     (∀ x, m.full = true → (m.post true x).held.getLast? = some x ∧
       (m.post true x).held.Sublist (m.held ++ [x]) ∧
       (∀ y ∈ m.held, (y.extractLsb' 73 11 ≠ x.extractLsb' 73 11 ↔ y ∈ (m.post true x).held.dropLast)) ∧
       (m.post true x).ring = m.ring ∧ (m.post true x).lost = m.lost ∧
       (m.post false x).lost = (if m.lost = 0xFFFF then 0xFFFF else m.lost + 1) ∧ (m.post false x).held = m.held ∧
       (m.post false x).ring = m.ring)) ∧
   (∀ v s, s.disc.ready = true → exec (.mboxBaseWrite v) s =
     .next { s with mbox := { s.mbox with base := v &&& 0xFFFFFFFFFFFFF000, lost := 0 } }) ∧
   (∀ v s, ∃ r : Readback, exec (.rbSelWrite v) s = .next { s with readback := r } ∧ r.sel = v &&& 0xF3FF00000000FFFF ∧
     r.d0 = BitVec.ofNat 64 (nth (rbWords s v.toNat) 0 0) ∧ r.d1 = BitVec.ofNat 64 (nth (rbWords s v.toNat) 1 0) ∧
     r.d2 = BitVec.ofNat 64 (nth (rbWords s v.toNat) 2 0) ∧ r.d3 = BitVec.ofNat 64 (nth (rbWords s v.toNat) 3 0)) ∧
   (∀ s, s.mgmt.staged = true → exec .mgmtLoad s = .next { s with mgmt := { s.mgmt with st := 1, fail := 0 } }) ∧
   (∀ s, s.mgmt.staged = false → exec .mgmtLoad s = .next { s with mgmt := { s.mgmt with fail := 1 } }) ∧
   (∀ s, exec .mgmtReset s = .next { s with mgmt := { s.mgmt with st := 0 } }) ∧
   (∀ s, s.mgmt.st = 1 → exec (.firmwareVerifyDone (imageFail s) (imageSvn s)) s = .next (if imageFail s = 0 then
     { s with mgmt := { s.mgmt with st := 2, fail := 0, svn := imageSvn s }, disc := { s.disc with fwok := true } }
     else { s with mgmt := { s.mgmt with st := 3, fail := imageFail s } })) ∧
   (∀ f v s, (s.mgmt.st ≠ 1 ∨ f ≠ imageFail s ∨ v ≠ imageSvn s) → exec (.firmwareVerifyDone f v) s = .next s) ∧
   (∀ s, (imageFail s = 1 ↔ imageFormatOk s = false) ∧
     (imageFormatOk s = true → Config.sha384 (imageRsaKey s) ≠ s.disc.rsaHash → imageFail s = 2) ∧
     (imageFormatOk s = true → Config.sha384 (imageSlhKey s) ≠ s.disc.slhHash → imageFail s = 2) ∧
     (imageFormatOk s = true → Config.sha384 (imageRsaKey s) = s.disc.rsaHash → Config.sha384 (imageSlhKey s) = s.disc.slhHash →
       (imageFail s = 3 ↔ rdNum s (imageAt s + 8) 4 < s.disc.minSvn.toNat)) ∧
     (imageFail s = 0 ↔ imageFormatOk s = true ∧ Config.sha384 (imageRsaKey s) = s.disc.rsaHash ∧
       Config.sha384 (imageSlhKey s) = s.disc.slhHash ∧ s.disc.minSvn.toNat ≤ rdNum s (imageAt s + 8) 4 ∧
       Config.rsaOk (imageRsaKey s) (rdBytes s (imageAt s + 0x0010) 384) (imageDigest s) = true ∧
       Config.slhOk (imageSlhKey s) (rdBytes s (imageAt s + 0x0190) 16224) (imageDigest s) = true)) ∧
   (∀ c s, (s.mgmt.st ≠ 2 → exec (.spdmRequest c) s = .next { s with mgmt := { s.mgmt with spdm := some (0x7F, 0x03) } }) ∧
     (s.mgmt.st = 2 → c ∈ [(0x84 : Byte), 0xE1, 0xE3, 0x81, 0x82, 0x83, 0xE0, 0xE4, 0xE5, 0xFE] →
       exec (.spdmRequest c) s = .next { s with mgmt := { s.mgmt with spdm := some (c &&& 0x7F, 0) } }) ∧
     (s.mgmt.st = 2 → c ∉ [(0x84 : Byte), 0xE1, 0xE3, 0x81, 0x82, 0x83, 0xE0, 0xE4, 0xE5, 0xFE] →
       exec (.spdmRequest c) s = .next { s with mgmt := { s.mgmt with spdm := some (0x7F, 0x07) } })) ∧
   (∀ blk off v s, (blk = .readback ∨ blk = .power ∨ blk = .management ∨ s.disc.ready = true) →
     exec (.registerWrite blk off v) s = .next (writeBlock s blk off.toNat v.toNat)) ∧
   (∀ blk off v s, blk ≠ .readback → blk ≠ .power → blk ≠ .management → s.disc.ready = false →
     exec (.registerWrite blk off v) s = .next { s with mgmt := { s.mgmt with
       deferred := s.mgmt.deferred ++ [(blk, off, v)] } }) ∧
   (∀ s, ∃ u, exec .nodeReset s = .next u ∧ u.cores = [] ∧ u.tables = [] ∧ u.clusters = [] ∧ u.shoe = Shoe.zero ∧
     u.fabric = Fabric.zero ∧ u.near = [] ∧ u.mgmt = State.reset.mgmt ∧ u.power = State.reset.power ∧ u.disc.ready = false ∧
     u.disc.fwok = false ∧ u.mbox.en = false) ∧
   (∀ s, s.disc.ready = false → s.mgmt.st = 2 → s.mgmt.deferred = [] → ∃ u, exec .bringupReady s = .next u ∧
     u.disc.ready = true ∧ u.fabric.label = s.disc.label0 ∧ u.mem = s.mem ∧
     ∀ c, c < 1024 → (nearMap u c).live = banksPresent s c ∧ (nearMap u c).ilv = banksPresent s c) ∧
   (∀ s, (s.disc.ready = true ∨ s.mgmt.st ≠ 2) → exec .bringupReady s = .next s)) ∧
  ((∀ s, ∃ p : Power, exec .powerControlStep s = .next { s with power := p, free := s.free + 2 } ∧ p.cap = s.power.cap ∧ p.avg = s.power.avg ∧
     (s.power.effective < s.power.parts * s.power.avg.toNat → p.s.toNat = min (s.power.s.toNat + 1) 15 ∧ p.duty.toNat = max (s.power.duty.toNat - 1) 4) ∧
     (s.power.parts * s.power.avg.toNat * 20 < 19 * s.power.effective →
       p.s.toNat = s.power.s.toNat - 1 ∧ p.duty.toNat = min (s.power.duty.toNat + 1) 16) ∧
     (s.power.parts * s.power.avg.toNat ≤ s.power.effective → 19 * s.power.effective ≤ s.power.parts * s.power.avg.toNat * 20 → p = { s.power with inst := p.inst })) ∧
   (∀ p : Power, p.parts = max p.npkg.toNat 1 ∧ (p.gid = 0 → p.effective = p.parts * p.cap.toNat) ∧
     (p.gid ≠ 0 → p.effective = max (p.parts * 300) (min (p.parts * p.cap.toNat)
       (p.parts * p.budget.toNat - (p.members.map p.memberAvg).sum))) ∧
     ∀ i, ((∀ r ∈ p.reports, r.1 ≠ i) → p.memberAvg i = p.budget.toNat)) ∧
   (∀ s, s.power.level = false → ∃ u, exec .fastinAssert s = .next u ∧ u.power.level = true ∧ u.power.seen = true ∧
     u.power.stretch = 15 ∧ u.power.dutyNow = max (s.power.duty.toNat / 2) 2 ∧
     ∃ m, u.mbox = s.mbox.post false m ∧ m.extractLsb' 0 8 = 8 ∧ m.extractLsb' 8 8 = 1) ∧
   (∀ s, exec .fastinDeassert s = .next { s with power := { s.power with level := false } }) ∧
   (∀ s, s.power.level = false → exec .fastinRecover s = .next { s with power := { s.power with fast := false, active := false } }) ∧
   (∀ s, s.power.level = true → exec .fastinRecover s = .next s ∧ exec .fastinAssert s = .next s) ∧
   (∀ m a s, s.mgmt.st = 2 → s.power.gid ≠ 0 → m < s.power.npkg.toNat - 1 → exec (.groupPowerReport m a) s =
     .next { s with power := { s.power with reports := sput s.power.reports m a, ages := sdel s.power.ages m } }) ∧
   (∀ a i s, ∃ u, exec (.averagingWindowEnd a i) s = .next u ∧ u.power.avg = a ∧ u.power.inst = i ∧ u.mem = s.mem ∧
     u.power.report = if s.mgmt.st = 2 ∧ s.power.gid ≠ 0 then some a else s.power.report) ∧
   (∀ c s, c < 1024 → (getCore s c).bank0.st = .empty → (getCore s c).bank1.st = .empty → (getCore s c).jobs = [] →
     (getCore s c).cmds = [] → (getCore s c).cmds1 = [] → (getCore s c).session = none →
     exec (.corePowerGating c) s = .next (modCore s c fun k => { k with gated := true, tlb := [] })) ∧
   (∀ c s, c < 1024 → ((getCore s c).bank0.st ≠ .empty ∨ (getCore s c).bank1.st ≠ .empty) →
     exec (.corePowerGating c) s = .next s) ∧
   (∀ c s, c < 1024 → exec (.corePowerUngating c) s = .next (modCore s c fun k => { k with gated := false })))

/-! ### Reset and invariants -/

/-- O57. The values that the spec gives for node reset (R83, R110, R124, R162, R196, R257, R293, R298, R346, R397,
R402), and that memory lists nothing, where a byte that nothing has written reads 0 by the model's choice (log 3). -/
def Obligations.ResetValues : Prop :=
  State.reset.mem = [] ∧ State.reset.disc.ready = false ∧ State.reset.disc.fwok = false ∧ State.reset.mgmt.st = 0 ∧
  State.reset.fabric.e2eRetry = 8 ∧ State.reset.fabric.e2eTimeout = 40 ∧ State.reset.fabric.downGen = 0 ∧
  State.reset.power.cap = 2800 ∧ State.reset.power.win = 1000 ∧ State.reset.power.s = 0 ∧ State.reset.power.duty = 16 ∧
  State.reset.mbox.en = false ∧ State.reset.mbox.tail = 0 ∧ State.reset.mbox.head = 0 ∧
  (∀ c, (getCore State.reset c).spmask = 0x0000FFFF ∧ ∀ b, (getBank State.reset c b).st = .empty ∧
    (getBank State.reset c b).slipwin = 1024 ∧ (getBank State.reset c b).handlen = 32 ∧
    (getBank State.reset c b).fault = FaultRec.zero ∧ (getBank State.reset c b).xrm = 0 ∧
    (getBank State.reset c b).tempo.maxMiss = 0 ∧ (getBank State.reset c b).tempo.looka = 2 ∧
    (getBank State.reset c b).tempo.lookb = 2 ∧ (getBank State.reset c b).tempo.lookd = 0) ∧
  (∀ q, (getLq State.reset q).en = false) ∧ (∀ d, (getPort State.reset d).en = false ∧ (getPort State.reset d).st = 0 ∧
    (getPort State.reset d).lockSt = 0 ∧ (getPort State.reset d).bound = false) ∧
  Canonical State.reset

/-- O58. Every step keeps the canonical form of memory, from every state that has it. -/
def Obligations.StepKeepsMemory : Prop :=
  ∀ s u, Memory.wf s.mem = true → step s = .next u → Memory.wf u.mem = true

/-- O59. No instruction stops the machine: the device turns every fault into state (R123, R126, R349), so every word of
the running context has a next state, whatever it names. -/
def Obligations.WordsNeverStop : Prop :=
  ∀ i s, isWord i = true → ∃ u, exec i s = .next u

/-- O60. An unprivileged context cannot change what privilege guards: whatever its words do, the node window, the label,
the banks in use, the bindings, locks and enables of the ports, and the platform stay as they are (R195, R196, R199,
R319, R366, R367). -/
def Obligations.UnprivilegedWordsKeepNode : Prop :=
  ∀ i s u, isWord i = true → (curBank s s.core).priv = false → exec i s = .next u →
    u.fabric.winBase = s.fabric.winBase ∧ u.fabric.winSize = s.fabric.winSize ∧ u.fabric.label = s.fabric.label ∧
    u.fabric.downBase = s.fabric.downBase ∧ u.near = s.near ∧ u.disc = s.disc ∧ u.mgmt = s.mgmt ∧ u.power = s.power ∧
    ∀ d, (getPort u d).bound = (getPort s d).bound ∧ (getPort u d).table = (getPort s d).table ∧
      (getPort u d).tenant = (getPort s d).tenant ∧ (getPort u d).job = (getPort s d).job ∧
      (getPort u d).lockSt = (getPort s d).lockSt ∧ (getPort u d).en = (getPort s d).en ∧ (getPort u d).st = (getPort s d).st
end

