-- ==== Sys2Proof/Laws/Encoding.lean ====
section
/-! SUPPORT. The fields of an encoded word (R40, R42): what each extraction gives back. -/
namespace Sys2Proof.Laws

/-- An extraction that lies in the upper part. -/
theorem app_high {v w k : Nat} (x : BitVec v) (y : BitVec w) (s n : Nat) (h : w ≤ s) (hk : s - w = k) :
    (x ++ y).extractLsb' s n = x.extractLsb' k n := by
  subst hk
  exact BitVec.extractLsb'_append_eq_of_le h

/-- An extraction that lies in the lower part. -/
theorem app_low {v w : Nat} (x : BitVec v) (y : BitVec w) (s n : Nat) (h : s + n ≤ w) :
    (x ++ y).extractLsb' s n = y.extractLsb' s n :=
  BitVec.extractLsb'_append_eq_of_add_le h

/-- The lower part. -/
theorem low_field {v w : Nat} (x : BitVec v) (y : BitVec w) : (x ++ y).extractLsb' 0 w = y :=
  (app_low x y 0 w (by omega)).trans BitVec.extractLsb'_eq_self

section
variable (e : BitVec 2) (t : BitVec 4) (op : BitVec 8) (p : BitVec 18)

theorem opOf_mk : opOf (mk e t op p) = op :=
  (app_high (k := 0) (e ++ t ++ op) p 18 8 (by decide) rfl).trans (low_field _ _)

theorem dep_mk : dep (mk e t op p) = t :=
  (app_high (k := 8) (e ++ t ++ op) p 26 4 (by decide) rfl).trans
    ((app_high (k := 0) (e ++ t) op 8 4 (by decide) rfl).trans (low_field _ _))

theorem tagOf_mk : tagOf (mk e t op p) = e :=
  (app_high (k := 12) (e ++ t ++ op) p 30 2 (by decide) rfl).trans
    ((app_high (k := 4) (e ++ t) op 12 2 (by decide) rfl).trans
      ((app_high (k := 0) e t 4 2 (by decide) rfl).trans BitVec.extractLsb'_eq_self))

theorem isKx_mk : isKx (mk e t op p) = (op.extractLsb' 4 4 == 15) :=
  congrArg (· == 15)
    ((app_high (k := 4) (e ++ t ++ op) p 22 4 (by decide) rfl).trans (app_low (e ++ t) op 4 4 (by decide)))

/-- A field of the payload. -/
theorem mk_low (s n : Nat) (h : s + n ≤ 18) : (mk e t op p).extractLsb' s n = p.extractLsb' s n := app_low _ p s n h

/-- The word that an OP of one map names. -/
theorem decodeOp_mk (i : Instr) (hk : (op.extractLsb' 4 4 == 15) = false)
    (hi : (if e == 0 then decodeA op.toNat (mk e t op p) else if e == 1 then decodeX op.toNat (mk e t op p)
      else if e == 2 then decodeM op.toNat (mk e t op p) else decodeShared op.toNat (mk e t op p)) = some i) :
    decodeOp (mk e t op p) = if Machine.opBad i then none else some i := by
  unfold decodeOp
  rw [isKx_mk, hk]
  simp only [opOf_mk, tagOf_mk, hi, Bool.false_eq_true, if_false]

/-! ### Payloads of the common formats (R42) -/

theorem rrr_d (d : BitVec 6) (a : BitVec 6) (b : BitVec 6) : (mk e t op (rrr d a b)).extractLsb' 12 6 = d :=
  (mk_low e t op _ 12 6 (by decide)).trans
    ((app_high (k := 6) _ _ 12 6 (by decide) rfl).trans ((app_high (k := 0) _ _ 6 6 (by decide) rfl).trans (BitVec.extractLsb'_eq_self)))

theorem rrr_a (d : BitVec 6) (a : BitVec 6) (b : BitVec 6) : (mk e t op (rrr d a b)).extractLsb' 6 6 = a :=
  (mk_low e t op _ 6 6 (by decide)).trans
    ((app_high (k := 0) _ _ 6 6 (by decide) rfl).trans (low_field _ _))

theorem rrr_b (d : BitVec 6) (a : BitVec 6) (b : BitVec 6) : (mk e t op (rrr d a b)).extractLsb' 0 6 = b :=
  (mk_low e t op _ 0 6 (by decide)).trans
    (low_field _ _)

theorem ri_d (d : BitVec 6) (i : BitVec 12) : (mk e t op (ri d i)).extractLsb' 12 6 = d :=
  (mk_low e t op _ 12 6 (by decide)).trans
    ((app_high (k := 0) _ _ 12 6 (by decide) rfl).trans (BitVec.extractLsb'_eq_self))

theorem ri_i (d : BitVec 6) (i : BitVec 12) : (mk e t op (ri d i)).extractLsb' 0 12 = i :=
  (mk_low e t op _ 0 12 (by decide)).trans
    (low_field _ _)

theorem mem_d (d : BitVec 6) (b : BitVec 5) (p : BitVec 3) (s : BitVec 4) : (mk e t op (mem d b p s)).extractLsb' 12 6 = d :=
  (mk_low e t op _ 12 6 (by decide)).trans
    ((app_high (k := 8) _ _ 12 6 (by decide) rfl).trans ((app_high (k := 5) _ _ 8 6 (by decide) rfl).trans ((app_high (k := 0) _ _ 5 6 (by decide) rfl).trans (BitVec.extractLsb'_eq_self))))

theorem mem_b (d : BitVec 6) (b : BitVec 5) (p : BitVec 3) (s : BitVec 4) : (mk e t op (mem d b p s)).extractLsb' 7 5 = b :=
  (mk_low e t op _ 7 5 (by decide)).trans
    ((app_high (k := 3) _ _ 7 5 (by decide) rfl).trans ((app_high (k := 0) _ _ 3 5 (by decide) rfl).trans (low_field _ _)))

theorem mem_p (d : BitVec 6) (b : BitVec 5) (p : BitVec 3) (s : BitVec 4) : (mk e t op (mem d b p s)).extractLsb' 4 3 = p :=
  (mk_low e t op _ 4 3 (by decide)).trans
    ((app_high (k := 0) _ _ 4 3 (by decide) rfl).trans (low_field _ _))

theorem mem_s (d : BitVec 6) (b : BitVec 5) (p : BitVec 3) (s : BitVec 4) : (mk e t op (mem d b p s)).extractLsb' 0 4 = s :=
  (mk_low e t op _ 0 4 (by decide)).trans
    (low_field _ _)

theorem atw_d (d : BitVec 6) (b : BitVec 5) (o : BitVec 5) (w : BitVec 1) : (mk e t op (atw d b o w)).extractLsb' 12 6 = d :=
  (mk_low e t op _ 12 6 (by decide)).trans
    ((app_high (k := 11) _ _ 12 6 (by decide) rfl).trans ((app_high (k := 10) _ _ 11 6 (by decide) rfl).trans ((app_high (k := 5) _ _ 10 6 (by decide) rfl).trans ((app_high (k := 0) _ _ 5 6 (by decide) rfl).trans (BitVec.extractLsb'_eq_self)))))

theorem atw_b (d : BitVec 6) (b : BitVec 5) (o : BitVec 5) (w : BitVec 1) : (mk e t op (atw d b o w)).extractLsb' 7 5 = b :=
  (mk_low e t op _ 7 5 (by decide)).trans
    ((app_high (k := 6) _ _ 7 5 (by decide) rfl).trans ((app_high (k := 5) _ _ 6 5 (by decide) rfl).trans ((app_high (k := 0) _ _ 5 5 (by decide) rfl).trans (low_field _ _))))

theorem atw_o (d : BitVec 6) (b : BitVec 5) (o : BitVec 5) (w : BitVec 1) : (mk e t op (atw d b o w)).extractLsb' 2 5 = o :=
  (mk_low e t op _ 2 5 (by decide)).trans
    ((app_high (k := 1) _ _ 2 5 (by decide) rfl).trans ((app_high (k := 0) _ _ 1 5 (by decide) rfl).trans (low_field _ _)))

theorem atw_w (d : BitVec 6) (b : BitVec 5) (o : BitVec 5) (w : BitVec 1) : (mk e t op (atw d b o w)).extractLsb' 1 1 = w :=
  (mk_low e t op _ 1 1 (by decide)).trans
    ((app_high (k := 0) _ _ 1 1 (by decide) rfl).trans (low_field _ _))

end

end Sys2Proof.Laws
end

