-- ==== Sys2Proof/Laws/Maps.lean ====
section
/-! SUPPORT. The laws of sparse maps: what a read after a write gives, and that every operation keeps the canonical form,
in which equal reads mean equal maps. -/
namespace Sys2Proof.Laws

open Machine

variable {α : Type}

theorem sget_nil (k : Nat) (d : α) : sget ([] : SMap α) k d = d := rfl

/-- A read of the key just put. -/
@[simp] theorem sget_sput_same (m : SMap α) (k : Nat) (v d : α) : sget (sput m k v) k d = v := by
  induction m with
  | nil => simp [sput, sget]
  | cons p l ih =>
    obtain ⟨j, u⟩ := p
    simp only [sput]
    split
    · simp [sget]
    · split
      · simp [sget]
      · rename_i h _
        simp [sget, h, ih]

/-- A put leaves every other key alone. -/
theorem sget_sput_other (m : SMap α) {k i : Nat} (v d : α) (h : i ≠ k) : sget (sput m k v) i d = sget m i d := by
  induction m with
  | nil => simp [sput, sget, Ne.symm h]
  | cons p l ih =>
    obtain ⟨j, u⟩ := p
    simp only [sput]
    split
    · rename_i hj
      subst hj
      simp [sget, Ne.symm h]
    · split
      · simp [sget, Ne.symm h]
      · simp only [sget, ih]

section
variable [DecidableEq α]

/-- No key below `lo` is listed. -/
theorem sget_below {m : SMap α} {lo k : Nat} {d : α} (h : swf m lo d = true) (hk : k < lo) : sget m k d = d := by
  induction m generalizing lo with
  | nil => rfl
  | cons p l ih =>
    obtain ⟨j, u⟩ := p
    simp only [swf, Bool.and_eq_true, decide_eq_true_eq] at h
    have hj : ¬j = k := by omega
    simp only [sget, hj, if_false]
    exact ih h.2 (by omega)

/-- A lower bound may be lowered. -/
theorem swf_mono {m : SMap α} {lo lo' : Nat} {d : α} (h : swf m lo d = true) (hl : lo' ≤ lo) : swf m lo' d = true := by
  cases m with
  | nil => rfl
  | cons p l =>
    obtain ⟨j, u⟩ := p
    simp only [swf, Bool.and_eq_true, decide_eq_true_eq] at h ⊢
    exact ⟨⟨by omega, h.1.2⟩, h.2⟩

theorem swf_sput {m : SMap α} {lo k : Nat} {v d : α} (h : swf m lo d = true) (hk : lo ≤ k) (hv : v ≠ d) :
    swf (sput m k v) lo d = true := by
  induction m generalizing lo with
  | nil => simp [sput, swf, hk, hv]
  | cons p l ih =>
    obtain ⟨j, u⟩ := p
    simp only [swf, Bool.and_eq_true, decide_eq_true_eq] at h
    simp only [sput]
    split
    · rename_i hj
      subst hj
      simp [swf, hk, hv, h.2]
    · split
      · rename_i hlt
        have hrest : swf ((j, u) :: l) (k + 1) d = true := by
          simp only [swf, Bool.and_eq_true, decide_eq_true_eq]
          exact ⟨⟨by omega, h.1.2⟩, h.2⟩
        simp [swf, hk, hv] at hrest ⊢
        exact hrest
      · simp only [swf, Bool.and_eq_true, decide_eq_true_eq]
        exact ⟨⟨h.1.1, h.1.2⟩, ih h.2 (by omega)⟩

theorem swf_sdel {m : SMap α} {lo : Nat} {d : α} (k : Nat) (h : swf m lo d = true) : swf (sdel m k) lo d = true := by
  induction m generalizing lo with
  | nil => rfl
  | cons p l ih =>
    obtain ⟨j, u⟩ := p
    have h' := h
    simp only [swf, Bool.and_eq_true, decide_eq_true_eq] at h
    simp only [sdel]
    split
    · exact swf_mono h.2 (by omega)
    · split
      · exact h'
      · simp only [swf, Bool.and_eq_true, decide_eq_true_eq]
        exact ⟨⟨h.1.1, h.1.2⟩, ih h.2⟩

/-- Setting a key keeps the canonical form. -/
theorem swf_sset {m : SMap α} {lo k : Nat} {v d : α} (h : swf m lo d = true) (hk : lo ≤ k) :
    swf (sset m k v d) lo d = true := by
  unfold sset
  split
  · exact swf_sdel k h
  · exact swf_sput h hk ‹_›

theorem swf_sset_zero {m : SMap α} {k : Nat} {v d : α} (h : swf m 0 d = true) : swf (sset m k v d) 0 d = true :=
  swf_sset h (Nat.zero_le k)

theorem swf_filter {m : SMap α} {lo : Nat} {d : α} (p : Nat × α → Bool) (h : swf m lo d = true) :
    swf (m.filter p) lo d = true := by
  induction m generalizing lo with
  | nil => rfl
  | cons q l ih =>
    obtain ⟨j, u⟩ := q
    simp only [swf, Bool.and_eq_true, decide_eq_true_eq] at h
    rw [List.filter_cons]
    split
    · simp only [swf, Bool.and_eq_true, decide_eq_true_eq]
      exact ⟨⟨h.1.1, h.1.2⟩, ih h.2⟩
    · exact swf_mono (ih h.2) (by omega)

theorem sget_sdel_same {m : SMap α} {lo : Nat} {d : α} (k : Nat) (h : swf m lo d = true) : sget (sdel m k) k d = d := by
  induction m generalizing lo with
  | nil => rfl
  | cons p l ih =>
    obtain ⟨j, u⟩ := p
    have h' := h
    simp only [swf, Bool.and_eq_true, decide_eq_true_eq] at h
    simp only [sdel]
    split
    · rename_i hj
      exact sget_below h.2 (by omega)
    · rename_i hj
      split
      · rename_i hlt
        simp only [sget, hj, if_false]
        exact sget_below h.2 (by omega)
      · simp only [sget, hj, if_false]
        exact ih h.2

omit [DecidableEq α] in
theorem sget_sdel_other (m : SMap α) {k i : Nat} (d : α) (h : i ≠ k) : sget (sdel m k) i d = sget m i d := by
  induction m with
  | nil => rfl
  | cons p l ih =>
    obtain ⟨j, u⟩ := p
    simp only [sdel]
    split
    · rename_i hj
      subst hj
      simp [sget, Ne.symm h]
    · split
      · rfl
      · simp only [sget, ih]

/-- A read after a write to the same key, in a canonical map. -/
theorem sget_sset_same {m : SMap α} {lo : Nat} (k : Nat) (v : α) {d : α} (h : swf m lo d = true) :
    sget (sset m k v d) k d = v := by
  unfold sset
  split
  · rename_i hv
    rw [hv]
    exact sget_sdel_same k h
  · exact sget_sput_same m k v d

/-- A write of anything but the default is read back from every map. -/
theorem sget_sset_ne_default (m : SMap α) (k : Nat) {v d : α} (h : v ≠ d) : sget (sset m k v d) k d = v := by
  unfold sset
  rw [if_neg h]
  exact sget_sput_same m k v d

/-- A write leaves every other key alone. -/
theorem sget_sset_other (m : SMap α) {k i : Nat} (v d : α) (h : i ≠ k) : sget (sset m k v d) i d = sget m i d := by
  unfold sset
  split
  · exact sget_sdel_other m d h
  · exact sget_sput_other m v d h

/-- Canonical maps that read alike are equal. -/
theorem smap_ext {m n : SMap α} {lo : Nat} {d : α} (hm : swf m lo d = true) (hn : swf n lo d = true)
    (h : ∀ k, sget m k d = sget n k d) : m = n := by
  induction m generalizing n lo with
  | nil =>
    cases n with
    | nil => rfl
    | cons q r =>
      obtain ⟨j, u⟩ := q
      simp only [swf, Bool.and_eq_true, Bool.not_eq_true', decide_eq_true_eq, decide_eq_false_iff_not] at hn
      have := h j
      simp [sget] at this
      exact absurd this.symm hn.1.2
  | cons p l ih =>
    obtain ⟨i, v⟩ := p
    have hm' := hm
    simp only [swf, Bool.and_eq_true, Bool.not_eq_true', decide_eq_true_eq, decide_eq_false_iff_not] at hm
    cases n with
    | nil =>
      have := h i
      simp [sget] at this
      exact absurd this hm.1.2
    | cons q r =>
      obtain ⟨j, u⟩ := q
      have hn' := hn
      simp only [swf, Bool.and_eq_true, Bool.not_eq_true', decide_eq_true_eq, decide_eq_false_iff_not] at hn
      have hij : i = j := by
        rcases Nat.lt_trichotomy i j with hlt | heq | hgt
        · have hi := h i
          have hji : ¬j = i := by omega
          simp only [sget, if_true, hji, if_false] at hi
          rw [sget_below hn.2 (by omega)] at hi
          exact absurd hi hm.1.2
        · exact heq
        · have hj := h j
          have hij : ¬i = j := by omega
          simp only [sget, if_true, hij, if_false] at hj
          rw [sget_below hm.2 (by omega)] at hj
          exact absurd hj.symm hn.1.2
      subst hij
      have hv : v = u := by simpa [sget] using h i
      subst hv
      have hl : l = r := by
        refine ih hm.2 hn.2 (fun k => ?_)
        rcases Nat.lt_or_ge i k with hlt | hge
        · have hk := h k
          have hik : ¬i = k := by omega
          simpa only [sget, hik, if_false] using hk
        · rw [sget_below hm.2 (by omega), sget_below hn.2 (by omega)]
      rw [hl]

end

/-! ### One value for each engine -/

@[simp] theorem three_get_set_same (t : Three α) (v : α) (e : Engine) : (t.set v e).get e = v := by
  cases e <;> rfl

theorem three_get_set_other (t : Three α) (v : α) {e f : Engine} (h : f ≠ e) : (t.set v e).get f = t.get f := by
  cases e <;> cases f <;> first | rfl | exact absurd rfl h

@[simp] theorem three_get_all (v : α) (e : Engine) : (Three.all v).get e = v := by
  cases e <;> rfl

end Sys2Proof.Laws
end

