-- ==== Sys2Proof/Laws/State.lean ====
section
/-! SUPPORT. What each update of the state and of a bank leaves alone, one lemma for each field, and the laws of reading a
part of the node after writing it. -/
namespace Sys2Proof.Laws

open Machine

/-! ### Updates of the node -/

@[simp] theorem setCore_agenda (s : State) (c : Nat) (k : Core) : (setCore s c k).agenda = s.agenda := rfl
@[simp] theorem setCore_core (s : State) (c : Nat) (k : Core) : (setCore s c k).core = s.core := rfl
@[simp] theorem setCore_phase (s : State) (c : Nat) (k : Core) : (setCore s c k).phase = s.phase := rfl
@[simp] theorem setCore_turn (s : State) (c : Nat) (k : Core) : (setCore s c k).turn = s.turn := rfl
@[simp] theorem setCore_seq (s : State) (c : Nat) (k : Core) : (setCore s c k).seq = s.seq := rfl
@[simp] theorem setCore_free (s : State) (c : Nat) (k : Core) : (setCore s c k).free = s.free := rfl
@[simp] theorem setCore_mem (s : State) (c : Nat) (k : Core) : (setCore s c k).mem = s.mem := rfl
@[simp] theorem setCore_poison (s : State) (c : Nat) (k : Core) : (setCore s c k).poison = s.poison := rfl
@[simp] theorem setCore_tables (s : State) (c : Nat) (k : Core) : (setCore s c k).tables = s.tables := rfl
@[simp] theorem setCore_clusters (s : State) (c : Nat) (k : Core) : (setCore s c k).clusters = s.clusters := rfl
@[simp] theorem setCore_shoe (s : State) (c : Nat) (k : Core) : (setCore s c k).shoe = s.shoe := rfl
@[simp] theorem setCore_near (s : State) (c : Nat) (k : Core) : (setCore s c k).near = s.near := rfl
@[simp] theorem setCore_fabric (s : State) (c : Nat) (k : Core) : (setCore s c k).fabric = s.fabric := rfl
@[simp] theorem setCore_disc (s : State) (c : Nat) (k : Core) : (setCore s c k).disc = s.disc := rfl
@[simp] theorem setCore_mbox (s : State) (c : Nat) (k : Core) : (setCore s c k).mbox = s.mbox := rfl
@[simp] theorem setCore_mgmt (s : State) (c : Nat) (k : Core) : (setCore s c k).mgmt = s.mgmt := rfl
@[simp] theorem setCore_power (s : State) (c : Nat) (k : Core) : (setCore s c k).power = s.power := rfl
@[simp] theorem setCore_readback (s : State) (c : Nat) (k : Core) : (setCore s c k).readback = s.readback := rfl
@[simp] theorem setCore_reply (s : State) (c : Nat) (k : Core) : (setCore s c k).reply = s.reply := rfl
@[simp] theorem setCore_aer (s : State) (c : Nat) (k : Core) : (setCore s c k).aer = s.aer := rfl

@[simp] theorem modCore_agenda (s : State) (c : Nat) (f : Core → Core) : (modCore s c f).agenda = s.agenda := rfl
@[simp] theorem modCore_core (s : State) (c : Nat) (f : Core → Core) : (modCore s c f).core = s.core := rfl
@[simp] theorem modCore_phase (s : State) (c : Nat) (f : Core → Core) : (modCore s c f).phase = s.phase := rfl
@[simp] theorem modCore_turn (s : State) (c : Nat) (f : Core → Core) : (modCore s c f).turn = s.turn := rfl
@[simp] theorem modCore_seq (s : State) (c : Nat) (f : Core → Core) : (modCore s c f).seq = s.seq := rfl
@[simp] theorem modCore_free (s : State) (c : Nat) (f : Core → Core) : (modCore s c f).free = s.free := rfl
@[simp] theorem modCore_mem (s : State) (c : Nat) (f : Core → Core) : (modCore s c f).mem = s.mem := rfl
@[simp] theorem modCore_poison (s : State) (c : Nat) (f : Core → Core) : (modCore s c f).poison = s.poison := rfl
@[simp] theorem modCore_tables (s : State) (c : Nat) (f : Core → Core) : (modCore s c f).tables = s.tables := rfl
@[simp] theorem modCore_clusters (s : State) (c : Nat) (f : Core → Core) : (modCore s c f).clusters = s.clusters := rfl
@[simp] theorem modCore_shoe (s : State) (c : Nat) (f : Core → Core) : (modCore s c f).shoe = s.shoe := rfl
@[simp] theorem modCore_near (s : State) (c : Nat) (f : Core → Core) : (modCore s c f).near = s.near := rfl
@[simp] theorem modCore_fabric (s : State) (c : Nat) (f : Core → Core) : (modCore s c f).fabric = s.fabric := rfl
@[simp] theorem modCore_disc (s : State) (c : Nat) (f : Core → Core) : (modCore s c f).disc = s.disc := rfl
@[simp] theorem modCore_mbox (s : State) (c : Nat) (f : Core → Core) : (modCore s c f).mbox = s.mbox := rfl
@[simp] theorem modCore_mgmt (s : State) (c : Nat) (f : Core → Core) : (modCore s c f).mgmt = s.mgmt := rfl
@[simp] theorem modCore_power (s : State) (c : Nat) (f : Core → Core) : (modCore s c f).power = s.power := rfl
@[simp] theorem modCore_readback (s : State) (c : Nat) (f : Core → Core) : (modCore s c f).readback = s.readback := rfl
@[simp] theorem modCore_reply (s : State) (c : Nat) (f : Core → Core) : (modCore s c f).reply = s.reply := rfl
@[simp] theorem modCore_aer (s : State) (c : Nat) (f : Core → Core) : (modCore s c f).aer = s.aer := rfl

@[simp] theorem setBank_agenda (s : State) (c : Nat) (b : Bool) (v : Bank) : (setBank s c b v).agenda = s.agenda := rfl
@[simp] theorem setBank_core (s : State) (c : Nat) (b : Bool) (v : Bank) : (setBank s c b v).core = s.core := rfl
@[simp] theorem setBank_phase (s : State) (c : Nat) (b : Bool) (v : Bank) : (setBank s c b v).phase = s.phase := rfl
@[simp] theorem setBank_turn (s : State) (c : Nat) (b : Bool) (v : Bank) : (setBank s c b v).turn = s.turn := rfl
@[simp] theorem setBank_seq (s : State) (c : Nat) (b : Bool) (v : Bank) : (setBank s c b v).seq = s.seq := rfl
@[simp] theorem setBank_free (s : State) (c : Nat) (b : Bool) (v : Bank) : (setBank s c b v).free = s.free := rfl
@[simp] theorem setBank_mem (s : State) (c : Nat) (b : Bool) (v : Bank) : (setBank s c b v).mem = s.mem := rfl
@[simp] theorem setBank_poison (s : State) (c : Nat) (b : Bool) (v : Bank) : (setBank s c b v).poison = s.poison := rfl
@[simp] theorem setBank_tables (s : State) (c : Nat) (b : Bool) (v : Bank) : (setBank s c b v).tables = s.tables := rfl
@[simp] theorem setBank_clusters (s : State) (c : Nat) (b : Bool) (v : Bank) : (setBank s c b v).clusters = s.clusters := rfl
@[simp] theorem setBank_shoe (s : State) (c : Nat) (b : Bool) (v : Bank) : (setBank s c b v).shoe = s.shoe := rfl
@[simp] theorem setBank_near (s : State) (c : Nat) (b : Bool) (v : Bank) : (setBank s c b v).near = s.near := rfl
@[simp] theorem setBank_fabric (s : State) (c : Nat) (b : Bool) (v : Bank) : (setBank s c b v).fabric = s.fabric := rfl
@[simp] theorem setBank_disc (s : State) (c : Nat) (b : Bool) (v : Bank) : (setBank s c b v).disc = s.disc := rfl
@[simp] theorem setBank_mbox (s : State) (c : Nat) (b : Bool) (v : Bank) : (setBank s c b v).mbox = s.mbox := rfl
@[simp] theorem setBank_mgmt (s : State) (c : Nat) (b : Bool) (v : Bank) : (setBank s c b v).mgmt = s.mgmt := rfl
@[simp] theorem setBank_power (s : State) (c : Nat) (b : Bool) (v : Bank) : (setBank s c b v).power = s.power := rfl
@[simp] theorem setBank_readback (s : State) (c : Nat) (b : Bool) (v : Bank) : (setBank s c b v).readback = s.readback := rfl
@[simp] theorem setBank_reply (s : State) (c : Nat) (b : Bool) (v : Bank) : (setBank s c b v).reply = s.reply := rfl
@[simp] theorem setBank_aer (s : State) (c : Nat) (b : Bool) (v : Bank) : (setBank s c b v).aer = s.aer := rfl

@[simp] theorem modBank_agenda (s : State) (c : Nat) (b : Bool) (f : Bank → Bank) : (modBank s c b f).agenda = s.agenda := rfl
@[simp] theorem modBank_core (s : State) (c : Nat) (b : Bool) (f : Bank → Bank) : (modBank s c b f).core = s.core := rfl
@[simp] theorem modBank_phase (s : State) (c : Nat) (b : Bool) (f : Bank → Bank) : (modBank s c b f).phase = s.phase := rfl
@[simp] theorem modBank_turn (s : State) (c : Nat) (b : Bool) (f : Bank → Bank) : (modBank s c b f).turn = s.turn := rfl
@[simp] theorem modBank_seq (s : State) (c : Nat) (b : Bool) (f : Bank → Bank) : (modBank s c b f).seq = s.seq := rfl
@[simp] theorem modBank_free (s : State) (c : Nat) (b : Bool) (f : Bank → Bank) : (modBank s c b f).free = s.free := rfl
@[simp] theorem modBank_mem (s : State) (c : Nat) (b : Bool) (f : Bank → Bank) : (modBank s c b f).mem = s.mem := rfl
@[simp] theorem modBank_poison (s : State) (c : Nat) (b : Bool) (f : Bank → Bank) : (modBank s c b f).poison = s.poison := rfl
@[simp] theorem modBank_tables (s : State) (c : Nat) (b : Bool) (f : Bank → Bank) : (modBank s c b f).tables = s.tables := rfl
@[simp] theorem modBank_clusters (s : State) (c : Nat) (b : Bool) (f : Bank → Bank) : (modBank s c b f).clusters = s.clusters := rfl
@[simp] theorem modBank_shoe (s : State) (c : Nat) (b : Bool) (f : Bank → Bank) : (modBank s c b f).shoe = s.shoe := rfl
@[simp] theorem modBank_near (s : State) (c : Nat) (b : Bool) (f : Bank → Bank) : (modBank s c b f).near = s.near := rfl
@[simp] theorem modBank_fabric (s : State) (c : Nat) (b : Bool) (f : Bank → Bank) : (modBank s c b f).fabric = s.fabric := rfl
@[simp] theorem modBank_disc (s : State) (c : Nat) (b : Bool) (f : Bank → Bank) : (modBank s c b f).disc = s.disc := rfl
@[simp] theorem modBank_mbox (s : State) (c : Nat) (b : Bool) (f : Bank → Bank) : (modBank s c b f).mbox = s.mbox := rfl
@[simp] theorem modBank_mgmt (s : State) (c : Nat) (b : Bool) (f : Bank → Bank) : (modBank s c b f).mgmt = s.mgmt := rfl
@[simp] theorem modBank_power (s : State) (c : Nat) (b : Bool) (f : Bank → Bank) : (modBank s c b f).power = s.power := rfl
@[simp] theorem modBank_readback (s : State) (c : Nat) (b : Bool) (f : Bank → Bank) : (modBank s c b f).readback = s.readback := rfl
@[simp] theorem modBank_reply (s : State) (c : Nat) (b : Bool) (f : Bank → Bank) : (modBank s c b f).reply = s.reply := rfl
@[simp] theorem modBank_aer (s : State) (c : Nat) (b : Bool) (f : Bank → Bank) : (modBank s c b f).aer = s.aer := rfl

@[simp] theorem modCur_agenda (s : State) (c : Nat) (f : Bank → Bank) : (modCur s c f).agenda = s.agenda := rfl
@[simp] theorem modCur_core (s : State) (c : Nat) (f : Bank → Bank) : (modCur s c f).core = s.core := rfl
@[simp] theorem modCur_phase (s : State) (c : Nat) (f : Bank → Bank) : (modCur s c f).phase = s.phase := rfl
@[simp] theorem modCur_turn (s : State) (c : Nat) (f : Bank → Bank) : (modCur s c f).turn = s.turn := rfl
@[simp] theorem modCur_seq (s : State) (c : Nat) (f : Bank → Bank) : (modCur s c f).seq = s.seq := rfl
@[simp] theorem modCur_free (s : State) (c : Nat) (f : Bank → Bank) : (modCur s c f).free = s.free := rfl
@[simp] theorem modCur_mem (s : State) (c : Nat) (f : Bank → Bank) : (modCur s c f).mem = s.mem := rfl
@[simp] theorem modCur_poison (s : State) (c : Nat) (f : Bank → Bank) : (modCur s c f).poison = s.poison := rfl
@[simp] theorem modCur_tables (s : State) (c : Nat) (f : Bank → Bank) : (modCur s c f).tables = s.tables := rfl
@[simp] theorem modCur_clusters (s : State) (c : Nat) (f : Bank → Bank) : (modCur s c f).clusters = s.clusters := rfl
@[simp] theorem modCur_shoe (s : State) (c : Nat) (f : Bank → Bank) : (modCur s c f).shoe = s.shoe := rfl
@[simp] theorem modCur_near (s : State) (c : Nat) (f : Bank → Bank) : (modCur s c f).near = s.near := rfl
@[simp] theorem modCur_fabric (s : State) (c : Nat) (f : Bank → Bank) : (modCur s c f).fabric = s.fabric := rfl
@[simp] theorem modCur_disc (s : State) (c : Nat) (f : Bank → Bank) : (modCur s c f).disc = s.disc := rfl
@[simp] theorem modCur_mbox (s : State) (c : Nat) (f : Bank → Bank) : (modCur s c f).mbox = s.mbox := rfl
@[simp] theorem modCur_mgmt (s : State) (c : Nat) (f : Bank → Bank) : (modCur s c f).mgmt = s.mgmt := rfl
@[simp] theorem modCur_power (s : State) (c : Nat) (f : Bank → Bank) : (modCur s c f).power = s.power := rfl
@[simp] theorem modCur_readback (s : State) (c : Nat) (f : Bank → Bank) : (modCur s c f).readback = s.readback := rfl
@[simp] theorem modCur_reply (s : State) (c : Nat) (f : Bank → Bank) : (modCur s c f).reply = s.reply := rfl
@[simp] theorem modCur_aer (s : State) (c : Nat) (f : Bank → Bank) : (modCur s c f).aer = s.aer := rfl

@[simp] theorem setTable_agenda (s : State) (t : Nat) (v : Table) : (setTable s t v).agenda = s.agenda := rfl
@[simp] theorem setTable_core (s : State) (t : Nat) (v : Table) : (setTable s t v).core = s.core := rfl
@[simp] theorem setTable_phase (s : State) (t : Nat) (v : Table) : (setTable s t v).phase = s.phase := rfl
@[simp] theorem setTable_turn (s : State) (t : Nat) (v : Table) : (setTable s t v).turn = s.turn := rfl
@[simp] theorem setTable_seq (s : State) (t : Nat) (v : Table) : (setTable s t v).seq = s.seq := rfl
@[simp] theorem setTable_free (s : State) (t : Nat) (v : Table) : (setTable s t v).free = s.free := rfl
@[simp] theorem setTable_mem (s : State) (t : Nat) (v : Table) : (setTable s t v).mem = s.mem := rfl
@[simp] theorem setTable_poison (s : State) (t : Nat) (v : Table) : (setTable s t v).poison = s.poison := rfl
@[simp] theorem setTable_cores (s : State) (t : Nat) (v : Table) : (setTable s t v).cores = s.cores := rfl
@[simp] theorem setTable_clusters (s : State) (t : Nat) (v : Table) : (setTable s t v).clusters = s.clusters := rfl
@[simp] theorem setTable_shoe (s : State) (t : Nat) (v : Table) : (setTable s t v).shoe = s.shoe := rfl
@[simp] theorem setTable_near (s : State) (t : Nat) (v : Table) : (setTable s t v).near = s.near := rfl
@[simp] theorem setTable_fabric (s : State) (t : Nat) (v : Table) : (setTable s t v).fabric = s.fabric := rfl
@[simp] theorem setTable_disc (s : State) (t : Nat) (v : Table) : (setTable s t v).disc = s.disc := rfl
@[simp] theorem setTable_mbox (s : State) (t : Nat) (v : Table) : (setTable s t v).mbox = s.mbox := rfl
@[simp] theorem setTable_mgmt (s : State) (t : Nat) (v : Table) : (setTable s t v).mgmt = s.mgmt := rfl
@[simp] theorem setTable_power (s : State) (t : Nat) (v : Table) : (setTable s t v).power = s.power := rfl
@[simp] theorem setTable_readback (s : State) (t : Nat) (v : Table) : (setTable s t v).readback = s.readback := rfl
@[simp] theorem setTable_reply (s : State) (t : Nat) (v : Table) : (setTable s t v).reply = s.reply := rfl
@[simp] theorem setTable_aer (s : State) (t : Nat) (v : Table) : (setTable s t v).aer = s.aer := rfl

@[simp] theorem modTable_agenda (s : State) (t : Nat) (f : Table → Table) : (modTable s t f).agenda = s.agenda := rfl
@[simp] theorem modTable_core (s : State) (t : Nat) (f : Table → Table) : (modTable s t f).core = s.core := rfl
@[simp] theorem modTable_phase (s : State) (t : Nat) (f : Table → Table) : (modTable s t f).phase = s.phase := rfl
@[simp] theorem modTable_turn (s : State) (t : Nat) (f : Table → Table) : (modTable s t f).turn = s.turn := rfl
@[simp] theorem modTable_seq (s : State) (t : Nat) (f : Table → Table) : (modTable s t f).seq = s.seq := rfl
@[simp] theorem modTable_free (s : State) (t : Nat) (f : Table → Table) : (modTable s t f).free = s.free := rfl
@[simp] theorem modTable_mem (s : State) (t : Nat) (f : Table → Table) : (modTable s t f).mem = s.mem := rfl
@[simp] theorem modTable_poison (s : State) (t : Nat) (f : Table → Table) : (modTable s t f).poison = s.poison := rfl
@[simp] theorem modTable_cores (s : State) (t : Nat) (f : Table → Table) : (modTable s t f).cores = s.cores := rfl
@[simp] theorem modTable_clusters (s : State) (t : Nat) (f : Table → Table) : (modTable s t f).clusters = s.clusters := rfl
@[simp] theorem modTable_shoe (s : State) (t : Nat) (f : Table → Table) : (modTable s t f).shoe = s.shoe := rfl
@[simp] theorem modTable_near (s : State) (t : Nat) (f : Table → Table) : (modTable s t f).near = s.near := rfl
@[simp] theorem modTable_fabric (s : State) (t : Nat) (f : Table → Table) : (modTable s t f).fabric = s.fabric := rfl
@[simp] theorem modTable_disc (s : State) (t : Nat) (f : Table → Table) : (modTable s t f).disc = s.disc := rfl
@[simp] theorem modTable_mbox (s : State) (t : Nat) (f : Table → Table) : (modTable s t f).mbox = s.mbox := rfl
@[simp] theorem modTable_mgmt (s : State) (t : Nat) (f : Table → Table) : (modTable s t f).mgmt = s.mgmt := rfl
@[simp] theorem modTable_power (s : State) (t : Nat) (f : Table → Table) : (modTable s t f).power = s.power := rfl
@[simp] theorem modTable_readback (s : State) (t : Nat) (f : Table → Table) : (modTable s t f).readback = s.readback := rfl
@[simp] theorem modTable_reply (s : State) (t : Nat) (f : Table → Table) : (modTable s t f).reply = s.reply := rfl
@[simp] theorem modTable_aer (s : State) (t : Nat) (f : Table → Table) : (modTable s t f).aer = s.aer := rfl

@[simp] theorem setCluster_agenda (s : State) (i : Nat) (v : Cluster) : (setCluster s i v).agenda = s.agenda := rfl
@[simp] theorem setCluster_core (s : State) (i : Nat) (v : Cluster) : (setCluster s i v).core = s.core := rfl
@[simp] theorem setCluster_phase (s : State) (i : Nat) (v : Cluster) : (setCluster s i v).phase = s.phase := rfl
@[simp] theorem setCluster_turn (s : State) (i : Nat) (v : Cluster) : (setCluster s i v).turn = s.turn := rfl
@[simp] theorem setCluster_seq (s : State) (i : Nat) (v : Cluster) : (setCluster s i v).seq = s.seq := rfl
@[simp] theorem setCluster_free (s : State) (i : Nat) (v : Cluster) : (setCluster s i v).free = s.free := rfl
@[simp] theorem setCluster_mem (s : State) (i : Nat) (v : Cluster) : (setCluster s i v).mem = s.mem := rfl
@[simp] theorem setCluster_poison (s : State) (i : Nat) (v : Cluster) : (setCluster s i v).poison = s.poison := rfl
@[simp] theorem setCluster_cores (s : State) (i : Nat) (v : Cluster) : (setCluster s i v).cores = s.cores := rfl
@[simp] theorem setCluster_tables (s : State) (i : Nat) (v : Cluster) : (setCluster s i v).tables = s.tables := rfl
@[simp] theorem setCluster_shoe (s : State) (i : Nat) (v : Cluster) : (setCluster s i v).shoe = s.shoe := rfl
@[simp] theorem setCluster_near (s : State) (i : Nat) (v : Cluster) : (setCluster s i v).near = s.near := rfl
@[simp] theorem setCluster_fabric (s : State) (i : Nat) (v : Cluster) : (setCluster s i v).fabric = s.fabric := rfl
@[simp] theorem setCluster_disc (s : State) (i : Nat) (v : Cluster) : (setCluster s i v).disc = s.disc := rfl
@[simp] theorem setCluster_mbox (s : State) (i : Nat) (v : Cluster) : (setCluster s i v).mbox = s.mbox := rfl
@[simp] theorem setCluster_mgmt (s : State) (i : Nat) (v : Cluster) : (setCluster s i v).mgmt = s.mgmt := rfl
@[simp] theorem setCluster_power (s : State) (i : Nat) (v : Cluster) : (setCluster s i v).power = s.power := rfl
@[simp] theorem setCluster_readback (s : State) (i : Nat) (v : Cluster) : (setCluster s i v).readback = s.readback := rfl
@[simp] theorem setCluster_reply (s : State) (i : Nat) (v : Cluster) : (setCluster s i v).reply = s.reply := rfl
@[simp] theorem setCluster_aer (s : State) (i : Nat) (v : Cluster) : (setCluster s i v).aer = s.aer := rfl

@[simp] theorem setPort_agenda (s : State) (d : Nat) (v : Port) : (setPort s d v).agenda = s.agenda := rfl
@[simp] theorem setPort_core (s : State) (d : Nat) (v : Port) : (setPort s d v).core = s.core := rfl
@[simp] theorem setPort_phase (s : State) (d : Nat) (v : Port) : (setPort s d v).phase = s.phase := rfl
@[simp] theorem setPort_turn (s : State) (d : Nat) (v : Port) : (setPort s d v).turn = s.turn := rfl
@[simp] theorem setPort_seq (s : State) (d : Nat) (v : Port) : (setPort s d v).seq = s.seq := rfl
@[simp] theorem setPort_free (s : State) (d : Nat) (v : Port) : (setPort s d v).free = s.free := rfl
@[simp] theorem setPort_mem (s : State) (d : Nat) (v : Port) : (setPort s d v).mem = s.mem := rfl
@[simp] theorem setPort_poison (s : State) (d : Nat) (v : Port) : (setPort s d v).poison = s.poison := rfl
@[simp] theorem setPort_cores (s : State) (d : Nat) (v : Port) : (setPort s d v).cores = s.cores := rfl
@[simp] theorem setPort_tables (s : State) (d : Nat) (v : Port) : (setPort s d v).tables = s.tables := rfl
@[simp] theorem setPort_clusters (s : State) (d : Nat) (v : Port) : (setPort s d v).clusters = s.clusters := rfl
@[simp] theorem setPort_shoe (s : State) (d : Nat) (v : Port) : (setPort s d v).shoe = s.shoe := rfl
@[simp] theorem setPort_near (s : State) (d : Nat) (v : Port) : (setPort s d v).near = s.near := rfl
@[simp] theorem setPort_disc (s : State) (d : Nat) (v : Port) : (setPort s d v).disc = s.disc := rfl
@[simp] theorem setPort_mbox (s : State) (d : Nat) (v : Port) : (setPort s d v).mbox = s.mbox := rfl
@[simp] theorem setPort_mgmt (s : State) (d : Nat) (v : Port) : (setPort s d v).mgmt = s.mgmt := rfl
@[simp] theorem setPort_power (s : State) (d : Nat) (v : Port) : (setPort s d v).power = s.power := rfl
@[simp] theorem setPort_readback (s : State) (d : Nat) (v : Port) : (setPort s d v).readback = s.readback := rfl
@[simp] theorem setPort_reply (s : State) (d : Nat) (v : Port) : (setPort s d v).reply = s.reply := rfl
@[simp] theorem setPort_aer (s : State) (d : Nat) (v : Port) : (setPort s d v).aer = s.aer := rfl

@[simp] theorem modPort_agenda (s : State) (d : Nat) (f : Port → Port) : (modPort s d f).agenda = s.agenda := rfl
@[simp] theorem modPort_core (s : State) (d : Nat) (f : Port → Port) : (modPort s d f).core = s.core := rfl
@[simp] theorem modPort_phase (s : State) (d : Nat) (f : Port → Port) : (modPort s d f).phase = s.phase := rfl
@[simp] theorem modPort_turn (s : State) (d : Nat) (f : Port → Port) : (modPort s d f).turn = s.turn := rfl
@[simp] theorem modPort_seq (s : State) (d : Nat) (f : Port → Port) : (modPort s d f).seq = s.seq := rfl
@[simp] theorem modPort_free (s : State) (d : Nat) (f : Port → Port) : (modPort s d f).free = s.free := rfl
@[simp] theorem modPort_mem (s : State) (d : Nat) (f : Port → Port) : (modPort s d f).mem = s.mem := rfl
@[simp] theorem modPort_poison (s : State) (d : Nat) (f : Port → Port) : (modPort s d f).poison = s.poison := rfl
@[simp] theorem modPort_cores (s : State) (d : Nat) (f : Port → Port) : (modPort s d f).cores = s.cores := rfl
@[simp] theorem modPort_tables (s : State) (d : Nat) (f : Port → Port) : (modPort s d f).tables = s.tables := rfl
@[simp] theorem modPort_clusters (s : State) (d : Nat) (f : Port → Port) : (modPort s d f).clusters = s.clusters := rfl
@[simp] theorem modPort_shoe (s : State) (d : Nat) (f : Port → Port) : (modPort s d f).shoe = s.shoe := rfl
@[simp] theorem modPort_near (s : State) (d : Nat) (f : Port → Port) : (modPort s d f).near = s.near := rfl
@[simp] theorem modPort_disc (s : State) (d : Nat) (f : Port → Port) : (modPort s d f).disc = s.disc := rfl
@[simp] theorem modPort_mbox (s : State) (d : Nat) (f : Port → Port) : (modPort s d f).mbox = s.mbox := rfl
@[simp] theorem modPort_mgmt (s : State) (d : Nat) (f : Port → Port) : (modPort s d f).mgmt = s.mgmt := rfl
@[simp] theorem modPort_power (s : State) (d : Nat) (f : Port → Port) : (modPort s d f).power = s.power := rfl
@[simp] theorem modPort_readback (s : State) (d : Nat) (f : Port → Port) : (modPort s d f).readback = s.readback := rfl
@[simp] theorem modPort_reply (s : State) (d : Nat) (f : Port → Port) : (modPort s d f).reply = s.reply := rfl
@[simp] theorem modPort_aer (s : State) (d : Nat) (f : Port → Port) : (modPort s d f).aer = s.aer := rfl

@[simp] theorem setLq_agenda (s : State) (q : Nat) (v : LaunchQueue) : (setLq s q v).agenda = s.agenda := rfl
@[simp] theorem setLq_core (s : State) (q : Nat) (v : LaunchQueue) : (setLq s q v).core = s.core := rfl
@[simp] theorem setLq_phase (s : State) (q : Nat) (v : LaunchQueue) : (setLq s q v).phase = s.phase := rfl
@[simp] theorem setLq_turn (s : State) (q : Nat) (v : LaunchQueue) : (setLq s q v).turn = s.turn := rfl
@[simp] theorem setLq_seq (s : State) (q : Nat) (v : LaunchQueue) : (setLq s q v).seq = s.seq := rfl
@[simp] theorem setLq_free (s : State) (q : Nat) (v : LaunchQueue) : (setLq s q v).free = s.free := rfl
@[simp] theorem setLq_mem (s : State) (q : Nat) (v : LaunchQueue) : (setLq s q v).mem = s.mem := rfl
@[simp] theorem setLq_poison (s : State) (q : Nat) (v : LaunchQueue) : (setLq s q v).poison = s.poison := rfl
@[simp] theorem setLq_cores (s : State) (q : Nat) (v : LaunchQueue) : (setLq s q v).cores = s.cores := rfl
@[simp] theorem setLq_tables (s : State) (q : Nat) (v : LaunchQueue) : (setLq s q v).tables = s.tables := rfl
@[simp] theorem setLq_clusters (s : State) (q : Nat) (v : LaunchQueue) : (setLq s q v).clusters = s.clusters := rfl
@[simp] theorem setLq_near (s : State) (q : Nat) (v : LaunchQueue) : (setLq s q v).near = s.near := rfl
@[simp] theorem setLq_fabric (s : State) (q : Nat) (v : LaunchQueue) : (setLq s q v).fabric = s.fabric := rfl
@[simp] theorem setLq_disc (s : State) (q : Nat) (v : LaunchQueue) : (setLq s q v).disc = s.disc := rfl
@[simp] theorem setLq_mbox (s : State) (q : Nat) (v : LaunchQueue) : (setLq s q v).mbox = s.mbox := rfl
@[simp] theorem setLq_mgmt (s : State) (q : Nat) (v : LaunchQueue) : (setLq s q v).mgmt = s.mgmt := rfl
@[simp] theorem setLq_power (s : State) (q : Nat) (v : LaunchQueue) : (setLq s q v).power = s.power := rfl
@[simp] theorem setLq_readback (s : State) (q : Nat) (v : LaunchQueue) : (setLq s q v).readback = s.readback := rfl
@[simp] theorem setLq_reply (s : State) (q : Nat) (v : LaunchQueue) : (setLq s q v).reply = s.reply := rfl
@[simp] theorem setLq_aer (s : State) (q : Nat) (v : LaunchQueue) : (setLq s q v).aer = s.aer := rfl

@[simp] theorem modLq_agenda (s : State) (q : Nat) (f : LaunchQueue → LaunchQueue) : (modLq s q f).agenda = s.agenda := rfl
@[simp] theorem modLq_core (s : State) (q : Nat) (f : LaunchQueue → LaunchQueue) : (modLq s q f).core = s.core := rfl
@[simp] theorem modLq_phase (s : State) (q : Nat) (f : LaunchQueue → LaunchQueue) : (modLq s q f).phase = s.phase := rfl
@[simp] theorem modLq_turn (s : State) (q : Nat) (f : LaunchQueue → LaunchQueue) : (modLq s q f).turn = s.turn := rfl
@[simp] theorem modLq_seq (s : State) (q : Nat) (f : LaunchQueue → LaunchQueue) : (modLq s q f).seq = s.seq := rfl
@[simp] theorem modLq_free (s : State) (q : Nat) (f : LaunchQueue → LaunchQueue) : (modLq s q f).free = s.free := rfl
@[simp] theorem modLq_mem (s : State) (q : Nat) (f : LaunchQueue → LaunchQueue) : (modLq s q f).mem = s.mem := rfl
@[simp] theorem modLq_poison (s : State) (q : Nat) (f : LaunchQueue → LaunchQueue) : (modLq s q f).poison = s.poison := rfl
@[simp] theorem modLq_cores (s : State) (q : Nat) (f : LaunchQueue → LaunchQueue) : (modLq s q f).cores = s.cores := rfl
@[simp] theorem modLq_tables (s : State) (q : Nat) (f : LaunchQueue → LaunchQueue) : (modLq s q f).tables = s.tables := rfl
@[simp] theorem modLq_clusters (s : State) (q : Nat) (f : LaunchQueue → LaunchQueue) : (modLq s q f).clusters = s.clusters := rfl
@[simp] theorem modLq_near (s : State) (q : Nat) (f : LaunchQueue → LaunchQueue) : (modLq s q f).near = s.near := rfl
@[simp] theorem modLq_fabric (s : State) (q : Nat) (f : LaunchQueue → LaunchQueue) : (modLq s q f).fabric = s.fabric := rfl
@[simp] theorem modLq_disc (s : State) (q : Nat) (f : LaunchQueue → LaunchQueue) : (modLq s q f).disc = s.disc := rfl
@[simp] theorem modLq_mbox (s : State) (q : Nat) (f : LaunchQueue → LaunchQueue) : (modLq s q f).mbox = s.mbox := rfl
@[simp] theorem modLq_mgmt (s : State) (q : Nat) (f : LaunchQueue → LaunchQueue) : (modLq s q f).mgmt = s.mgmt := rfl
@[simp] theorem modLq_power (s : State) (q : Nat) (f : LaunchQueue → LaunchQueue) : (modLq s q f).power = s.power := rfl
@[simp] theorem modLq_readback (s : State) (q : Nat) (f : LaunchQueue → LaunchQueue) : (modLq s q f).readback = s.readback := rfl
@[simp] theorem modLq_reply (s : State) (q : Nat) (f : LaunchQueue → LaunchQueue) : (modLq s q f).reply = s.reply := rfl
@[simp] theorem modLq_aer (s : State) (q : Nat) (f : LaunchQueue → LaunchQueue) : (modLq s q f).aer = s.aer := rfl

@[simp] theorem setLaunch_agenda (s : State) (n : Nat) (l : Option Launch) : (setLaunch s n l).agenda = s.agenda := rfl
@[simp] theorem setLaunch_core (s : State) (n : Nat) (l : Option Launch) : (setLaunch s n l).core = s.core := rfl
@[simp] theorem setLaunch_phase (s : State) (n : Nat) (l : Option Launch) : (setLaunch s n l).phase = s.phase := rfl
@[simp] theorem setLaunch_turn (s : State) (n : Nat) (l : Option Launch) : (setLaunch s n l).turn = s.turn := rfl
@[simp] theorem setLaunch_seq (s : State) (n : Nat) (l : Option Launch) : (setLaunch s n l).seq = s.seq := rfl
@[simp] theorem setLaunch_free (s : State) (n : Nat) (l : Option Launch) : (setLaunch s n l).free = s.free := rfl
@[simp] theorem setLaunch_mem (s : State) (n : Nat) (l : Option Launch) : (setLaunch s n l).mem = s.mem := rfl
@[simp] theorem setLaunch_poison (s : State) (n : Nat) (l : Option Launch) : (setLaunch s n l).poison = s.poison := rfl
@[simp] theorem setLaunch_cores (s : State) (n : Nat) (l : Option Launch) : (setLaunch s n l).cores = s.cores := rfl
@[simp] theorem setLaunch_tables (s : State) (n : Nat) (l : Option Launch) : (setLaunch s n l).tables = s.tables := rfl
@[simp] theorem setLaunch_clusters (s : State) (n : Nat) (l : Option Launch) : (setLaunch s n l).clusters = s.clusters := rfl
@[simp] theorem setLaunch_near (s : State) (n : Nat) (l : Option Launch) : (setLaunch s n l).near = s.near := rfl
@[simp] theorem setLaunch_fabric (s : State) (n : Nat) (l : Option Launch) : (setLaunch s n l).fabric = s.fabric := rfl
@[simp] theorem setLaunch_disc (s : State) (n : Nat) (l : Option Launch) : (setLaunch s n l).disc = s.disc := rfl
@[simp] theorem setLaunch_mbox (s : State) (n : Nat) (l : Option Launch) : (setLaunch s n l).mbox = s.mbox := rfl
@[simp] theorem setLaunch_mgmt (s : State) (n : Nat) (l : Option Launch) : (setLaunch s n l).mgmt = s.mgmt := rfl
@[simp] theorem setLaunch_power (s : State) (n : Nat) (l : Option Launch) : (setLaunch s n l).power = s.power := rfl
@[simp] theorem setLaunch_readback (s : State) (n : Nat) (l : Option Launch) : (setLaunch s n l).readback = s.readback := rfl
@[simp] theorem setLaunch_reply (s : State) (n : Nat) (l : Option Launch) : (setLaunch s n l).reply = s.reply := rfl
@[simp] theorem setLaunch_aer (s : State) (n : Nat) (l : Option Launch) : (setLaunch s n l).aer = s.aer := rfl

@[simp] theorem setPoison_agenda (s : State) (loc : Nat) (p : Bool) : (setPoison s loc p).agenda = s.agenda := rfl
@[simp] theorem setPoison_core (s : State) (loc : Nat) (p : Bool) : (setPoison s loc p).core = s.core := rfl
@[simp] theorem setPoison_phase (s : State) (loc : Nat) (p : Bool) : (setPoison s loc p).phase = s.phase := rfl
@[simp] theorem setPoison_turn (s : State) (loc : Nat) (p : Bool) : (setPoison s loc p).turn = s.turn := rfl
@[simp] theorem setPoison_seq (s : State) (loc : Nat) (p : Bool) : (setPoison s loc p).seq = s.seq := rfl
@[simp] theorem setPoison_free (s : State) (loc : Nat) (p : Bool) : (setPoison s loc p).free = s.free := rfl
@[simp] theorem setPoison_mem (s : State) (loc : Nat) (p : Bool) : (setPoison s loc p).mem = s.mem := rfl
@[simp] theorem setPoison_cores (s : State) (loc : Nat) (p : Bool) : (setPoison s loc p).cores = s.cores := rfl
@[simp] theorem setPoison_tables (s : State) (loc : Nat) (p : Bool) : (setPoison s loc p).tables = s.tables := rfl
@[simp] theorem setPoison_clusters (s : State) (loc : Nat) (p : Bool) : (setPoison s loc p).clusters = s.clusters := rfl
@[simp] theorem setPoison_shoe (s : State) (loc : Nat) (p : Bool) : (setPoison s loc p).shoe = s.shoe := rfl
@[simp] theorem setPoison_near (s : State) (loc : Nat) (p : Bool) : (setPoison s loc p).near = s.near := rfl
@[simp] theorem setPoison_fabric (s : State) (loc : Nat) (p : Bool) : (setPoison s loc p).fabric = s.fabric := rfl
@[simp] theorem setPoison_disc (s : State) (loc : Nat) (p : Bool) : (setPoison s loc p).disc = s.disc := rfl
@[simp] theorem setPoison_mbox (s : State) (loc : Nat) (p : Bool) : (setPoison s loc p).mbox = s.mbox := rfl
@[simp] theorem setPoison_mgmt (s : State) (loc : Nat) (p : Bool) : (setPoison s loc p).mgmt = s.mgmt := rfl
@[simp] theorem setPoison_power (s : State) (loc : Nat) (p : Bool) : (setPoison s loc p).power = s.power := rfl
@[simp] theorem setPoison_readback (s : State) (loc : Nat) (p : Bool) : (setPoison s loc p).readback = s.readback := rfl
@[simp] theorem setPoison_reply (s : State) (loc : Nat) (p : Bool) : (setPoison s loc p).reply = s.reply := rfl
@[simp] theorem setPoison_aer (s : State) (loc : Nat) (p : Bool) : (setPoison s loc p).aer = s.aer := rfl

@[simp] theorem wrByte_agenda (s : State) (loc : Nat) (v : Byte) : (wrByte s loc v).agenda = s.agenda := rfl
@[simp] theorem wrByte_core (s : State) (loc : Nat) (v : Byte) : (wrByte s loc v).core = s.core := rfl
@[simp] theorem wrByte_phase (s : State) (loc : Nat) (v : Byte) : (wrByte s loc v).phase = s.phase := rfl
@[simp] theorem wrByte_turn (s : State) (loc : Nat) (v : Byte) : (wrByte s loc v).turn = s.turn := rfl
@[simp] theorem wrByte_seq (s : State) (loc : Nat) (v : Byte) : (wrByte s loc v).seq = s.seq := rfl
@[simp] theorem wrByte_free (s : State) (loc : Nat) (v : Byte) : (wrByte s loc v).free = s.free := rfl
@[simp] theorem wrByte_poison (s : State) (loc : Nat) (v : Byte) : (wrByte s loc v).poison = s.poison := rfl
@[simp] theorem wrByte_cores (s : State) (loc : Nat) (v : Byte) : (wrByte s loc v).cores = s.cores := rfl
@[simp] theorem wrByte_tables (s : State) (loc : Nat) (v : Byte) : (wrByte s loc v).tables = s.tables := rfl
@[simp] theorem wrByte_clusters (s : State) (loc : Nat) (v : Byte) : (wrByte s loc v).clusters = s.clusters := rfl
@[simp] theorem wrByte_shoe (s : State) (loc : Nat) (v : Byte) : (wrByte s loc v).shoe = s.shoe := rfl
@[simp] theorem wrByte_near (s : State) (loc : Nat) (v : Byte) : (wrByte s loc v).near = s.near := rfl
@[simp] theorem wrByte_fabric (s : State) (loc : Nat) (v : Byte) : (wrByte s loc v).fabric = s.fabric := rfl
@[simp] theorem wrByte_disc (s : State) (loc : Nat) (v : Byte) : (wrByte s loc v).disc = s.disc := rfl
@[simp] theorem wrByte_mbox (s : State) (loc : Nat) (v : Byte) : (wrByte s loc v).mbox = s.mbox := rfl
@[simp] theorem wrByte_mgmt (s : State) (loc : Nat) (v : Byte) : (wrByte s loc v).mgmt = s.mgmt := rfl
@[simp] theorem wrByte_power (s : State) (loc : Nat) (v : Byte) : (wrByte s loc v).power = s.power := rfl
@[simp] theorem wrByte_readback (s : State) (loc : Nat) (v : Byte) : (wrByte s loc v).readback = s.readback := rfl
@[simp] theorem wrByte_reply (s : State) (loc : Nat) (v : Byte) : (wrByte s loc v).reply = s.reply := rfl
@[simp] theorem wrByte_aer (s : State) (loc : Nat) (v : Byte) : (wrByte s loc v).aer = s.aer := rfl

/-! ### Updates of a bank -/

@[simp] theorem wv_st (b : Bank) (r : Nat) (v : Vec) : (b.wv r v).st = b.st := rfl
@[simp] theorem wv_a (b : Bank) (r : Nat) (v : Vec) : (b.wv r v).a = b.a := rfl
@[simp] theorem wv_s (b : Bank) (r : Nat) (v : Vec) : (b.wv r v).s = b.s := rfl
@[simp] theorem wv_m (b : Bank) (r : Nat) (v : Vec) : (b.wv r v).m = b.m := rfl
@[simp] theorem wv_k (b : Bank) (r : Nat) (v : Vec) : (b.wv r v).k = b.k := rfl
@[simp] theorem wv_pc (b : Bank) (r : Nat) (v : Vec) : (b.wv r v).pc = b.pc := rfl
@[simp] theorem wv_kx (b : Bank) (r : Nat) (v : Vec) : (b.wv r v).kx = b.kx := rfl
@[simp] theorem wv_issue (b : Bank) (r : Nat) (v : Vec) : (b.wv r v).issue = b.issue := rfl
@[simp] theorem wv_shadow (b : Bank) (r : Nat) (v : Vec) : (b.wv r v).shadow = b.shadow := rfl
@[simp] theorem wv_evq (b : Bank) (r : Nat) (v : Vec) : (b.wv r v).evq = b.evq := rfl
@[simp] theorem wv_slipwin (b : Bank) (r : Nat) (v : Vec) : (b.wv r v).slipwin = b.slipwin := rfl
@[simp] theorem wv_handlen (b : Bank) (r : Nat) (v : Vec) : (b.wv r v).handlen = b.handlen := rfl
@[simp] theorem wv_fault (b : Bank) (r : Nat) (v : Vec) : (b.wv r v).fault = b.fault := rfl
@[simp] theorem wv_trapActive (b : Bank) (r : Nat) (v : Vec) : (b.wv r v).trapActive = b.trapActive := rfl
@[simp] theorem wv_trapSkip (b : Bank) (r : Nat) (v : Vec) : (b.wv r v).trapSkip = b.trapSkip := rfl
@[simp] theorem wv_trapRec (b : Bank) (r : Nat) (v : Vec) : (b.wv r v).trapRec = b.trapRec := rfl
@[simp] theorem wv_skip (b : Bank) (r : Nat) (v : Vec) : (b.wv r v).skip = b.skip := rfl
@[simp] theorem wv_owed (b : Bank) (r : Nat) (v : Vec) : (b.wv r v).owed = b.owed := rfl
@[simp] theorem wv_rpc (b : Bank) (r : Nat) (v : Vec) : (b.wv r v).rpc = b.rpc := rfl
@[simp] theorem wv_xrm (b : Bank) (r : Nat) (v : Vec) : (b.wv r v).xrm = b.xrm := rfl
@[simp] theorem wv_xseed (b : Bank) (r : Nat) (v : Vec) : (b.wv r v).xseed = b.xseed := rfl
@[simp] theorem wv_xflags (b : Bank) (r : Nat) (v : Vec) : (b.wv r v).xflags = b.xflags := rfl
@[simp] theorem wv_chipGrant (b : Bank) (r : Nat) (v : Vec) : (b.wv r v).chipGrant = b.chipGrant := rfl
@[simp] theorem wv_privBase (b : Bank) (r : Nat) (v : Vec) : (b.wv r v).privBase = b.privBase := rfl
@[simp] theorem wv_privSize (b : Bank) (r : Nat) (v : Vec) : (b.wv r v).privSize = b.privSize := rfl
@[simp] theorem wv_xlat (b : Bank) (r : Nat) (v : Vec) : (b.wv r v).xlat = b.xlat := rfl
@[simp] theorem wv_clamp (b : Bank) (r : Nat) (v : Vec) : (b.wv r v).clamp = b.clamp := rfl
@[simp] theorem wv_tenant (b : Bank) (r : Nat) (v : Vec) : (b.wv r v).tenant = b.tenant := rfl
@[simp] theorem wv_priv (b : Bank) (r : Nat) (v : Vec) : (b.wv r v).priv = b.priv := rfl
@[simp] theorem wv_mat (b : Bank) (r : Nat) (v : Vec) : (b.wv r v).mat = b.mat := rfl
@[simp] theorem wv_tempo (b : Bank) (r : Nat) (v : Vec) : (b.wv r v).tempo = b.tempo := rfl
@[simp] theorem wv_round (b : Bank) (r : Nat) (v : Vec) : (b.wv r v).round = b.round := rfl
@[simp] theorem wv_walked (b : Bank) (r : Nat) (v : Vec) : (b.wv r v).walked = b.walked := rfl
@[simp] theorem wv_given (b : Bank) (r : Nat) (v : Vec) : (b.wv r v).given = b.given := rfl
@[simp] theorem wv_kern (b : Bank) (r : Nat) (v : Vec) : (b.wv r v).kern = b.kern := rfl
@[simp] theorem wv_launch (b : Bank) (r : Nat) (v : Vec) : (b.wv r v).launch = b.launch := rfl
@[simp] theorem wv_pe (b : Bank) (r : Nat) (v : Vec) : (b.wv r v).pe = b.pe := rfl
@[simp] theorem wv_exiting (b : Bank) (r : Nat) (v : Vec) : (b.wv r v).exiting = b.exiting := rfl
@[simp] theorem wv_stopping (b : Bank) (r : Nat) (v : Vec) : (b.wv r v).stopping = b.stopping := rfl
@[simp] theorem wv_inflight (b : Bank) (r : Nat) (v : Vec) : (b.wv r v).inflight = b.inflight := rfl
@[simp] theorem wv_wait (b : Bank) (r : Nat) (v : Vec) : (b.wv r v).wait = b.wait := rfl
@[simp] theorem wv_pend (b : Bank) (r : Nat) (v : Vec) : (b.wv r v).pend = b.pend := rfl
@[simp] theorem wv_due (b : Bank) (r : Nat) (v : Vec) : (b.wv r v).due = b.due := rfl
@[simp] theorem wv_svcPend (b : Bank) (r : Nat) (v : Vec) : (b.wv r v).svcPend = b.svcPend := rfl
@[simp] theorem wv_svcSeen (b : Bank) (r : Nat) (v : Vec) : (b.wv r v).svcSeen = b.svcSeen := rfl
@[simp] theorem wv_svcPast (b : Bank) (r : Nat) (v : Vec) : (b.wv r v).svcPast = b.svcPast := rfl
@[simp] theorem wv_shsel (b : Bank) (r : Nat) (v : Vec) : (b.wv r v).shsel = b.shsel := rfl
@[simp] theorem wv_svcRec (b : Bank) (r : Nat) (v : Vec) : (b.wv r v).svcRec = b.svcRec := rfl
@[simp] theorem wv_ctx (b : Bank) (r : Nat) (v : Vec) : (b.wv r v).ctx = b.ctx := rfl
@[simp] theorem wv_hdr (b : Bank) (r : Nat) (v : Vec) : (b.wv r v).hdr = b.hdr := rfl
@[simp] theorem wv_hdrw (b : Bank) (r : Nat) (v : Vec) : (b.wv r v).hdrw = b.hdrw := rfl
@[simp] theorem wv_staged (b : Bank) (r : Nat) (v : Vec) : (b.wv r v).staged = b.staged := rfl
@[simp] theorem wv_owner (b : Bank) (r : Nat) (v : Vec) : (b.wv r v).owner = b.owner := rfl

@[simp] theorem wk_st (b : Bank) (r : Nat) (v : Mask) : (b.wk r v).st = b.st := rfl
@[simp] theorem wk_a (b : Bank) (r : Nat) (v : Mask) : (b.wk r v).a = b.a := rfl
@[simp] theorem wk_s (b : Bank) (r : Nat) (v : Mask) : (b.wk r v).s = b.s := rfl
@[simp] theorem wk_m (b : Bank) (r : Nat) (v : Mask) : (b.wk r v).m = b.m := rfl
@[simp] theorem wk_v (b : Bank) (r : Nat) (v : Mask) : (b.wk r v).v = b.v := rfl
@[simp] theorem wk_pc (b : Bank) (r : Nat) (v : Mask) : (b.wk r v).pc = b.pc := rfl
@[simp] theorem wk_kx (b : Bank) (r : Nat) (v : Mask) : (b.wk r v).kx = b.kx := rfl
@[simp] theorem wk_issue (b : Bank) (r : Nat) (v : Mask) : (b.wk r v).issue = b.issue := rfl
@[simp] theorem wk_shadow (b : Bank) (r : Nat) (v : Mask) : (b.wk r v).shadow = b.shadow := rfl
@[simp] theorem wk_evq (b : Bank) (r : Nat) (v : Mask) : (b.wk r v).evq = b.evq := rfl
@[simp] theorem wk_slipwin (b : Bank) (r : Nat) (v : Mask) : (b.wk r v).slipwin = b.slipwin := rfl
@[simp] theorem wk_handlen (b : Bank) (r : Nat) (v : Mask) : (b.wk r v).handlen = b.handlen := rfl
@[simp] theorem wk_fault (b : Bank) (r : Nat) (v : Mask) : (b.wk r v).fault = b.fault := rfl
@[simp] theorem wk_trapActive (b : Bank) (r : Nat) (v : Mask) : (b.wk r v).trapActive = b.trapActive := rfl
@[simp] theorem wk_trapSkip (b : Bank) (r : Nat) (v : Mask) : (b.wk r v).trapSkip = b.trapSkip := rfl
@[simp] theorem wk_trapRec (b : Bank) (r : Nat) (v : Mask) : (b.wk r v).trapRec = b.trapRec := rfl
@[simp] theorem wk_skip (b : Bank) (r : Nat) (v : Mask) : (b.wk r v).skip = b.skip := rfl
@[simp] theorem wk_owed (b : Bank) (r : Nat) (v : Mask) : (b.wk r v).owed = b.owed := rfl
@[simp] theorem wk_rpc (b : Bank) (r : Nat) (v : Mask) : (b.wk r v).rpc = b.rpc := rfl
@[simp] theorem wk_xrm (b : Bank) (r : Nat) (v : Mask) : (b.wk r v).xrm = b.xrm := rfl
@[simp] theorem wk_xseed (b : Bank) (r : Nat) (v : Mask) : (b.wk r v).xseed = b.xseed := rfl
@[simp] theorem wk_xflags (b : Bank) (r : Nat) (v : Mask) : (b.wk r v).xflags = b.xflags := rfl
@[simp] theorem wk_chipGrant (b : Bank) (r : Nat) (v : Mask) : (b.wk r v).chipGrant = b.chipGrant := rfl
@[simp] theorem wk_privBase (b : Bank) (r : Nat) (v : Mask) : (b.wk r v).privBase = b.privBase := rfl
@[simp] theorem wk_privSize (b : Bank) (r : Nat) (v : Mask) : (b.wk r v).privSize = b.privSize := rfl
@[simp] theorem wk_xlat (b : Bank) (r : Nat) (v : Mask) : (b.wk r v).xlat = b.xlat := rfl
@[simp] theorem wk_clamp (b : Bank) (r : Nat) (v : Mask) : (b.wk r v).clamp = b.clamp := rfl
@[simp] theorem wk_tenant (b : Bank) (r : Nat) (v : Mask) : (b.wk r v).tenant = b.tenant := rfl
@[simp] theorem wk_priv (b : Bank) (r : Nat) (v : Mask) : (b.wk r v).priv = b.priv := rfl
@[simp] theorem wk_mat (b : Bank) (r : Nat) (v : Mask) : (b.wk r v).mat = b.mat := rfl
@[simp] theorem wk_tempo (b : Bank) (r : Nat) (v : Mask) : (b.wk r v).tempo = b.tempo := rfl
@[simp] theorem wk_round (b : Bank) (r : Nat) (v : Mask) : (b.wk r v).round = b.round := rfl
@[simp] theorem wk_walked (b : Bank) (r : Nat) (v : Mask) : (b.wk r v).walked = b.walked := rfl
@[simp] theorem wk_given (b : Bank) (r : Nat) (v : Mask) : (b.wk r v).given = b.given := rfl
@[simp] theorem wk_kern (b : Bank) (r : Nat) (v : Mask) : (b.wk r v).kern = b.kern := rfl
@[simp] theorem wk_launch (b : Bank) (r : Nat) (v : Mask) : (b.wk r v).launch = b.launch := rfl
@[simp] theorem wk_pe (b : Bank) (r : Nat) (v : Mask) : (b.wk r v).pe = b.pe := rfl
@[simp] theorem wk_exiting (b : Bank) (r : Nat) (v : Mask) : (b.wk r v).exiting = b.exiting := rfl
@[simp] theorem wk_stopping (b : Bank) (r : Nat) (v : Mask) : (b.wk r v).stopping = b.stopping := rfl
@[simp] theorem wk_inflight (b : Bank) (r : Nat) (v : Mask) : (b.wk r v).inflight = b.inflight := rfl
@[simp] theorem wk_wait (b : Bank) (r : Nat) (v : Mask) : (b.wk r v).wait = b.wait := rfl
@[simp] theorem wk_pend (b : Bank) (r : Nat) (v : Mask) : (b.wk r v).pend = b.pend := rfl
@[simp] theorem wk_due (b : Bank) (r : Nat) (v : Mask) : (b.wk r v).due = b.due := rfl
@[simp] theorem wk_svcPend (b : Bank) (r : Nat) (v : Mask) : (b.wk r v).svcPend = b.svcPend := rfl
@[simp] theorem wk_svcSeen (b : Bank) (r : Nat) (v : Mask) : (b.wk r v).svcSeen = b.svcSeen := rfl
@[simp] theorem wk_svcPast (b : Bank) (r : Nat) (v : Mask) : (b.wk r v).svcPast = b.svcPast := rfl
@[simp] theorem wk_shsel (b : Bank) (r : Nat) (v : Mask) : (b.wk r v).shsel = b.shsel := rfl
@[simp] theorem wk_svcRec (b : Bank) (r : Nat) (v : Mask) : (b.wk r v).svcRec = b.svcRec := rfl
@[simp] theorem wk_ctx (b : Bank) (r : Nat) (v : Mask) : (b.wk r v).ctx = b.ctx := rfl
@[simp] theorem wk_hdr (b : Bank) (r : Nat) (v : Mask) : (b.wk r v).hdr = b.hdr := rfl
@[simp] theorem wk_hdrw (b : Bank) (r : Nat) (v : Mask) : (b.wk r v).hdrw = b.hdrw := rfl
@[simp] theorem wk_staged (b : Bank) (r : Nat) (v : Mask) : (b.wk r v).staged = b.staged := rfl
@[simp] theorem wk_owner (b : Bank) (r : Nat) (v : Mask) : (b.wk r v).owner = b.owner := rfl

@[simp] theorem setQueue_st (b : Bank) (q : Nat) (l : List QEntry) : (b.setQueue q l).st = b.st := rfl
@[simp] theorem setQueue_a (b : Bank) (q : Nat) (l : List QEntry) : (b.setQueue q l).a = b.a := rfl
@[simp] theorem setQueue_s (b : Bank) (q : Nat) (l : List QEntry) : (b.setQueue q l).s = b.s := rfl
@[simp] theorem setQueue_m (b : Bank) (q : Nat) (l : List QEntry) : (b.setQueue q l).m = b.m := rfl
@[simp] theorem setQueue_v (b : Bank) (q : Nat) (l : List QEntry) : (b.setQueue q l).v = b.v := rfl
@[simp] theorem setQueue_k (b : Bank) (q : Nat) (l : List QEntry) : (b.setQueue q l).k = b.k := rfl
@[simp] theorem setQueue_pc (b : Bank) (q : Nat) (l : List QEntry) : (b.setQueue q l).pc = b.pc := rfl
@[simp] theorem setQueue_kx (b : Bank) (q : Nat) (l : List QEntry) : (b.setQueue q l).kx = b.kx := rfl
@[simp] theorem setQueue_shadow (b : Bank) (q : Nat) (l : List QEntry) : (b.setQueue q l).shadow = b.shadow := rfl
@[simp] theorem setQueue_evq (b : Bank) (q : Nat) (l : List QEntry) : (b.setQueue q l).evq = b.evq := rfl
@[simp] theorem setQueue_slipwin (b : Bank) (q : Nat) (l : List QEntry) : (b.setQueue q l).slipwin = b.slipwin := rfl
@[simp] theorem setQueue_handlen (b : Bank) (q : Nat) (l : List QEntry) : (b.setQueue q l).handlen = b.handlen := rfl
@[simp] theorem setQueue_fault (b : Bank) (q : Nat) (l : List QEntry) : (b.setQueue q l).fault = b.fault := rfl
@[simp] theorem setQueue_trapActive (b : Bank) (q : Nat) (l : List QEntry) : (b.setQueue q l).trapActive = b.trapActive := rfl
@[simp] theorem setQueue_trapSkip (b : Bank) (q : Nat) (l : List QEntry) : (b.setQueue q l).trapSkip = b.trapSkip := rfl
@[simp] theorem setQueue_trapRec (b : Bank) (q : Nat) (l : List QEntry) : (b.setQueue q l).trapRec = b.trapRec := rfl
@[simp] theorem setQueue_skip (b : Bank) (q : Nat) (l : List QEntry) : (b.setQueue q l).skip = b.skip := rfl
@[simp] theorem setQueue_owed (b : Bank) (q : Nat) (l : List QEntry) : (b.setQueue q l).owed = b.owed := rfl
@[simp] theorem setQueue_rpc (b : Bank) (q : Nat) (l : List QEntry) : (b.setQueue q l).rpc = b.rpc := rfl
@[simp] theorem setQueue_xrm (b : Bank) (q : Nat) (l : List QEntry) : (b.setQueue q l).xrm = b.xrm := rfl
@[simp] theorem setQueue_xseed (b : Bank) (q : Nat) (l : List QEntry) : (b.setQueue q l).xseed = b.xseed := rfl
@[simp] theorem setQueue_xflags (b : Bank) (q : Nat) (l : List QEntry) : (b.setQueue q l).xflags = b.xflags := rfl
@[simp] theorem setQueue_chipGrant (b : Bank) (q : Nat) (l : List QEntry) : (b.setQueue q l).chipGrant = b.chipGrant := rfl
@[simp] theorem setQueue_privBase (b : Bank) (q : Nat) (l : List QEntry) : (b.setQueue q l).privBase = b.privBase := rfl
@[simp] theorem setQueue_privSize (b : Bank) (q : Nat) (l : List QEntry) : (b.setQueue q l).privSize = b.privSize := rfl
@[simp] theorem setQueue_xlat (b : Bank) (q : Nat) (l : List QEntry) : (b.setQueue q l).xlat = b.xlat := rfl
@[simp] theorem setQueue_clamp (b : Bank) (q : Nat) (l : List QEntry) : (b.setQueue q l).clamp = b.clamp := rfl
@[simp] theorem setQueue_tenant (b : Bank) (q : Nat) (l : List QEntry) : (b.setQueue q l).tenant = b.tenant := rfl
@[simp] theorem setQueue_priv (b : Bank) (q : Nat) (l : List QEntry) : (b.setQueue q l).priv = b.priv := rfl
@[simp] theorem setQueue_mat (b : Bank) (q : Nat) (l : List QEntry) : (b.setQueue q l).mat = b.mat := rfl
@[simp] theorem setQueue_tempo (b : Bank) (q : Nat) (l : List QEntry) : (b.setQueue q l).tempo = b.tempo := rfl
@[simp] theorem setQueue_round (b : Bank) (q : Nat) (l : List QEntry) : (b.setQueue q l).round = b.round := rfl
@[simp] theorem setQueue_walked (b : Bank) (q : Nat) (l : List QEntry) : (b.setQueue q l).walked = b.walked := rfl
@[simp] theorem setQueue_given (b : Bank) (q : Nat) (l : List QEntry) : (b.setQueue q l).given = b.given := rfl
@[simp] theorem setQueue_kern (b : Bank) (q : Nat) (l : List QEntry) : (b.setQueue q l).kern = b.kern := rfl
@[simp] theorem setQueue_launch (b : Bank) (q : Nat) (l : List QEntry) : (b.setQueue q l).launch = b.launch := rfl
@[simp] theorem setQueue_pe (b : Bank) (q : Nat) (l : List QEntry) : (b.setQueue q l).pe = b.pe := rfl
@[simp] theorem setQueue_exiting (b : Bank) (q : Nat) (l : List QEntry) : (b.setQueue q l).exiting = b.exiting := rfl
@[simp] theorem setQueue_stopping (b : Bank) (q : Nat) (l : List QEntry) : (b.setQueue q l).stopping = b.stopping := rfl
@[simp] theorem setQueue_inflight (b : Bank) (q : Nat) (l : List QEntry) : (b.setQueue q l).inflight = b.inflight := rfl
@[simp] theorem setQueue_wait (b : Bank) (q : Nat) (l : List QEntry) : (b.setQueue q l).wait = b.wait := rfl
@[simp] theorem setQueue_pend (b : Bank) (q : Nat) (l : List QEntry) : (b.setQueue q l).pend = b.pend := rfl
@[simp] theorem setQueue_due (b : Bank) (q : Nat) (l : List QEntry) : (b.setQueue q l).due = b.due := rfl
@[simp] theorem setQueue_svcPend (b : Bank) (q : Nat) (l : List QEntry) : (b.setQueue q l).svcPend = b.svcPend := rfl
@[simp] theorem setQueue_svcSeen (b : Bank) (q : Nat) (l : List QEntry) : (b.setQueue q l).svcSeen = b.svcSeen := rfl
@[simp] theorem setQueue_svcPast (b : Bank) (q : Nat) (l : List QEntry) : (b.setQueue q l).svcPast = b.svcPast := rfl
@[simp] theorem setQueue_shsel (b : Bank) (q : Nat) (l : List QEntry) : (b.setQueue q l).shsel = b.shsel := rfl
@[simp] theorem setQueue_svcRec (b : Bank) (q : Nat) (l : List QEntry) : (b.setQueue q l).svcRec = b.svcRec := rfl
@[simp] theorem setQueue_ctx (b : Bank) (q : Nat) (l : List QEntry) : (b.setQueue q l).ctx = b.ctx := rfl
@[simp] theorem setQueue_hdr (b : Bank) (q : Nat) (l : List QEntry) : (b.setQueue q l).hdr = b.hdr := rfl
@[simp] theorem setQueue_hdrw (b : Bank) (q : Nat) (l : List QEntry) : (b.setQueue q l).hdrw = b.hdrw := rfl
@[simp] theorem setQueue_staged (b : Bank) (q : Nat) (l : List QEntry) : (b.setQueue q l).staged = b.staged := rfl
@[simp] theorem setQueue_owner (b : Bank) (q : Nat) (l : List QEntry) : (b.setQueue q l).owner = b.owner := rfl

@[simp] theorem setTok_st (b : Bank) (k : Nat) (v : BitVec 4) : (b.setTok k v).st = b.st := rfl
@[simp] theorem setTok_a (b : Bank) (k : Nat) (v : BitVec 4) : (b.setTok k v).a = b.a := rfl
@[simp] theorem setTok_s (b : Bank) (k : Nat) (v : BitVec 4) : (b.setTok k v).s = b.s := rfl
@[simp] theorem setTok_m (b : Bank) (k : Nat) (v : BitVec 4) : (b.setTok k v).m = b.m := rfl
@[simp] theorem setTok_v (b : Bank) (k : Nat) (v : BitVec 4) : (b.setTok k v).v = b.v := rfl
@[simp] theorem setTok_k (b : Bank) (k : Nat) (v : BitVec 4) : (b.setTok k v).k = b.k := rfl
@[simp] theorem setTok_pc (b : Bank) (k : Nat) (v : BitVec 4) : (b.setTok k v).pc = b.pc := rfl
@[simp] theorem setTok_kx (b : Bank) (k : Nat) (v : BitVec 4) : (b.setTok k v).kx = b.kx := rfl
@[simp] theorem setTok_shadow (b : Bank) (k : Nat) (v : BitVec 4) : (b.setTok k v).shadow = b.shadow := rfl
@[simp] theorem setTok_evq (b : Bank) (k : Nat) (v : BitVec 4) : (b.setTok k v).evq = b.evq := rfl
@[simp] theorem setTok_slipwin (b : Bank) (k : Nat) (v : BitVec 4) : (b.setTok k v).slipwin = b.slipwin := rfl
@[simp] theorem setTok_handlen (b : Bank) (k : Nat) (v : BitVec 4) : (b.setTok k v).handlen = b.handlen := rfl
@[simp] theorem setTok_fault (b : Bank) (k : Nat) (v : BitVec 4) : (b.setTok k v).fault = b.fault := rfl
@[simp] theorem setTok_trapActive (b : Bank) (k : Nat) (v : BitVec 4) : (b.setTok k v).trapActive = b.trapActive := rfl
@[simp] theorem setTok_trapSkip (b : Bank) (k : Nat) (v : BitVec 4) : (b.setTok k v).trapSkip = b.trapSkip := rfl
@[simp] theorem setTok_trapRec (b : Bank) (k : Nat) (v : BitVec 4) : (b.setTok k v).trapRec = b.trapRec := rfl
@[simp] theorem setTok_skip (b : Bank) (k : Nat) (v : BitVec 4) : (b.setTok k v).skip = b.skip := rfl
@[simp] theorem setTok_owed (b : Bank) (k : Nat) (v : BitVec 4) : (b.setTok k v).owed = b.owed := rfl
@[simp] theorem setTok_rpc (b : Bank) (k : Nat) (v : BitVec 4) : (b.setTok k v).rpc = b.rpc := rfl
@[simp] theorem setTok_xrm (b : Bank) (k : Nat) (v : BitVec 4) : (b.setTok k v).xrm = b.xrm := rfl
@[simp] theorem setTok_xseed (b : Bank) (k : Nat) (v : BitVec 4) : (b.setTok k v).xseed = b.xseed := rfl
@[simp] theorem setTok_xflags (b : Bank) (k : Nat) (v : BitVec 4) : (b.setTok k v).xflags = b.xflags := rfl
@[simp] theorem setTok_chipGrant (b : Bank) (k : Nat) (v : BitVec 4) : (b.setTok k v).chipGrant = b.chipGrant := rfl
@[simp] theorem setTok_privBase (b : Bank) (k : Nat) (v : BitVec 4) : (b.setTok k v).privBase = b.privBase := rfl
@[simp] theorem setTok_privSize (b : Bank) (k : Nat) (v : BitVec 4) : (b.setTok k v).privSize = b.privSize := rfl
@[simp] theorem setTok_xlat (b : Bank) (k : Nat) (v : BitVec 4) : (b.setTok k v).xlat = b.xlat := rfl
@[simp] theorem setTok_clamp (b : Bank) (k : Nat) (v : BitVec 4) : (b.setTok k v).clamp = b.clamp := rfl
@[simp] theorem setTok_tenant (b : Bank) (k : Nat) (v : BitVec 4) : (b.setTok k v).tenant = b.tenant := rfl
@[simp] theorem setTok_priv (b : Bank) (k : Nat) (v : BitVec 4) : (b.setTok k v).priv = b.priv := rfl
@[simp] theorem setTok_mat (b : Bank) (k : Nat) (v : BitVec 4) : (b.setTok k v).mat = b.mat := rfl
@[simp] theorem setTok_tempo (b : Bank) (k : Nat) (v : BitVec 4) : (b.setTok k v).tempo = b.tempo := rfl
@[simp] theorem setTok_round (b : Bank) (k : Nat) (v : BitVec 4) : (b.setTok k v).round = b.round := rfl
@[simp] theorem setTok_walked (b : Bank) (k : Nat) (v : BitVec 4) : (b.setTok k v).walked = b.walked := rfl
@[simp] theorem setTok_given (b : Bank) (k : Nat) (v : BitVec 4) : (b.setTok k v).given = b.given := rfl
@[simp] theorem setTok_kern (b : Bank) (k : Nat) (v : BitVec 4) : (b.setTok k v).kern = b.kern := rfl
@[simp] theorem setTok_launch (b : Bank) (k : Nat) (v : BitVec 4) : (b.setTok k v).launch = b.launch := rfl
@[simp] theorem setTok_pe (b : Bank) (k : Nat) (v : BitVec 4) : (b.setTok k v).pe = b.pe := rfl
@[simp] theorem setTok_exiting (b : Bank) (k : Nat) (v : BitVec 4) : (b.setTok k v).exiting = b.exiting := rfl
@[simp] theorem setTok_stopping (b : Bank) (k : Nat) (v : BitVec 4) : (b.setTok k v).stopping = b.stopping := rfl
@[simp] theorem setTok_inflight (b : Bank) (k : Nat) (v : BitVec 4) : (b.setTok k v).inflight = b.inflight := rfl
@[simp] theorem setTok_wait (b : Bank) (k : Nat) (v : BitVec 4) : (b.setTok k v).wait = b.wait := rfl
@[simp] theorem setTok_pend (b : Bank) (k : Nat) (v : BitVec 4) : (b.setTok k v).pend = b.pend := rfl
@[simp] theorem setTok_due (b : Bank) (k : Nat) (v : BitVec 4) : (b.setTok k v).due = b.due := rfl
@[simp] theorem setTok_svcPend (b : Bank) (k : Nat) (v : BitVec 4) : (b.setTok k v).svcPend = b.svcPend := rfl
@[simp] theorem setTok_svcSeen (b : Bank) (k : Nat) (v : BitVec 4) : (b.setTok k v).svcSeen = b.svcSeen := rfl
@[simp] theorem setTok_svcPast (b : Bank) (k : Nat) (v : BitVec 4) : (b.setTok k v).svcPast = b.svcPast := rfl
@[simp] theorem setTok_shsel (b : Bank) (k : Nat) (v : BitVec 4) : (b.setTok k v).shsel = b.shsel := rfl
@[simp] theorem setTok_svcRec (b : Bank) (k : Nat) (v : BitVec 4) : (b.setTok k v).svcRec = b.svcRec := rfl
@[simp] theorem setTok_ctx (b : Bank) (k : Nat) (v : BitVec 4) : (b.setTok k v).ctx = b.ctx := rfl
@[simp] theorem setTok_hdr (b : Bank) (k : Nat) (v : BitVec 4) : (b.setTok k v).hdr = b.hdr := rfl
@[simp] theorem setTok_hdrw (b : Bank) (k : Nat) (v : BitVec 4) : (b.setTok k v).hdrw = b.hdrw := rfl
@[simp] theorem setTok_staged (b : Bank) (k : Nat) (v : BitVec 4) : (b.setTok k v).staged = b.staged := rfl
@[simp] theorem setTok_owner (b : Bank) (k : Nat) (v : BitVec 4) : (b.setTok k v).owner = b.owner := rfl

@[simp] theorem setPc_st (b : Bank) (e : Engine) (v : Word) : (b.setPc e v).st = b.st := rfl
@[simp] theorem setPc_a (b : Bank) (e : Engine) (v : Word) : (b.setPc e v).a = b.a := rfl
@[simp] theorem setPc_s (b : Bank) (e : Engine) (v : Word) : (b.setPc e v).s = b.s := rfl
@[simp] theorem setPc_m (b : Bank) (e : Engine) (v : Word) : (b.setPc e v).m = b.m := rfl
@[simp] theorem setPc_v (b : Bank) (e : Engine) (v : Word) : (b.setPc e v).v = b.v := rfl
@[simp] theorem setPc_k (b : Bank) (e : Engine) (v : Word) : (b.setPc e v).k = b.k := rfl
@[simp] theorem setPc_kx (b : Bank) (e : Engine) (v : Word) : (b.setPc e v).kx = b.kx := rfl
@[simp] theorem setPc_issue (b : Bank) (e : Engine) (v : Word) : (b.setPc e v).issue = b.issue := rfl
@[simp] theorem setPc_shadow (b : Bank) (e : Engine) (v : Word) : (b.setPc e v).shadow = b.shadow := rfl
@[simp] theorem setPc_evq (b : Bank) (e : Engine) (v : Word) : (b.setPc e v).evq = b.evq := rfl
@[simp] theorem setPc_slipwin (b : Bank) (e : Engine) (v : Word) : (b.setPc e v).slipwin = b.slipwin := rfl
@[simp] theorem setPc_handlen (b : Bank) (e : Engine) (v : Word) : (b.setPc e v).handlen = b.handlen := rfl
@[simp] theorem setPc_fault (b : Bank) (e : Engine) (v : Word) : (b.setPc e v).fault = b.fault := rfl
@[simp] theorem setPc_trapActive (b : Bank) (e : Engine) (v : Word) : (b.setPc e v).trapActive = b.trapActive := rfl
@[simp] theorem setPc_trapSkip (b : Bank) (e : Engine) (v : Word) : (b.setPc e v).trapSkip = b.trapSkip := rfl
@[simp] theorem setPc_trapRec (b : Bank) (e : Engine) (v : Word) : (b.setPc e v).trapRec = b.trapRec := rfl
@[simp] theorem setPc_skip (b : Bank) (e : Engine) (v : Word) : (b.setPc e v).skip = b.skip := rfl
@[simp] theorem setPc_owed (b : Bank) (e : Engine) (v : Word) : (b.setPc e v).owed = b.owed := rfl
@[simp] theorem setPc_rpc (b : Bank) (e : Engine) (v : Word) : (b.setPc e v).rpc = b.rpc := rfl
@[simp] theorem setPc_xrm (b : Bank) (e : Engine) (v : Word) : (b.setPc e v).xrm = b.xrm := rfl
@[simp] theorem setPc_xseed (b : Bank) (e : Engine) (v : Word) : (b.setPc e v).xseed = b.xseed := rfl
@[simp] theorem setPc_xflags (b : Bank) (e : Engine) (v : Word) : (b.setPc e v).xflags = b.xflags := rfl
@[simp] theorem setPc_chipGrant (b : Bank) (e : Engine) (v : Word) : (b.setPc e v).chipGrant = b.chipGrant := rfl
@[simp] theorem setPc_privBase (b : Bank) (e : Engine) (v : Word) : (b.setPc e v).privBase = b.privBase := rfl
@[simp] theorem setPc_privSize (b : Bank) (e : Engine) (v : Word) : (b.setPc e v).privSize = b.privSize := rfl
@[simp] theorem setPc_xlat (b : Bank) (e : Engine) (v : Word) : (b.setPc e v).xlat = b.xlat := rfl
@[simp] theorem setPc_clamp (b : Bank) (e : Engine) (v : Word) : (b.setPc e v).clamp = b.clamp := rfl
@[simp] theorem setPc_tenant (b : Bank) (e : Engine) (v : Word) : (b.setPc e v).tenant = b.tenant := rfl
@[simp] theorem setPc_priv (b : Bank) (e : Engine) (v : Word) : (b.setPc e v).priv = b.priv := rfl
@[simp] theorem setPc_mat (b : Bank) (e : Engine) (v : Word) : (b.setPc e v).mat = b.mat := rfl
@[simp] theorem setPc_tempo (b : Bank) (e : Engine) (v : Word) : (b.setPc e v).tempo = b.tempo := rfl
@[simp] theorem setPc_round (b : Bank) (e : Engine) (v : Word) : (b.setPc e v).round = b.round := rfl
@[simp] theorem setPc_walked (b : Bank) (e : Engine) (v : Word) : (b.setPc e v).walked = b.walked := rfl
@[simp] theorem setPc_given (b : Bank) (e : Engine) (v : Word) : (b.setPc e v).given = b.given := rfl
@[simp] theorem setPc_kern (b : Bank) (e : Engine) (v : Word) : (b.setPc e v).kern = b.kern := rfl
@[simp] theorem setPc_launch (b : Bank) (e : Engine) (v : Word) : (b.setPc e v).launch = b.launch := rfl
@[simp] theorem setPc_pe (b : Bank) (e : Engine) (v : Word) : (b.setPc e v).pe = b.pe := rfl
@[simp] theorem setPc_exiting (b : Bank) (e : Engine) (v : Word) : (b.setPc e v).exiting = b.exiting := rfl
@[simp] theorem setPc_stopping (b : Bank) (e : Engine) (v : Word) : (b.setPc e v).stopping = b.stopping := rfl
@[simp] theorem setPc_inflight (b : Bank) (e : Engine) (v : Word) : (b.setPc e v).inflight = b.inflight := rfl
@[simp] theorem setPc_wait (b : Bank) (e : Engine) (v : Word) : (b.setPc e v).wait = b.wait := rfl
@[simp] theorem setPc_pend (b : Bank) (e : Engine) (v : Word) : (b.setPc e v).pend = b.pend := rfl
@[simp] theorem setPc_due (b : Bank) (e : Engine) (v : Word) : (b.setPc e v).due = b.due := rfl
@[simp] theorem setPc_svcPend (b : Bank) (e : Engine) (v : Word) : (b.setPc e v).svcPend = b.svcPend := rfl
@[simp] theorem setPc_svcSeen (b : Bank) (e : Engine) (v : Word) : (b.setPc e v).svcSeen = b.svcSeen := rfl
@[simp] theorem setPc_svcPast (b : Bank) (e : Engine) (v : Word) : (b.setPc e v).svcPast = b.svcPast := rfl
@[simp] theorem setPc_shsel (b : Bank) (e : Engine) (v : Word) : (b.setPc e v).shsel = b.shsel := rfl
@[simp] theorem setPc_svcRec (b : Bank) (e : Engine) (v : Word) : (b.setPc e v).svcRec = b.svcRec := rfl
@[simp] theorem setPc_ctx (b : Bank) (e : Engine) (v : Word) : (b.setPc e v).ctx = b.ctx := rfl
@[simp] theorem setPc_hdr (b : Bank) (e : Engine) (v : Word) : (b.setPc e v).hdr = b.hdr := rfl
@[simp] theorem setPc_hdrw (b : Bank) (e : Engine) (v : Word) : (b.setPc e v).hdrw = b.hdrw := rfl
@[simp] theorem setPc_staged (b : Bank) (e : Engine) (v : Word) : (b.setPc e v).staged = b.staged := rfl
@[simp] theorem setPc_owner (b : Bank) (e : Engine) (v : Word) : (b.setPc e v).owner = b.owner := rfl

@[simp] theorem dropKx_st (b : Bank) (e : Engine) : (b.dropKx e).st = b.st := rfl
@[simp] theorem dropKx_a (b : Bank) (e : Engine) : (b.dropKx e).a = b.a := rfl
@[simp] theorem dropKx_s (b : Bank) (e : Engine) : (b.dropKx e).s = b.s := rfl
@[simp] theorem dropKx_m (b : Bank) (e : Engine) : (b.dropKx e).m = b.m := rfl
@[simp] theorem dropKx_v (b : Bank) (e : Engine) : (b.dropKx e).v = b.v := rfl
@[simp] theorem dropKx_k (b : Bank) (e : Engine) : (b.dropKx e).k = b.k := rfl
@[simp] theorem dropKx_pc (b : Bank) (e : Engine) : (b.dropKx e).pc = b.pc := rfl
@[simp] theorem dropKx_issue (b : Bank) (e : Engine) : (b.dropKx e).issue = b.issue := rfl
@[simp] theorem dropKx_shadow (b : Bank) (e : Engine) : (b.dropKx e).shadow = b.shadow := rfl
@[simp] theorem dropKx_evq (b : Bank) (e : Engine) : (b.dropKx e).evq = b.evq := rfl
@[simp] theorem dropKx_slipwin (b : Bank) (e : Engine) : (b.dropKx e).slipwin = b.slipwin := rfl
@[simp] theorem dropKx_handlen (b : Bank) (e : Engine) : (b.dropKx e).handlen = b.handlen := rfl
@[simp] theorem dropKx_fault (b : Bank) (e : Engine) : (b.dropKx e).fault = b.fault := rfl
@[simp] theorem dropKx_trapActive (b : Bank) (e : Engine) : (b.dropKx e).trapActive = b.trapActive := rfl
@[simp] theorem dropKx_trapSkip (b : Bank) (e : Engine) : (b.dropKx e).trapSkip = b.trapSkip := rfl
@[simp] theorem dropKx_trapRec (b : Bank) (e : Engine) : (b.dropKx e).trapRec = b.trapRec := rfl
@[simp] theorem dropKx_skip (b : Bank) (e : Engine) : (b.dropKx e).skip = b.skip := rfl
@[simp] theorem dropKx_owed (b : Bank) (e : Engine) : (b.dropKx e).owed = b.owed := rfl
@[simp] theorem dropKx_rpc (b : Bank) (e : Engine) : (b.dropKx e).rpc = b.rpc := rfl
@[simp] theorem dropKx_xrm (b : Bank) (e : Engine) : (b.dropKx e).xrm = b.xrm := rfl
@[simp] theorem dropKx_xseed (b : Bank) (e : Engine) : (b.dropKx e).xseed = b.xseed := rfl
@[simp] theorem dropKx_xflags (b : Bank) (e : Engine) : (b.dropKx e).xflags = b.xflags := rfl
@[simp] theorem dropKx_chipGrant (b : Bank) (e : Engine) : (b.dropKx e).chipGrant = b.chipGrant := rfl
@[simp] theorem dropKx_privBase (b : Bank) (e : Engine) : (b.dropKx e).privBase = b.privBase := rfl
@[simp] theorem dropKx_privSize (b : Bank) (e : Engine) : (b.dropKx e).privSize = b.privSize := rfl
@[simp] theorem dropKx_xlat (b : Bank) (e : Engine) : (b.dropKx e).xlat = b.xlat := rfl
@[simp] theorem dropKx_clamp (b : Bank) (e : Engine) : (b.dropKx e).clamp = b.clamp := rfl
@[simp] theorem dropKx_tenant (b : Bank) (e : Engine) : (b.dropKx e).tenant = b.tenant := rfl
@[simp] theorem dropKx_priv (b : Bank) (e : Engine) : (b.dropKx e).priv = b.priv := rfl
@[simp] theorem dropKx_mat (b : Bank) (e : Engine) : (b.dropKx e).mat = b.mat := rfl
@[simp] theorem dropKx_tempo (b : Bank) (e : Engine) : (b.dropKx e).tempo = b.tempo := rfl
@[simp] theorem dropKx_round (b : Bank) (e : Engine) : (b.dropKx e).round = b.round := rfl
@[simp] theorem dropKx_walked (b : Bank) (e : Engine) : (b.dropKx e).walked = b.walked := rfl
@[simp] theorem dropKx_given (b : Bank) (e : Engine) : (b.dropKx e).given = b.given := rfl
@[simp] theorem dropKx_kern (b : Bank) (e : Engine) : (b.dropKx e).kern = b.kern := rfl
@[simp] theorem dropKx_launch (b : Bank) (e : Engine) : (b.dropKx e).launch = b.launch := rfl
@[simp] theorem dropKx_pe (b : Bank) (e : Engine) : (b.dropKx e).pe = b.pe := rfl
@[simp] theorem dropKx_exiting (b : Bank) (e : Engine) : (b.dropKx e).exiting = b.exiting := rfl
@[simp] theorem dropKx_stopping (b : Bank) (e : Engine) : (b.dropKx e).stopping = b.stopping := rfl
@[simp] theorem dropKx_inflight (b : Bank) (e : Engine) : (b.dropKx e).inflight = b.inflight := rfl
@[simp] theorem dropKx_wait (b : Bank) (e : Engine) : (b.dropKx e).wait = b.wait := rfl
@[simp] theorem dropKx_pend (b : Bank) (e : Engine) : (b.dropKx e).pend = b.pend := rfl
@[simp] theorem dropKx_due (b : Bank) (e : Engine) : (b.dropKx e).due = b.due := rfl
@[simp] theorem dropKx_svcPend (b : Bank) (e : Engine) : (b.dropKx e).svcPend = b.svcPend := rfl
@[simp] theorem dropKx_svcSeen (b : Bank) (e : Engine) : (b.dropKx e).svcSeen = b.svcSeen := rfl
@[simp] theorem dropKx_svcPast (b : Bank) (e : Engine) : (b.dropKx e).svcPast = b.svcPast := rfl
@[simp] theorem dropKx_shsel (b : Bank) (e : Engine) : (b.dropKx e).shsel = b.shsel := rfl
@[simp] theorem dropKx_svcRec (b : Bank) (e : Engine) : (b.dropKx e).svcRec = b.svcRec := rfl
@[simp] theorem dropKx_ctx (b : Bank) (e : Engine) : (b.dropKx e).ctx = b.ctx := rfl
@[simp] theorem dropKx_hdr (b : Bank) (e : Engine) : (b.dropKx e).hdr = b.hdr := rfl
@[simp] theorem dropKx_hdrw (b : Bank) (e : Engine) : (b.dropKx e).hdrw = b.hdrw := rfl
@[simp] theorem dropKx_staged (b : Bank) (e : Engine) : (b.dropKx e).staged = b.staged := rfl
@[simp] theorem dropKx_owner (b : Bank) (e : Engine) : (b.dropKx e).owner = b.owner := rfl

@[simp] theorem addStep_st (b : Bank) (e : Engine) (n : Nat) : (b.addStep e n).st = b.st := rfl
@[simp] theorem addStep_a (b : Bank) (e : Engine) (n : Nat) : (b.addStep e n).a = b.a := rfl
@[simp] theorem addStep_s (b : Bank) (e : Engine) (n : Nat) : (b.addStep e n).s = b.s := rfl
@[simp] theorem addStep_m (b : Bank) (e : Engine) (n : Nat) : (b.addStep e n).m = b.m := rfl
@[simp] theorem addStep_v (b : Bank) (e : Engine) (n : Nat) : (b.addStep e n).v = b.v := rfl
@[simp] theorem addStep_k (b : Bank) (e : Engine) (n : Nat) : (b.addStep e n).k = b.k := rfl
@[simp] theorem addStep_pc (b : Bank) (e : Engine) (n : Nat) : (b.addStep e n).pc = b.pc := rfl
@[simp] theorem addStep_kx (b : Bank) (e : Engine) (n : Nat) : (b.addStep e n).kx = b.kx := rfl
@[simp] theorem addStep_shadow (b : Bank) (e : Engine) (n : Nat) : (b.addStep e n).shadow = b.shadow := rfl
@[simp] theorem addStep_evq (b : Bank) (e : Engine) (n : Nat) : (b.addStep e n).evq = b.evq := rfl
@[simp] theorem addStep_slipwin (b : Bank) (e : Engine) (n : Nat) : (b.addStep e n).slipwin = b.slipwin := rfl
@[simp] theorem addStep_handlen (b : Bank) (e : Engine) (n : Nat) : (b.addStep e n).handlen = b.handlen := rfl
@[simp] theorem addStep_fault (b : Bank) (e : Engine) (n : Nat) : (b.addStep e n).fault = b.fault := rfl
@[simp] theorem addStep_trapActive (b : Bank) (e : Engine) (n : Nat) : (b.addStep e n).trapActive = b.trapActive := rfl
@[simp] theorem addStep_trapSkip (b : Bank) (e : Engine) (n : Nat) : (b.addStep e n).trapSkip = b.trapSkip := rfl
@[simp] theorem addStep_trapRec (b : Bank) (e : Engine) (n : Nat) : (b.addStep e n).trapRec = b.trapRec := rfl
@[simp] theorem addStep_skip (b : Bank) (e : Engine) (n : Nat) : (b.addStep e n).skip = b.skip := rfl
@[simp] theorem addStep_owed (b : Bank) (e : Engine) (n : Nat) : (b.addStep e n).owed = b.owed := rfl
@[simp] theorem addStep_rpc (b : Bank) (e : Engine) (n : Nat) : (b.addStep e n).rpc = b.rpc := rfl
@[simp] theorem addStep_xrm (b : Bank) (e : Engine) (n : Nat) : (b.addStep e n).xrm = b.xrm := rfl
@[simp] theorem addStep_xseed (b : Bank) (e : Engine) (n : Nat) : (b.addStep e n).xseed = b.xseed := rfl
@[simp] theorem addStep_xflags (b : Bank) (e : Engine) (n : Nat) : (b.addStep e n).xflags = b.xflags := rfl
@[simp] theorem addStep_chipGrant (b : Bank) (e : Engine) (n : Nat) : (b.addStep e n).chipGrant = b.chipGrant := rfl
@[simp] theorem addStep_privBase (b : Bank) (e : Engine) (n : Nat) : (b.addStep e n).privBase = b.privBase := rfl
@[simp] theorem addStep_privSize (b : Bank) (e : Engine) (n : Nat) : (b.addStep e n).privSize = b.privSize := rfl
@[simp] theorem addStep_xlat (b : Bank) (e : Engine) (n : Nat) : (b.addStep e n).xlat = b.xlat := rfl
@[simp] theorem addStep_clamp (b : Bank) (e : Engine) (n : Nat) : (b.addStep e n).clamp = b.clamp := rfl
@[simp] theorem addStep_tenant (b : Bank) (e : Engine) (n : Nat) : (b.addStep e n).tenant = b.tenant := rfl
@[simp] theorem addStep_priv (b : Bank) (e : Engine) (n : Nat) : (b.addStep e n).priv = b.priv := rfl
@[simp] theorem addStep_mat (b : Bank) (e : Engine) (n : Nat) : (b.addStep e n).mat = b.mat := rfl
@[simp] theorem addStep_tempo (b : Bank) (e : Engine) (n : Nat) : (b.addStep e n).tempo = b.tempo := rfl
@[simp] theorem addStep_round (b : Bank) (e : Engine) (n : Nat) : (b.addStep e n).round = b.round := rfl
@[simp] theorem addStep_walked (b : Bank) (e : Engine) (n : Nat) : (b.addStep e n).walked = b.walked := rfl
@[simp] theorem addStep_given (b : Bank) (e : Engine) (n : Nat) : (b.addStep e n).given = b.given := rfl
@[simp] theorem addStep_kern (b : Bank) (e : Engine) (n : Nat) : (b.addStep e n).kern = b.kern := rfl
@[simp] theorem addStep_launch (b : Bank) (e : Engine) (n : Nat) : (b.addStep e n).launch = b.launch := rfl
@[simp] theorem addStep_pe (b : Bank) (e : Engine) (n : Nat) : (b.addStep e n).pe = b.pe := rfl
@[simp] theorem addStep_exiting (b : Bank) (e : Engine) (n : Nat) : (b.addStep e n).exiting = b.exiting := rfl
@[simp] theorem addStep_stopping (b : Bank) (e : Engine) (n : Nat) : (b.addStep e n).stopping = b.stopping := rfl
@[simp] theorem addStep_inflight (b : Bank) (e : Engine) (n : Nat) : (b.addStep e n).inflight = b.inflight := rfl
@[simp] theorem addStep_wait (b : Bank) (e : Engine) (n : Nat) : (b.addStep e n).wait = b.wait := rfl
@[simp] theorem addStep_pend (b : Bank) (e : Engine) (n : Nat) : (b.addStep e n).pend = b.pend := rfl
@[simp] theorem addStep_due (b : Bank) (e : Engine) (n : Nat) : (b.addStep e n).due = b.due := rfl
@[simp] theorem addStep_svcPend (b : Bank) (e : Engine) (n : Nat) : (b.addStep e n).svcPend = b.svcPend := rfl
@[simp] theorem addStep_svcSeen (b : Bank) (e : Engine) (n : Nat) : (b.addStep e n).svcSeen = b.svcSeen := rfl
@[simp] theorem addStep_svcPast (b : Bank) (e : Engine) (n : Nat) : (b.addStep e n).svcPast = b.svcPast := rfl
@[simp] theorem addStep_shsel (b : Bank) (e : Engine) (n : Nat) : (b.addStep e n).shsel = b.shsel := rfl
@[simp] theorem addStep_svcRec (b : Bank) (e : Engine) (n : Nat) : (b.addStep e n).svcRec = b.svcRec := rfl
@[simp] theorem addStep_ctx (b : Bank) (e : Engine) (n : Nat) : (b.addStep e n).ctx = b.ctx := rfl
@[simp] theorem addStep_hdr (b : Bank) (e : Engine) (n : Nat) : (b.addStep e n).hdr = b.hdr := rfl
@[simp] theorem addStep_hdrw (b : Bank) (e : Engine) (n : Nat) : (b.addStep e n).hdrw = b.hdrw := rfl
@[simp] theorem addStep_staged (b : Bank) (e : Engine) (n : Nat) : (b.addStep e n).staged = b.staged := rfl
@[simp] theorem addStep_owner (b : Bank) (e : Engine) (n : Nat) : (b.addStep e n).owner = b.owner := rfl

@[simp] theorem jump_st (b : Bank) (e : Engine) (t : Word) : (b.jump e t).st = b.st := rfl
@[simp] theorem jump_a (b : Bank) (e : Engine) (t : Word) : (b.jump e t).a = b.a := rfl
@[simp] theorem jump_s (b : Bank) (e : Engine) (t : Word) : (b.jump e t).s = b.s := rfl
@[simp] theorem jump_m (b : Bank) (e : Engine) (t : Word) : (b.jump e t).m = b.m := rfl
@[simp] theorem jump_v (b : Bank) (e : Engine) (t : Word) : (b.jump e t).v = b.v := rfl
@[simp] theorem jump_k (b : Bank) (e : Engine) (t : Word) : (b.jump e t).k = b.k := rfl
@[simp] theorem jump_shadow (b : Bank) (e : Engine) (t : Word) : (b.jump e t).shadow = b.shadow := rfl
@[simp] theorem jump_evq (b : Bank) (e : Engine) (t : Word) : (b.jump e t).evq = b.evq := rfl
@[simp] theorem jump_slipwin (b : Bank) (e : Engine) (t : Word) : (b.jump e t).slipwin = b.slipwin := rfl
@[simp] theorem jump_handlen (b : Bank) (e : Engine) (t : Word) : (b.jump e t).handlen = b.handlen := rfl
@[simp] theorem jump_fault (b : Bank) (e : Engine) (t : Word) : (b.jump e t).fault = b.fault := rfl
@[simp] theorem jump_trapActive (b : Bank) (e : Engine) (t : Word) : (b.jump e t).trapActive = b.trapActive := rfl
@[simp] theorem jump_trapSkip (b : Bank) (e : Engine) (t : Word) : (b.jump e t).trapSkip = b.trapSkip := rfl
@[simp] theorem jump_trapRec (b : Bank) (e : Engine) (t : Word) : (b.jump e t).trapRec = b.trapRec := rfl
@[simp] theorem jump_skip (b : Bank) (e : Engine) (t : Word) : (b.jump e t).skip = b.skip := rfl
@[simp] theorem jump_owed (b : Bank) (e : Engine) (t : Word) : (b.jump e t).owed = b.owed := rfl
@[simp] theorem jump_rpc (b : Bank) (e : Engine) (t : Word) : (b.jump e t).rpc = b.rpc := rfl
@[simp] theorem jump_xrm (b : Bank) (e : Engine) (t : Word) : (b.jump e t).xrm = b.xrm := rfl
@[simp] theorem jump_xseed (b : Bank) (e : Engine) (t : Word) : (b.jump e t).xseed = b.xseed := rfl
@[simp] theorem jump_xflags (b : Bank) (e : Engine) (t : Word) : (b.jump e t).xflags = b.xflags := rfl
@[simp] theorem jump_chipGrant (b : Bank) (e : Engine) (t : Word) : (b.jump e t).chipGrant = b.chipGrant := rfl
@[simp] theorem jump_privBase (b : Bank) (e : Engine) (t : Word) : (b.jump e t).privBase = b.privBase := rfl
@[simp] theorem jump_privSize (b : Bank) (e : Engine) (t : Word) : (b.jump e t).privSize = b.privSize := rfl
@[simp] theorem jump_xlat (b : Bank) (e : Engine) (t : Word) : (b.jump e t).xlat = b.xlat := rfl
@[simp] theorem jump_clamp (b : Bank) (e : Engine) (t : Word) : (b.jump e t).clamp = b.clamp := rfl
@[simp] theorem jump_tenant (b : Bank) (e : Engine) (t : Word) : (b.jump e t).tenant = b.tenant := rfl
@[simp] theorem jump_priv (b : Bank) (e : Engine) (t : Word) : (b.jump e t).priv = b.priv := rfl
@[simp] theorem jump_mat (b : Bank) (e : Engine) (t : Word) : (b.jump e t).mat = b.mat := rfl
@[simp] theorem jump_tempo (b : Bank) (e : Engine) (t : Word) : (b.jump e t).tempo = b.tempo := rfl
@[simp] theorem jump_round (b : Bank) (e : Engine) (t : Word) : (b.jump e t).round = b.round := rfl
@[simp] theorem jump_walked (b : Bank) (e : Engine) (t : Word) : (b.jump e t).walked = b.walked := rfl
@[simp] theorem jump_given (b : Bank) (e : Engine) (t : Word) : (b.jump e t).given = b.given := rfl
@[simp] theorem jump_kern (b : Bank) (e : Engine) (t : Word) : (b.jump e t).kern = b.kern := rfl
@[simp] theorem jump_launch (b : Bank) (e : Engine) (t : Word) : (b.jump e t).launch = b.launch := rfl
@[simp] theorem jump_pe (b : Bank) (e : Engine) (t : Word) : (b.jump e t).pe = b.pe := rfl
@[simp] theorem jump_exiting (b : Bank) (e : Engine) (t : Word) : (b.jump e t).exiting = b.exiting := rfl
@[simp] theorem jump_stopping (b : Bank) (e : Engine) (t : Word) : (b.jump e t).stopping = b.stopping := rfl
@[simp] theorem jump_inflight (b : Bank) (e : Engine) (t : Word) : (b.jump e t).inflight = b.inflight := rfl
@[simp] theorem jump_wait (b : Bank) (e : Engine) (t : Word) : (b.jump e t).wait = b.wait := rfl
@[simp] theorem jump_pend (b : Bank) (e : Engine) (t : Word) : (b.jump e t).pend = b.pend := rfl
@[simp] theorem jump_due (b : Bank) (e : Engine) (t : Word) : (b.jump e t).due = b.due := rfl
@[simp] theorem jump_svcPend (b : Bank) (e : Engine) (t : Word) : (b.jump e t).svcPend = b.svcPend := rfl
@[simp] theorem jump_svcSeen (b : Bank) (e : Engine) (t : Word) : (b.jump e t).svcSeen = b.svcSeen := rfl
@[simp] theorem jump_svcPast (b : Bank) (e : Engine) (t : Word) : (b.jump e t).svcPast = b.svcPast := rfl
@[simp] theorem jump_shsel (b : Bank) (e : Engine) (t : Word) : (b.jump e t).shsel = b.shsel := rfl
@[simp] theorem jump_svcRec (b : Bank) (e : Engine) (t : Word) : (b.jump e t).svcRec = b.svcRec := rfl
@[simp] theorem jump_ctx (b : Bank) (e : Engine) (t : Word) : (b.jump e t).ctx = b.ctx := rfl
@[simp] theorem jump_hdr (b : Bank) (e : Engine) (t : Word) : (b.jump e t).hdr = b.hdr := rfl
@[simp] theorem jump_hdrw (b : Bank) (e : Engine) (t : Word) : (b.jump e t).hdrw = b.hdrw := rfl
@[simp] theorem jump_staged (b : Bank) (e : Engine) (t : Word) : (b.jump e t).staged = b.staged := rfl
@[simp] theorem jump_owner (b : Bank) (e : Engine) (t : Word) : (b.jump e t).owner = b.owner := rfl

@[simp] theorem pass_st (b : Bank) (e : Engine) : (b.pass e).st = b.st := rfl
@[simp] theorem pass_a (b : Bank) (e : Engine) : (b.pass e).a = b.a := rfl
@[simp] theorem pass_s (b : Bank) (e : Engine) : (b.pass e).s = b.s := rfl
@[simp] theorem pass_m (b : Bank) (e : Engine) : (b.pass e).m = b.m := rfl
@[simp] theorem pass_v (b : Bank) (e : Engine) : (b.pass e).v = b.v := rfl
@[simp] theorem pass_k (b : Bank) (e : Engine) : (b.pass e).k = b.k := rfl
@[simp] theorem pass_shadow (b : Bank) (e : Engine) : (b.pass e).shadow = b.shadow := rfl
@[simp] theorem pass_evq (b : Bank) (e : Engine) : (b.pass e).evq = b.evq := rfl
@[simp] theorem pass_slipwin (b : Bank) (e : Engine) : (b.pass e).slipwin = b.slipwin := rfl
@[simp] theorem pass_handlen (b : Bank) (e : Engine) : (b.pass e).handlen = b.handlen := rfl
@[simp] theorem pass_fault (b : Bank) (e : Engine) : (b.pass e).fault = b.fault := rfl
@[simp] theorem pass_trapActive (b : Bank) (e : Engine) : (b.pass e).trapActive = b.trapActive := rfl
@[simp] theorem pass_trapSkip (b : Bank) (e : Engine) : (b.pass e).trapSkip = b.trapSkip := rfl
@[simp] theorem pass_trapRec (b : Bank) (e : Engine) : (b.pass e).trapRec = b.trapRec := rfl
@[simp] theorem pass_skip (b : Bank) (e : Engine) : (b.pass e).skip = b.skip := rfl
@[simp] theorem pass_owed (b : Bank) (e : Engine) : (b.pass e).owed = b.owed := rfl
@[simp] theorem pass_rpc (b : Bank) (e : Engine) : (b.pass e).rpc = b.rpc := rfl
@[simp] theorem pass_xrm (b : Bank) (e : Engine) : (b.pass e).xrm = b.xrm := rfl
@[simp] theorem pass_xseed (b : Bank) (e : Engine) : (b.pass e).xseed = b.xseed := rfl
@[simp] theorem pass_xflags (b : Bank) (e : Engine) : (b.pass e).xflags = b.xflags := rfl
@[simp] theorem pass_chipGrant (b : Bank) (e : Engine) : (b.pass e).chipGrant = b.chipGrant := rfl
@[simp] theorem pass_privBase (b : Bank) (e : Engine) : (b.pass e).privBase = b.privBase := rfl
@[simp] theorem pass_privSize (b : Bank) (e : Engine) : (b.pass e).privSize = b.privSize := rfl
@[simp] theorem pass_xlat (b : Bank) (e : Engine) : (b.pass e).xlat = b.xlat := rfl
@[simp] theorem pass_clamp (b : Bank) (e : Engine) : (b.pass e).clamp = b.clamp := rfl
@[simp] theorem pass_tenant (b : Bank) (e : Engine) : (b.pass e).tenant = b.tenant := rfl
@[simp] theorem pass_priv (b : Bank) (e : Engine) : (b.pass e).priv = b.priv := rfl
@[simp] theorem pass_mat (b : Bank) (e : Engine) : (b.pass e).mat = b.mat := rfl
@[simp] theorem pass_tempo (b : Bank) (e : Engine) : (b.pass e).tempo = b.tempo := rfl
@[simp] theorem pass_round (b : Bank) (e : Engine) : (b.pass e).round = b.round := rfl
@[simp] theorem pass_walked (b : Bank) (e : Engine) : (b.pass e).walked = b.walked := rfl
@[simp] theorem pass_given (b : Bank) (e : Engine) : (b.pass e).given = b.given := rfl
@[simp] theorem pass_kern (b : Bank) (e : Engine) : (b.pass e).kern = b.kern := rfl
@[simp] theorem pass_launch (b : Bank) (e : Engine) : (b.pass e).launch = b.launch := rfl
@[simp] theorem pass_pe (b : Bank) (e : Engine) : (b.pass e).pe = b.pe := rfl
@[simp] theorem pass_exiting (b : Bank) (e : Engine) : (b.pass e).exiting = b.exiting := rfl
@[simp] theorem pass_stopping (b : Bank) (e : Engine) : (b.pass e).stopping = b.stopping := rfl
@[simp] theorem pass_inflight (b : Bank) (e : Engine) : (b.pass e).inflight = b.inflight := rfl
@[simp] theorem pass_wait (b : Bank) (e : Engine) : (b.pass e).wait = b.wait := rfl
@[simp] theorem pass_pend (b : Bank) (e : Engine) : (b.pass e).pend = b.pend := rfl
@[simp] theorem pass_due (b : Bank) (e : Engine) : (b.pass e).due = b.due := rfl
@[simp] theorem pass_svcPend (b : Bank) (e : Engine) : (b.pass e).svcPend = b.svcPend := rfl
@[simp] theorem pass_svcSeen (b : Bank) (e : Engine) : (b.pass e).svcSeen = b.svcSeen := rfl
@[simp] theorem pass_svcPast (b : Bank) (e : Engine) : (b.pass e).svcPast = b.svcPast := rfl
@[simp] theorem pass_shsel (b : Bank) (e : Engine) : (b.pass e).shsel = b.shsel := rfl
@[simp] theorem pass_svcRec (b : Bank) (e : Engine) : (b.pass e).svcRec = b.svcRec := rfl
@[simp] theorem pass_ctx (b : Bank) (e : Engine) : (b.pass e).ctx = b.ctx := rfl
@[simp] theorem pass_hdr (b : Bank) (e : Engine) : (b.pass e).hdr = b.hdr := rfl
@[simp] theorem pass_hdrw (b : Bank) (e : Engine) : (b.pass e).hdrw = b.hdrw := rfl
@[simp] theorem pass_staged (b : Bank) (e : Engine) : (b.pass e).staged = b.staged := rfl
@[simp] theorem pass_owner (b : Bank) (e : Engine) : (b.pass e).owner = b.owner := rfl

@[simp] theorem wa_st (b : Bank) (r : Nat) (v : Word) : (b.wa r v).st = b.st := by
  unfold Bank.wa; split <;> rfl
@[simp] theorem wa_s (b : Bank) (r : Nat) (v : Word) : (b.wa r v).s = b.s := by
  unfold Bank.wa; split <;> rfl
@[simp] theorem wa_m (b : Bank) (r : Nat) (v : Word) : (b.wa r v).m = b.m := by
  unfold Bank.wa; split <;> rfl
@[simp] theorem wa_v (b : Bank) (r : Nat) (v : Word) : (b.wa r v).v = b.v := by
  unfold Bank.wa; split <;> rfl
@[simp] theorem wa_k (b : Bank) (r : Nat) (v : Word) : (b.wa r v).k = b.k := by
  unfold Bank.wa; split <;> rfl
@[simp] theorem wa_pc (b : Bank) (r : Nat) (v : Word) : (b.wa r v).pc = b.pc := by
  unfold Bank.wa; split <;> rfl
@[simp] theorem wa_kx (b : Bank) (r : Nat) (v : Word) : (b.wa r v).kx = b.kx := by
  unfold Bank.wa; split <;> rfl
@[simp] theorem wa_issue (b : Bank) (r : Nat) (v : Word) : (b.wa r v).issue = b.issue := by
  unfold Bank.wa; split <;> rfl
@[simp] theorem wa_shadow (b : Bank) (r : Nat) (v : Word) : (b.wa r v).shadow = b.shadow := by
  unfold Bank.wa; split <;> rfl
@[simp] theorem wa_evq (b : Bank) (r : Nat) (v : Word) : (b.wa r v).evq = b.evq := by
  unfold Bank.wa; split <;> rfl
@[simp] theorem wa_slipwin (b : Bank) (r : Nat) (v : Word) : (b.wa r v).slipwin = b.slipwin := by
  unfold Bank.wa; split <;> rfl
@[simp] theorem wa_handlen (b : Bank) (r : Nat) (v : Word) : (b.wa r v).handlen = b.handlen := by
  unfold Bank.wa; split <;> rfl
@[simp] theorem wa_fault (b : Bank) (r : Nat) (v : Word) : (b.wa r v).fault = b.fault := by
  unfold Bank.wa; split <;> rfl
@[simp] theorem wa_trapActive (b : Bank) (r : Nat) (v : Word) : (b.wa r v).trapActive = b.trapActive := by
  unfold Bank.wa; split <;> rfl
@[simp] theorem wa_trapSkip (b : Bank) (r : Nat) (v : Word) : (b.wa r v).trapSkip = b.trapSkip := by
  unfold Bank.wa; split <;> rfl
@[simp] theorem wa_trapRec (b : Bank) (r : Nat) (v : Word) : (b.wa r v).trapRec = b.trapRec := by
  unfold Bank.wa; split <;> rfl
@[simp] theorem wa_skip (b : Bank) (r : Nat) (v : Word) : (b.wa r v).skip = b.skip := by
  unfold Bank.wa; split <;> rfl
@[simp] theorem wa_owed (b : Bank) (r : Nat) (v : Word) : (b.wa r v).owed = b.owed := by
  unfold Bank.wa; split <;> rfl
@[simp] theorem wa_rpc (b : Bank) (r : Nat) (v : Word) : (b.wa r v).rpc = b.rpc := by
  unfold Bank.wa; split <;> rfl
@[simp] theorem wa_xrm (b : Bank) (r : Nat) (v : Word) : (b.wa r v).xrm = b.xrm := by
  unfold Bank.wa; split <;> rfl
@[simp] theorem wa_xseed (b : Bank) (r : Nat) (v : Word) : (b.wa r v).xseed = b.xseed := by
  unfold Bank.wa; split <;> rfl
@[simp] theorem wa_xflags (b : Bank) (r : Nat) (v : Word) : (b.wa r v).xflags = b.xflags := by
  unfold Bank.wa; split <;> rfl
@[simp] theorem wa_chipGrant (b : Bank) (r : Nat) (v : Word) : (b.wa r v).chipGrant = b.chipGrant := by
  unfold Bank.wa; split <;> rfl
@[simp] theorem wa_privBase (b : Bank) (r : Nat) (v : Word) : (b.wa r v).privBase = b.privBase := by
  unfold Bank.wa; split <;> rfl
@[simp] theorem wa_privSize (b : Bank) (r : Nat) (v : Word) : (b.wa r v).privSize = b.privSize := by
  unfold Bank.wa; split <;> rfl
@[simp] theorem wa_xlat (b : Bank) (r : Nat) (v : Word) : (b.wa r v).xlat = b.xlat := by
  unfold Bank.wa; split <;> rfl
@[simp] theorem wa_clamp (b : Bank) (r : Nat) (v : Word) : (b.wa r v).clamp = b.clamp := by
  unfold Bank.wa; split <;> rfl
@[simp] theorem wa_tenant (b : Bank) (r : Nat) (v : Word) : (b.wa r v).tenant = b.tenant := by
  unfold Bank.wa; split <;> rfl
@[simp] theorem wa_priv (b : Bank) (r : Nat) (v : Word) : (b.wa r v).priv = b.priv := by
  unfold Bank.wa; split <;> rfl
@[simp] theorem wa_mat (b : Bank) (r : Nat) (v : Word) : (b.wa r v).mat = b.mat := by
  unfold Bank.wa; split <;> rfl
@[simp] theorem wa_tempo (b : Bank) (r : Nat) (v : Word) : (b.wa r v).tempo = b.tempo := by
  unfold Bank.wa; split <;> rfl
@[simp] theorem wa_round (b : Bank) (r : Nat) (v : Word) : (b.wa r v).round = b.round := by
  unfold Bank.wa; split <;> rfl
@[simp] theorem wa_walked (b : Bank) (r : Nat) (v : Word) : (b.wa r v).walked = b.walked := by
  unfold Bank.wa; split <;> rfl
@[simp] theorem wa_given (b : Bank) (r : Nat) (v : Word) : (b.wa r v).given = b.given := by
  unfold Bank.wa; split <;> rfl
@[simp] theorem wa_kern (b : Bank) (r : Nat) (v : Word) : (b.wa r v).kern = b.kern := by
  unfold Bank.wa; split <;> rfl
@[simp] theorem wa_launch (b : Bank) (r : Nat) (v : Word) : (b.wa r v).launch = b.launch := by
  unfold Bank.wa; split <;> rfl
@[simp] theorem wa_pe (b : Bank) (r : Nat) (v : Word) : (b.wa r v).pe = b.pe := by
  unfold Bank.wa; split <;> rfl
@[simp] theorem wa_exiting (b : Bank) (r : Nat) (v : Word) : (b.wa r v).exiting = b.exiting := by
  unfold Bank.wa; split <;> rfl
@[simp] theorem wa_stopping (b : Bank) (r : Nat) (v : Word) : (b.wa r v).stopping = b.stopping := by
  unfold Bank.wa; split <;> rfl
@[simp] theorem wa_wait (b : Bank) (r : Nat) (v : Word) : (b.wa r v).wait = b.wait := by
  unfold Bank.wa; split <;> rfl
@[simp] theorem wa_pend (b : Bank) (r : Nat) (v : Word) : (b.wa r v).pend = b.pend := by
  unfold Bank.wa; split <;> rfl
@[simp] theorem wa_due (b : Bank) (r : Nat) (v : Word) : (b.wa r v).due = b.due := by
  unfold Bank.wa; split <;> rfl
@[simp] theorem wa_svcPend (b : Bank) (r : Nat) (v : Word) : (b.wa r v).svcPend = b.svcPend := by
  unfold Bank.wa; split <;> rfl
@[simp] theorem wa_svcSeen (b : Bank) (r : Nat) (v : Word) : (b.wa r v).svcSeen = b.svcSeen := by
  unfold Bank.wa; split <;> rfl
@[simp] theorem wa_svcPast (b : Bank) (r : Nat) (v : Word) : (b.wa r v).svcPast = b.svcPast := by
  unfold Bank.wa; split <;> rfl
@[simp] theorem wa_shsel (b : Bank) (r : Nat) (v : Word) : (b.wa r v).shsel = b.shsel := by
  unfold Bank.wa; split <;> rfl
@[simp] theorem wa_svcRec (b : Bank) (r : Nat) (v : Word) : (b.wa r v).svcRec = b.svcRec := by
  unfold Bank.wa; split <;> rfl
@[simp] theorem wa_ctx (b : Bank) (r : Nat) (v : Word) : (b.wa r v).ctx = b.ctx := by
  unfold Bank.wa; split <;> rfl
@[simp] theorem wa_hdr (b : Bank) (r : Nat) (v : Word) : (b.wa r v).hdr = b.hdr := by
  unfold Bank.wa; split <;> rfl
@[simp] theorem wa_hdrw (b : Bank) (r : Nat) (v : Word) : (b.wa r v).hdrw = b.hdrw := by
  unfold Bank.wa; split <;> rfl
@[simp] theorem wa_staged (b : Bank) (r : Nat) (v : Word) : (b.wa r v).staged = b.staged := by
  unfold Bank.wa; split <;> rfl
@[simp] theorem wa_owner (b : Bank) (r : Nat) (v : Word) : (b.wa r v).owner = b.owner := by
  unfold Bank.wa; split <;> rfl

@[simp] theorem ws_st (b : Bank) (r : Nat) (v : Word) : (b.ws r v).st = b.st := by
  unfold Bank.ws; split <;> rfl
@[simp] theorem ws_a (b : Bank) (r : Nat) (v : Word) : (b.ws r v).a = b.a := by
  unfold Bank.ws; split <;> rfl
@[simp] theorem ws_m (b : Bank) (r : Nat) (v : Word) : (b.ws r v).m = b.m := by
  unfold Bank.ws; split <;> rfl
@[simp] theorem ws_v (b : Bank) (r : Nat) (v : Word) : (b.ws r v).v = b.v := by
  unfold Bank.ws; split <;> rfl
@[simp] theorem ws_k (b : Bank) (r : Nat) (v : Word) : (b.ws r v).k = b.k := by
  unfold Bank.ws; split <;> rfl
@[simp] theorem ws_pc (b : Bank) (r : Nat) (v : Word) : (b.ws r v).pc = b.pc := by
  unfold Bank.ws; split <;> rfl
@[simp] theorem ws_kx (b : Bank) (r : Nat) (v : Word) : (b.ws r v).kx = b.kx := by
  unfold Bank.ws; split <;> rfl
@[simp] theorem ws_issue (b : Bank) (r : Nat) (v : Word) : (b.ws r v).issue = b.issue := by
  unfold Bank.ws; split <;> rfl
@[simp] theorem ws_shadow (b : Bank) (r : Nat) (v : Word) : (b.ws r v).shadow = b.shadow := by
  unfold Bank.ws; split <;> rfl
@[simp] theorem ws_evq (b : Bank) (r : Nat) (v : Word) : (b.ws r v).evq = b.evq := by
  unfold Bank.ws; split <;> rfl
@[simp] theorem ws_slipwin (b : Bank) (r : Nat) (v : Word) : (b.ws r v).slipwin = b.slipwin := by
  unfold Bank.ws; split <;> rfl
@[simp] theorem ws_handlen (b : Bank) (r : Nat) (v : Word) : (b.ws r v).handlen = b.handlen := by
  unfold Bank.ws; split <;> rfl
@[simp] theorem ws_fault (b : Bank) (r : Nat) (v : Word) : (b.ws r v).fault = b.fault := by
  unfold Bank.ws; split <;> rfl
@[simp] theorem ws_trapActive (b : Bank) (r : Nat) (v : Word) : (b.ws r v).trapActive = b.trapActive := by
  unfold Bank.ws; split <;> rfl
@[simp] theorem ws_trapSkip (b : Bank) (r : Nat) (v : Word) : (b.ws r v).trapSkip = b.trapSkip := by
  unfold Bank.ws; split <;> rfl
@[simp] theorem ws_trapRec (b : Bank) (r : Nat) (v : Word) : (b.ws r v).trapRec = b.trapRec := by
  unfold Bank.ws; split <;> rfl
@[simp] theorem ws_skip (b : Bank) (r : Nat) (v : Word) : (b.ws r v).skip = b.skip := by
  unfold Bank.ws; split <;> rfl
@[simp] theorem ws_owed (b : Bank) (r : Nat) (v : Word) : (b.ws r v).owed = b.owed := by
  unfold Bank.ws; split <;> rfl
@[simp] theorem ws_rpc (b : Bank) (r : Nat) (v : Word) : (b.ws r v).rpc = b.rpc := by
  unfold Bank.ws; split <;> rfl
@[simp] theorem ws_xrm (b : Bank) (r : Nat) (v : Word) : (b.ws r v).xrm = b.xrm := by
  unfold Bank.ws; split <;> rfl
@[simp] theorem ws_xseed (b : Bank) (r : Nat) (v : Word) : (b.ws r v).xseed = b.xseed := by
  unfold Bank.ws; split <;> rfl
@[simp] theorem ws_xflags (b : Bank) (r : Nat) (v : Word) : (b.ws r v).xflags = b.xflags := by
  unfold Bank.ws; split <;> rfl
@[simp] theorem ws_chipGrant (b : Bank) (r : Nat) (v : Word) : (b.ws r v).chipGrant = b.chipGrant := by
  unfold Bank.ws; split <;> rfl
@[simp] theorem ws_privBase (b : Bank) (r : Nat) (v : Word) : (b.ws r v).privBase = b.privBase := by
  unfold Bank.ws; split <;> rfl
@[simp] theorem ws_privSize (b : Bank) (r : Nat) (v : Word) : (b.ws r v).privSize = b.privSize := by
  unfold Bank.ws; split <;> rfl
@[simp] theorem ws_xlat (b : Bank) (r : Nat) (v : Word) : (b.ws r v).xlat = b.xlat := by
  unfold Bank.ws; split <;> rfl
@[simp] theorem ws_clamp (b : Bank) (r : Nat) (v : Word) : (b.ws r v).clamp = b.clamp := by
  unfold Bank.ws; split <;> rfl
@[simp] theorem ws_tenant (b : Bank) (r : Nat) (v : Word) : (b.ws r v).tenant = b.tenant := by
  unfold Bank.ws; split <;> rfl
@[simp] theorem ws_priv (b : Bank) (r : Nat) (v : Word) : (b.ws r v).priv = b.priv := by
  unfold Bank.ws; split <;> rfl
@[simp] theorem ws_mat (b : Bank) (r : Nat) (v : Word) : (b.ws r v).mat = b.mat := by
  unfold Bank.ws; split <;> rfl
@[simp] theorem ws_tempo (b : Bank) (r : Nat) (v : Word) : (b.ws r v).tempo = b.tempo := by
  unfold Bank.ws; split <;> rfl
@[simp] theorem ws_round (b : Bank) (r : Nat) (v : Word) : (b.ws r v).round = b.round := by
  unfold Bank.ws; split <;> rfl
@[simp] theorem ws_walked (b : Bank) (r : Nat) (v : Word) : (b.ws r v).walked = b.walked := by
  unfold Bank.ws; split <;> rfl
@[simp] theorem ws_given (b : Bank) (r : Nat) (v : Word) : (b.ws r v).given = b.given := by
  unfold Bank.ws; split <;> rfl
@[simp] theorem ws_kern (b : Bank) (r : Nat) (v : Word) : (b.ws r v).kern = b.kern := by
  unfold Bank.ws; split <;> rfl
@[simp] theorem ws_launch (b : Bank) (r : Nat) (v : Word) : (b.ws r v).launch = b.launch := by
  unfold Bank.ws; split <;> rfl
@[simp] theorem ws_pe (b : Bank) (r : Nat) (v : Word) : (b.ws r v).pe = b.pe := by
  unfold Bank.ws; split <;> rfl
@[simp] theorem ws_exiting (b : Bank) (r : Nat) (v : Word) : (b.ws r v).exiting = b.exiting := by
  unfold Bank.ws; split <;> rfl
@[simp] theorem ws_stopping (b : Bank) (r : Nat) (v : Word) : (b.ws r v).stopping = b.stopping := by
  unfold Bank.ws; split <;> rfl
@[simp] theorem ws_inflight (b : Bank) (r : Nat) (v : Word) : (b.ws r v).inflight = b.inflight := by
  unfold Bank.ws; split <;> rfl
@[simp] theorem ws_wait (b : Bank) (r : Nat) (v : Word) : (b.ws r v).wait = b.wait := by
  unfold Bank.ws; split <;> rfl
@[simp] theorem ws_pend (b : Bank) (r : Nat) (v : Word) : (b.ws r v).pend = b.pend := by
  unfold Bank.ws; split <;> rfl
@[simp] theorem ws_due (b : Bank) (r : Nat) (v : Word) : (b.ws r v).due = b.due := by
  unfold Bank.ws; split <;> rfl
@[simp] theorem ws_svcPend (b : Bank) (r : Nat) (v : Word) : (b.ws r v).svcPend = b.svcPend := by
  unfold Bank.ws; split <;> rfl
@[simp] theorem ws_svcSeen (b : Bank) (r : Nat) (v : Word) : (b.ws r v).svcSeen = b.svcSeen := by
  unfold Bank.ws; split <;> rfl
@[simp] theorem ws_svcPast (b : Bank) (r : Nat) (v : Word) : (b.ws r v).svcPast = b.svcPast := by
  unfold Bank.ws; split <;> rfl
@[simp] theorem ws_shsel (b : Bank) (r : Nat) (v : Word) : (b.ws r v).shsel = b.shsel := by
  unfold Bank.ws; split <;> rfl
@[simp] theorem ws_svcRec (b : Bank) (r : Nat) (v : Word) : (b.ws r v).svcRec = b.svcRec := by
  unfold Bank.ws; split <;> rfl
@[simp] theorem ws_ctx (b : Bank) (r : Nat) (v : Word) : (b.ws r v).ctx = b.ctx := by
  unfold Bank.ws; split <;> rfl
@[simp] theorem ws_hdr (b : Bank) (r : Nat) (v : Word) : (b.ws r v).hdr = b.hdr := by
  unfold Bank.ws; split <;> rfl
@[simp] theorem ws_hdrw (b : Bank) (r : Nat) (v : Word) : (b.ws r v).hdrw = b.hdrw := by
  unfold Bank.ws; split <;> rfl
@[simp] theorem ws_staged (b : Bank) (r : Nat) (v : Word) : (b.ws r v).staged = b.staged := by
  unfold Bank.ws; split <;> rfl
@[simp] theorem ws_owner (b : Bank) (r : Nat) (v : Word) : (b.ws r v).owner = b.owner := by
  unfold Bank.ws; split <;> rfl

@[simp] theorem wm_st (b : Bank) (r : Nat) (v : Word) : (b.wm r v).st = b.st := by
  unfold Bank.wm; split <;> rfl
@[simp] theorem wm_a (b : Bank) (r : Nat) (v : Word) : (b.wm r v).a = b.a := by
  unfold Bank.wm; split <;> rfl
@[simp] theorem wm_s (b : Bank) (r : Nat) (v : Word) : (b.wm r v).s = b.s := by
  unfold Bank.wm; split <;> rfl
@[simp] theorem wm_v (b : Bank) (r : Nat) (v : Word) : (b.wm r v).v = b.v := by
  unfold Bank.wm; split <;> rfl
@[simp] theorem wm_k (b : Bank) (r : Nat) (v : Word) : (b.wm r v).k = b.k := by
  unfold Bank.wm; split <;> rfl
@[simp] theorem wm_pc (b : Bank) (r : Nat) (v : Word) : (b.wm r v).pc = b.pc := by
  unfold Bank.wm; split <;> rfl
@[simp] theorem wm_kx (b : Bank) (r : Nat) (v : Word) : (b.wm r v).kx = b.kx := by
  unfold Bank.wm; split <;> rfl
@[simp] theorem wm_issue (b : Bank) (r : Nat) (v : Word) : (b.wm r v).issue = b.issue := by
  unfold Bank.wm; split <;> rfl
@[simp] theorem wm_shadow (b : Bank) (r : Nat) (v : Word) : (b.wm r v).shadow = b.shadow := by
  unfold Bank.wm; split <;> rfl
@[simp] theorem wm_evq (b : Bank) (r : Nat) (v : Word) : (b.wm r v).evq = b.evq := by
  unfold Bank.wm; split <;> rfl
@[simp] theorem wm_slipwin (b : Bank) (r : Nat) (v : Word) : (b.wm r v).slipwin = b.slipwin := by
  unfold Bank.wm; split <;> rfl
@[simp] theorem wm_handlen (b : Bank) (r : Nat) (v : Word) : (b.wm r v).handlen = b.handlen := by
  unfold Bank.wm; split <;> rfl
@[simp] theorem wm_fault (b : Bank) (r : Nat) (v : Word) : (b.wm r v).fault = b.fault := by
  unfold Bank.wm; split <;> rfl
@[simp] theorem wm_trapActive (b : Bank) (r : Nat) (v : Word) : (b.wm r v).trapActive = b.trapActive := by
  unfold Bank.wm; split <;> rfl
@[simp] theorem wm_trapSkip (b : Bank) (r : Nat) (v : Word) : (b.wm r v).trapSkip = b.trapSkip := by
  unfold Bank.wm; split <;> rfl
@[simp] theorem wm_trapRec (b : Bank) (r : Nat) (v : Word) : (b.wm r v).trapRec = b.trapRec := by
  unfold Bank.wm; split <;> rfl
@[simp] theorem wm_skip (b : Bank) (r : Nat) (v : Word) : (b.wm r v).skip = b.skip := by
  unfold Bank.wm; split <;> rfl
@[simp] theorem wm_owed (b : Bank) (r : Nat) (v : Word) : (b.wm r v).owed = b.owed := by
  unfold Bank.wm; split <;> rfl
@[simp] theorem wm_rpc (b : Bank) (r : Nat) (v : Word) : (b.wm r v).rpc = b.rpc := by
  unfold Bank.wm; split <;> rfl
@[simp] theorem wm_xrm (b : Bank) (r : Nat) (v : Word) : (b.wm r v).xrm = b.xrm := by
  unfold Bank.wm; split <;> rfl
@[simp] theorem wm_xseed (b : Bank) (r : Nat) (v : Word) : (b.wm r v).xseed = b.xseed := by
  unfold Bank.wm; split <;> rfl
@[simp] theorem wm_xflags (b : Bank) (r : Nat) (v : Word) : (b.wm r v).xflags = b.xflags := by
  unfold Bank.wm; split <;> rfl
@[simp] theorem wm_chipGrant (b : Bank) (r : Nat) (v : Word) : (b.wm r v).chipGrant = b.chipGrant := by
  unfold Bank.wm; split <;> rfl
@[simp] theorem wm_privBase (b : Bank) (r : Nat) (v : Word) : (b.wm r v).privBase = b.privBase := by
  unfold Bank.wm; split <;> rfl
@[simp] theorem wm_privSize (b : Bank) (r : Nat) (v : Word) : (b.wm r v).privSize = b.privSize := by
  unfold Bank.wm; split <;> rfl
@[simp] theorem wm_xlat (b : Bank) (r : Nat) (v : Word) : (b.wm r v).xlat = b.xlat := by
  unfold Bank.wm; split <;> rfl
@[simp] theorem wm_clamp (b : Bank) (r : Nat) (v : Word) : (b.wm r v).clamp = b.clamp := by
  unfold Bank.wm; split <;> rfl
@[simp] theorem wm_tenant (b : Bank) (r : Nat) (v : Word) : (b.wm r v).tenant = b.tenant := by
  unfold Bank.wm; split <;> rfl
@[simp] theorem wm_priv (b : Bank) (r : Nat) (v : Word) : (b.wm r v).priv = b.priv := by
  unfold Bank.wm; split <;> rfl
@[simp] theorem wm_mat (b : Bank) (r : Nat) (v : Word) : (b.wm r v).mat = b.mat := by
  unfold Bank.wm; split <;> rfl
@[simp] theorem wm_tempo (b : Bank) (r : Nat) (v : Word) : (b.wm r v).tempo = b.tempo := by
  unfold Bank.wm; split <;> rfl
@[simp] theorem wm_round (b : Bank) (r : Nat) (v : Word) : (b.wm r v).round = b.round := by
  unfold Bank.wm; split <;> rfl
@[simp] theorem wm_walked (b : Bank) (r : Nat) (v : Word) : (b.wm r v).walked = b.walked := by
  unfold Bank.wm; split <;> rfl
@[simp] theorem wm_given (b : Bank) (r : Nat) (v : Word) : (b.wm r v).given = b.given := by
  unfold Bank.wm; split <;> rfl
@[simp] theorem wm_kern (b : Bank) (r : Nat) (v : Word) : (b.wm r v).kern = b.kern := by
  unfold Bank.wm; split <;> rfl
@[simp] theorem wm_launch (b : Bank) (r : Nat) (v : Word) : (b.wm r v).launch = b.launch := by
  unfold Bank.wm; split <;> rfl
@[simp] theorem wm_pe (b : Bank) (r : Nat) (v : Word) : (b.wm r v).pe = b.pe := by
  unfold Bank.wm; split <;> rfl
@[simp] theorem wm_exiting (b : Bank) (r : Nat) (v : Word) : (b.wm r v).exiting = b.exiting := by
  unfold Bank.wm; split <;> rfl
@[simp] theorem wm_stopping (b : Bank) (r : Nat) (v : Word) : (b.wm r v).stopping = b.stopping := by
  unfold Bank.wm; split <;> rfl
@[simp] theorem wm_inflight (b : Bank) (r : Nat) (v : Word) : (b.wm r v).inflight = b.inflight := by
  unfold Bank.wm; split <;> rfl
@[simp] theorem wm_wait (b : Bank) (r : Nat) (v : Word) : (b.wm r v).wait = b.wait := by
  unfold Bank.wm; split <;> rfl
@[simp] theorem wm_pend (b : Bank) (r : Nat) (v : Word) : (b.wm r v).pend = b.pend := by
  unfold Bank.wm; split <;> rfl
@[simp] theorem wm_due (b : Bank) (r : Nat) (v : Word) : (b.wm r v).due = b.due := by
  unfold Bank.wm; split <;> rfl
@[simp] theorem wm_svcPend (b : Bank) (r : Nat) (v : Word) : (b.wm r v).svcPend = b.svcPend := by
  unfold Bank.wm; split <;> rfl
@[simp] theorem wm_svcSeen (b : Bank) (r : Nat) (v : Word) : (b.wm r v).svcSeen = b.svcSeen := by
  unfold Bank.wm; split <;> rfl
@[simp] theorem wm_svcPast (b : Bank) (r : Nat) (v : Word) : (b.wm r v).svcPast = b.svcPast := by
  unfold Bank.wm; split <;> rfl
@[simp] theorem wm_shsel (b : Bank) (r : Nat) (v : Word) : (b.wm r v).shsel = b.shsel := by
  unfold Bank.wm; split <;> rfl
@[simp] theorem wm_svcRec (b : Bank) (r : Nat) (v : Word) : (b.wm r v).svcRec = b.svcRec := by
  unfold Bank.wm; split <;> rfl
@[simp] theorem wm_ctx (b : Bank) (r : Nat) (v : Word) : (b.wm r v).ctx = b.ctx := by
  unfold Bank.wm; split <;> rfl
@[simp] theorem wm_hdr (b : Bank) (r : Nat) (v : Word) : (b.wm r v).hdr = b.hdr := by
  unfold Bank.wm; split <;> rfl
@[simp] theorem wm_hdrw (b : Bank) (r : Nat) (v : Word) : (b.wm r v).hdrw = b.hdrw := by
  unfold Bank.wm; split <;> rfl
@[simp] theorem wm_staged (b : Bank) (r : Nat) (v : Word) : (b.wm r v).staged = b.staged := by
  unfold Bank.wm; split <;> rfl
@[simp] theorem wm_owner (b : Bank) (r : Nat) (v : Word) : (b.wm r v).owner = b.owner := by
  unfold Bank.wm; split <;> rfl

/-! ### Tokens touch the issue state only -/

theorem popToks_eq (b : Bank) (e : Engine) (t : BitVec 4) : ∃ x, b.popToks e t = { b with issue := x } := by
  unfold Bank.popToks
  generalize tokPops e t = l
  induction l generalizing b with
  | nil => exact ⟨b.issue, rfl⟩
  | cons k l ih =>
    obtain ⟨x, hx⟩ := ih (b.setTok k (b.tok k - 1))
    exact ⟨x, hx⟩

theorem pushToks_eq (b : Bank) (e : Engine) (t : BitVec 4) : ∃ x, b.pushToks e t = { b with issue := x } := by
  unfold Bank.pushToks
  generalize tokPushes e t = l
  induction l generalizing b with
  | nil => exact ⟨b.issue, rfl⟩
  | cons k l ih =>
    obtain ⟨x, hx⟩ := ih (b.setTok k (b.tok k + 1))
    exact ⟨x, hx⟩

@[simp] theorem popToks_st (b : Bank) (e : Engine) (t : BitVec 4) : (b.popToks e t).st = b.st := by
  obtain ⟨x, hx⟩ := popToks_eq b e t; rw [hx]
@[simp] theorem popToks_a (b : Bank) (e : Engine) (t : BitVec 4) : (b.popToks e t).a = b.a := by
  obtain ⟨x, hx⟩ := popToks_eq b e t; rw [hx]
@[simp] theorem popToks_s (b : Bank) (e : Engine) (t : BitVec 4) : (b.popToks e t).s = b.s := by
  obtain ⟨x, hx⟩ := popToks_eq b e t; rw [hx]
@[simp] theorem popToks_m (b : Bank) (e : Engine) (t : BitVec 4) : (b.popToks e t).m = b.m := by
  obtain ⟨x, hx⟩ := popToks_eq b e t; rw [hx]
@[simp] theorem popToks_v (b : Bank) (e : Engine) (t : BitVec 4) : (b.popToks e t).v = b.v := by
  obtain ⟨x, hx⟩ := popToks_eq b e t; rw [hx]
@[simp] theorem popToks_k (b : Bank) (e : Engine) (t : BitVec 4) : (b.popToks e t).k = b.k := by
  obtain ⟨x, hx⟩ := popToks_eq b e t; rw [hx]
@[simp] theorem popToks_pc (b : Bank) (e : Engine) (t : BitVec 4) : (b.popToks e t).pc = b.pc := by
  obtain ⟨x, hx⟩ := popToks_eq b e t; rw [hx]
@[simp] theorem popToks_kx (b : Bank) (e : Engine) (t : BitVec 4) : (b.popToks e t).kx = b.kx := by
  obtain ⟨x, hx⟩ := popToks_eq b e t; rw [hx]
@[simp] theorem popToks_shadow (b : Bank) (e : Engine) (t : BitVec 4) : (b.popToks e t).shadow = b.shadow := by
  obtain ⟨x, hx⟩ := popToks_eq b e t; rw [hx]
@[simp] theorem popToks_evq (b : Bank) (e : Engine) (t : BitVec 4) : (b.popToks e t).evq = b.evq := by
  obtain ⟨x, hx⟩ := popToks_eq b e t; rw [hx]
@[simp] theorem popToks_slipwin (b : Bank) (e : Engine) (t : BitVec 4) : (b.popToks e t).slipwin = b.slipwin := by
  obtain ⟨x, hx⟩ := popToks_eq b e t; rw [hx]
@[simp] theorem popToks_handlen (b : Bank) (e : Engine) (t : BitVec 4) : (b.popToks e t).handlen = b.handlen := by
  obtain ⟨x, hx⟩ := popToks_eq b e t; rw [hx]
@[simp] theorem popToks_fault (b : Bank) (e : Engine) (t : BitVec 4) : (b.popToks e t).fault = b.fault := by
  obtain ⟨x, hx⟩ := popToks_eq b e t; rw [hx]
@[simp] theorem popToks_trapActive (b : Bank) (e : Engine) (t : BitVec 4) : (b.popToks e t).trapActive = b.trapActive := by
  obtain ⟨x, hx⟩ := popToks_eq b e t; rw [hx]
@[simp] theorem popToks_trapSkip (b : Bank) (e : Engine) (t : BitVec 4) : (b.popToks e t).trapSkip = b.trapSkip := by
  obtain ⟨x, hx⟩ := popToks_eq b e t; rw [hx]
@[simp] theorem popToks_trapRec (b : Bank) (e : Engine) (t : BitVec 4) : (b.popToks e t).trapRec = b.trapRec := by
  obtain ⟨x, hx⟩ := popToks_eq b e t; rw [hx]
@[simp] theorem popToks_skip (b : Bank) (e : Engine) (t : BitVec 4) : (b.popToks e t).skip = b.skip := by
  obtain ⟨x, hx⟩ := popToks_eq b e t; rw [hx]
@[simp] theorem popToks_owed (b : Bank) (e : Engine) (t : BitVec 4) : (b.popToks e t).owed = b.owed := by
  obtain ⟨x, hx⟩ := popToks_eq b e t; rw [hx]
@[simp] theorem popToks_rpc (b : Bank) (e : Engine) (t : BitVec 4) : (b.popToks e t).rpc = b.rpc := by
  obtain ⟨x, hx⟩ := popToks_eq b e t; rw [hx]
@[simp] theorem popToks_xrm (b : Bank) (e : Engine) (t : BitVec 4) : (b.popToks e t).xrm = b.xrm := by
  obtain ⟨x, hx⟩ := popToks_eq b e t; rw [hx]
@[simp] theorem popToks_xseed (b : Bank) (e : Engine) (t : BitVec 4) : (b.popToks e t).xseed = b.xseed := by
  obtain ⟨x, hx⟩ := popToks_eq b e t; rw [hx]
@[simp] theorem popToks_xflags (b : Bank) (e : Engine) (t : BitVec 4) : (b.popToks e t).xflags = b.xflags := by
  obtain ⟨x, hx⟩ := popToks_eq b e t; rw [hx]
@[simp] theorem popToks_chipGrant (b : Bank) (e : Engine) (t : BitVec 4) : (b.popToks e t).chipGrant = b.chipGrant := by
  obtain ⟨x, hx⟩ := popToks_eq b e t; rw [hx]
@[simp] theorem popToks_privBase (b : Bank) (e : Engine) (t : BitVec 4) : (b.popToks e t).privBase = b.privBase := by
  obtain ⟨x, hx⟩ := popToks_eq b e t; rw [hx]
@[simp] theorem popToks_privSize (b : Bank) (e : Engine) (t : BitVec 4) : (b.popToks e t).privSize = b.privSize := by
  obtain ⟨x, hx⟩ := popToks_eq b e t; rw [hx]
@[simp] theorem popToks_xlat (b : Bank) (e : Engine) (t : BitVec 4) : (b.popToks e t).xlat = b.xlat := by
  obtain ⟨x, hx⟩ := popToks_eq b e t; rw [hx]
@[simp] theorem popToks_clamp (b : Bank) (e : Engine) (t : BitVec 4) : (b.popToks e t).clamp = b.clamp := by
  obtain ⟨x, hx⟩ := popToks_eq b e t; rw [hx]
@[simp] theorem popToks_tenant (b : Bank) (e : Engine) (t : BitVec 4) : (b.popToks e t).tenant = b.tenant := by
  obtain ⟨x, hx⟩ := popToks_eq b e t; rw [hx]
@[simp] theorem popToks_priv (b : Bank) (e : Engine) (t : BitVec 4) : (b.popToks e t).priv = b.priv := by
  obtain ⟨x, hx⟩ := popToks_eq b e t; rw [hx]
@[simp] theorem popToks_mat (b : Bank) (e : Engine) (t : BitVec 4) : (b.popToks e t).mat = b.mat := by
  obtain ⟨x, hx⟩ := popToks_eq b e t; rw [hx]
@[simp] theorem popToks_tempo (b : Bank) (e : Engine) (t : BitVec 4) : (b.popToks e t).tempo = b.tempo := by
  obtain ⟨x, hx⟩ := popToks_eq b e t; rw [hx]
@[simp] theorem popToks_round (b : Bank) (e : Engine) (t : BitVec 4) : (b.popToks e t).round = b.round := by
  obtain ⟨x, hx⟩ := popToks_eq b e t; rw [hx]
@[simp] theorem popToks_walked (b : Bank) (e : Engine) (t : BitVec 4) : (b.popToks e t).walked = b.walked := by
  obtain ⟨x, hx⟩ := popToks_eq b e t; rw [hx]
@[simp] theorem popToks_given (b : Bank) (e : Engine) (t : BitVec 4) : (b.popToks e t).given = b.given := by
  obtain ⟨x, hx⟩ := popToks_eq b e t; rw [hx]
@[simp] theorem popToks_kern (b : Bank) (e : Engine) (t : BitVec 4) : (b.popToks e t).kern = b.kern := by
  obtain ⟨x, hx⟩ := popToks_eq b e t; rw [hx]
@[simp] theorem popToks_launch (b : Bank) (e : Engine) (t : BitVec 4) : (b.popToks e t).launch = b.launch := by
  obtain ⟨x, hx⟩ := popToks_eq b e t; rw [hx]
@[simp] theorem popToks_pe (b : Bank) (e : Engine) (t : BitVec 4) : (b.popToks e t).pe = b.pe := by
  obtain ⟨x, hx⟩ := popToks_eq b e t; rw [hx]
@[simp] theorem popToks_exiting (b : Bank) (e : Engine) (t : BitVec 4) : (b.popToks e t).exiting = b.exiting := by
  obtain ⟨x, hx⟩ := popToks_eq b e t; rw [hx]
@[simp] theorem popToks_stopping (b : Bank) (e : Engine) (t : BitVec 4) : (b.popToks e t).stopping = b.stopping := by
  obtain ⟨x, hx⟩ := popToks_eq b e t; rw [hx]
@[simp] theorem popToks_inflight (b : Bank) (e : Engine) (t : BitVec 4) : (b.popToks e t).inflight = b.inflight := by
  obtain ⟨x, hx⟩ := popToks_eq b e t; rw [hx]
@[simp] theorem popToks_wait (b : Bank) (e : Engine) (t : BitVec 4) : (b.popToks e t).wait = b.wait := by
  obtain ⟨x, hx⟩ := popToks_eq b e t; rw [hx]
@[simp] theorem popToks_pend (b : Bank) (e : Engine) (t : BitVec 4) : (b.popToks e t).pend = b.pend := by
  obtain ⟨x, hx⟩ := popToks_eq b e t; rw [hx]
@[simp] theorem popToks_due (b : Bank) (e : Engine) (t : BitVec 4) : (b.popToks e t).due = b.due := by
  obtain ⟨x, hx⟩ := popToks_eq b e t; rw [hx]
@[simp] theorem popToks_svcPend (b : Bank) (e : Engine) (t : BitVec 4) : (b.popToks e t).svcPend = b.svcPend := by
  obtain ⟨x, hx⟩ := popToks_eq b e t; rw [hx]
@[simp] theorem popToks_svcSeen (b : Bank) (e : Engine) (t : BitVec 4) : (b.popToks e t).svcSeen = b.svcSeen := by
  obtain ⟨x, hx⟩ := popToks_eq b e t; rw [hx]
@[simp] theorem popToks_svcPast (b : Bank) (e : Engine) (t : BitVec 4) : (b.popToks e t).svcPast = b.svcPast := by
  obtain ⟨x, hx⟩ := popToks_eq b e t; rw [hx]
@[simp] theorem popToks_shsel (b : Bank) (e : Engine) (t : BitVec 4) : (b.popToks e t).shsel = b.shsel := by
  obtain ⟨x, hx⟩ := popToks_eq b e t; rw [hx]
@[simp] theorem popToks_svcRec (b : Bank) (e : Engine) (t : BitVec 4) : (b.popToks e t).svcRec = b.svcRec := by
  obtain ⟨x, hx⟩ := popToks_eq b e t; rw [hx]
@[simp] theorem popToks_ctx (b : Bank) (e : Engine) (t : BitVec 4) : (b.popToks e t).ctx = b.ctx := by
  obtain ⟨x, hx⟩ := popToks_eq b e t; rw [hx]
@[simp] theorem popToks_hdr (b : Bank) (e : Engine) (t : BitVec 4) : (b.popToks e t).hdr = b.hdr := by
  obtain ⟨x, hx⟩ := popToks_eq b e t; rw [hx]
@[simp] theorem popToks_hdrw (b : Bank) (e : Engine) (t : BitVec 4) : (b.popToks e t).hdrw = b.hdrw := by
  obtain ⟨x, hx⟩ := popToks_eq b e t; rw [hx]
@[simp] theorem popToks_staged (b : Bank) (e : Engine) (t : BitVec 4) : (b.popToks e t).staged = b.staged := by
  obtain ⟨x, hx⟩ := popToks_eq b e t; rw [hx]
@[simp] theorem popToks_owner (b : Bank) (e : Engine) (t : BitVec 4) : (b.popToks e t).owner = b.owner := by
  obtain ⟨x, hx⟩ := popToks_eq b e t; rw [hx]

@[simp] theorem pushToks_st (b : Bank) (e : Engine) (t : BitVec 4) : (b.pushToks e t).st = b.st := by
  obtain ⟨x, hx⟩ := pushToks_eq b e t; rw [hx]
@[simp] theorem pushToks_a (b : Bank) (e : Engine) (t : BitVec 4) : (b.pushToks e t).a = b.a := by
  obtain ⟨x, hx⟩ := pushToks_eq b e t; rw [hx]
@[simp] theorem pushToks_s (b : Bank) (e : Engine) (t : BitVec 4) : (b.pushToks e t).s = b.s := by
  obtain ⟨x, hx⟩ := pushToks_eq b e t; rw [hx]
@[simp] theorem pushToks_m (b : Bank) (e : Engine) (t : BitVec 4) : (b.pushToks e t).m = b.m := by
  obtain ⟨x, hx⟩ := pushToks_eq b e t; rw [hx]
@[simp] theorem pushToks_v (b : Bank) (e : Engine) (t : BitVec 4) : (b.pushToks e t).v = b.v := by
  obtain ⟨x, hx⟩ := pushToks_eq b e t; rw [hx]
@[simp] theorem pushToks_k (b : Bank) (e : Engine) (t : BitVec 4) : (b.pushToks e t).k = b.k := by
  obtain ⟨x, hx⟩ := pushToks_eq b e t; rw [hx]
@[simp] theorem pushToks_pc (b : Bank) (e : Engine) (t : BitVec 4) : (b.pushToks e t).pc = b.pc := by
  obtain ⟨x, hx⟩ := pushToks_eq b e t; rw [hx]
@[simp] theorem pushToks_kx (b : Bank) (e : Engine) (t : BitVec 4) : (b.pushToks e t).kx = b.kx := by
  obtain ⟨x, hx⟩ := pushToks_eq b e t; rw [hx]
@[simp] theorem pushToks_shadow (b : Bank) (e : Engine) (t : BitVec 4) : (b.pushToks e t).shadow = b.shadow := by
  obtain ⟨x, hx⟩ := pushToks_eq b e t; rw [hx]
@[simp] theorem pushToks_evq (b : Bank) (e : Engine) (t : BitVec 4) : (b.pushToks e t).evq = b.evq := by
  obtain ⟨x, hx⟩ := pushToks_eq b e t; rw [hx]
@[simp] theorem pushToks_slipwin (b : Bank) (e : Engine) (t : BitVec 4) : (b.pushToks e t).slipwin = b.slipwin := by
  obtain ⟨x, hx⟩ := pushToks_eq b e t; rw [hx]
@[simp] theorem pushToks_handlen (b : Bank) (e : Engine) (t : BitVec 4) : (b.pushToks e t).handlen = b.handlen := by
  obtain ⟨x, hx⟩ := pushToks_eq b e t; rw [hx]
@[simp] theorem pushToks_fault (b : Bank) (e : Engine) (t : BitVec 4) : (b.pushToks e t).fault = b.fault := by
  obtain ⟨x, hx⟩ := pushToks_eq b e t; rw [hx]
@[simp] theorem pushToks_trapActive (b : Bank) (e : Engine) (t : BitVec 4) : (b.pushToks e t).trapActive = b.trapActive := by
  obtain ⟨x, hx⟩ := pushToks_eq b e t; rw [hx]
@[simp] theorem pushToks_trapSkip (b : Bank) (e : Engine) (t : BitVec 4) : (b.pushToks e t).trapSkip = b.trapSkip := by
  obtain ⟨x, hx⟩ := pushToks_eq b e t; rw [hx]
@[simp] theorem pushToks_trapRec (b : Bank) (e : Engine) (t : BitVec 4) : (b.pushToks e t).trapRec = b.trapRec := by
  obtain ⟨x, hx⟩ := pushToks_eq b e t; rw [hx]
@[simp] theorem pushToks_skip (b : Bank) (e : Engine) (t : BitVec 4) : (b.pushToks e t).skip = b.skip := by
  obtain ⟨x, hx⟩ := pushToks_eq b e t; rw [hx]
@[simp] theorem pushToks_owed (b : Bank) (e : Engine) (t : BitVec 4) : (b.pushToks e t).owed = b.owed := by
  obtain ⟨x, hx⟩ := pushToks_eq b e t; rw [hx]
@[simp] theorem pushToks_rpc (b : Bank) (e : Engine) (t : BitVec 4) : (b.pushToks e t).rpc = b.rpc := by
  obtain ⟨x, hx⟩ := pushToks_eq b e t; rw [hx]
@[simp] theorem pushToks_xrm (b : Bank) (e : Engine) (t : BitVec 4) : (b.pushToks e t).xrm = b.xrm := by
  obtain ⟨x, hx⟩ := pushToks_eq b e t; rw [hx]
@[simp] theorem pushToks_xseed (b : Bank) (e : Engine) (t : BitVec 4) : (b.pushToks e t).xseed = b.xseed := by
  obtain ⟨x, hx⟩ := pushToks_eq b e t; rw [hx]
@[simp] theorem pushToks_xflags (b : Bank) (e : Engine) (t : BitVec 4) : (b.pushToks e t).xflags = b.xflags := by
  obtain ⟨x, hx⟩ := pushToks_eq b e t; rw [hx]
@[simp] theorem pushToks_chipGrant (b : Bank) (e : Engine) (t : BitVec 4) : (b.pushToks e t).chipGrant = b.chipGrant := by
  obtain ⟨x, hx⟩ := pushToks_eq b e t; rw [hx]
@[simp] theorem pushToks_privBase (b : Bank) (e : Engine) (t : BitVec 4) : (b.pushToks e t).privBase = b.privBase := by
  obtain ⟨x, hx⟩ := pushToks_eq b e t; rw [hx]
@[simp] theorem pushToks_privSize (b : Bank) (e : Engine) (t : BitVec 4) : (b.pushToks e t).privSize = b.privSize := by
  obtain ⟨x, hx⟩ := pushToks_eq b e t; rw [hx]
@[simp] theorem pushToks_xlat (b : Bank) (e : Engine) (t : BitVec 4) : (b.pushToks e t).xlat = b.xlat := by
  obtain ⟨x, hx⟩ := pushToks_eq b e t; rw [hx]
@[simp] theorem pushToks_clamp (b : Bank) (e : Engine) (t : BitVec 4) : (b.pushToks e t).clamp = b.clamp := by
  obtain ⟨x, hx⟩ := pushToks_eq b e t; rw [hx]
@[simp] theorem pushToks_tenant (b : Bank) (e : Engine) (t : BitVec 4) : (b.pushToks e t).tenant = b.tenant := by
  obtain ⟨x, hx⟩ := pushToks_eq b e t; rw [hx]
@[simp] theorem pushToks_priv (b : Bank) (e : Engine) (t : BitVec 4) : (b.pushToks e t).priv = b.priv := by
  obtain ⟨x, hx⟩ := pushToks_eq b e t; rw [hx]
@[simp] theorem pushToks_mat (b : Bank) (e : Engine) (t : BitVec 4) : (b.pushToks e t).mat = b.mat := by
  obtain ⟨x, hx⟩ := pushToks_eq b e t; rw [hx]
@[simp] theorem pushToks_tempo (b : Bank) (e : Engine) (t : BitVec 4) : (b.pushToks e t).tempo = b.tempo := by
  obtain ⟨x, hx⟩ := pushToks_eq b e t; rw [hx]
@[simp] theorem pushToks_round (b : Bank) (e : Engine) (t : BitVec 4) : (b.pushToks e t).round = b.round := by
  obtain ⟨x, hx⟩ := pushToks_eq b e t; rw [hx]
@[simp] theorem pushToks_walked (b : Bank) (e : Engine) (t : BitVec 4) : (b.pushToks e t).walked = b.walked := by
  obtain ⟨x, hx⟩ := pushToks_eq b e t; rw [hx]
@[simp] theorem pushToks_given (b : Bank) (e : Engine) (t : BitVec 4) : (b.pushToks e t).given = b.given := by
  obtain ⟨x, hx⟩ := pushToks_eq b e t; rw [hx]
@[simp] theorem pushToks_kern (b : Bank) (e : Engine) (t : BitVec 4) : (b.pushToks e t).kern = b.kern := by
  obtain ⟨x, hx⟩ := pushToks_eq b e t; rw [hx]
@[simp] theorem pushToks_launch (b : Bank) (e : Engine) (t : BitVec 4) : (b.pushToks e t).launch = b.launch := by
  obtain ⟨x, hx⟩ := pushToks_eq b e t; rw [hx]
@[simp] theorem pushToks_pe (b : Bank) (e : Engine) (t : BitVec 4) : (b.pushToks e t).pe = b.pe := by
  obtain ⟨x, hx⟩ := pushToks_eq b e t; rw [hx]
@[simp] theorem pushToks_exiting (b : Bank) (e : Engine) (t : BitVec 4) : (b.pushToks e t).exiting = b.exiting := by
  obtain ⟨x, hx⟩ := pushToks_eq b e t; rw [hx]
@[simp] theorem pushToks_stopping (b : Bank) (e : Engine) (t : BitVec 4) : (b.pushToks e t).stopping = b.stopping := by
  obtain ⟨x, hx⟩ := pushToks_eq b e t; rw [hx]
@[simp] theorem pushToks_inflight (b : Bank) (e : Engine) (t : BitVec 4) : (b.pushToks e t).inflight = b.inflight := by
  obtain ⟨x, hx⟩ := pushToks_eq b e t; rw [hx]
@[simp] theorem pushToks_wait (b : Bank) (e : Engine) (t : BitVec 4) : (b.pushToks e t).wait = b.wait := by
  obtain ⟨x, hx⟩ := pushToks_eq b e t; rw [hx]
@[simp] theorem pushToks_pend (b : Bank) (e : Engine) (t : BitVec 4) : (b.pushToks e t).pend = b.pend := by
  obtain ⟨x, hx⟩ := pushToks_eq b e t; rw [hx]
@[simp] theorem pushToks_due (b : Bank) (e : Engine) (t : BitVec 4) : (b.pushToks e t).due = b.due := by
  obtain ⟨x, hx⟩ := pushToks_eq b e t; rw [hx]
@[simp] theorem pushToks_svcPend (b : Bank) (e : Engine) (t : BitVec 4) : (b.pushToks e t).svcPend = b.svcPend := by
  obtain ⟨x, hx⟩ := pushToks_eq b e t; rw [hx]
@[simp] theorem pushToks_svcSeen (b : Bank) (e : Engine) (t : BitVec 4) : (b.pushToks e t).svcSeen = b.svcSeen := by
  obtain ⟨x, hx⟩ := pushToks_eq b e t; rw [hx]
@[simp] theorem pushToks_svcPast (b : Bank) (e : Engine) (t : BitVec 4) : (b.pushToks e t).svcPast = b.svcPast := by
  obtain ⟨x, hx⟩ := pushToks_eq b e t; rw [hx]
@[simp] theorem pushToks_shsel (b : Bank) (e : Engine) (t : BitVec 4) : (b.pushToks e t).shsel = b.shsel := by
  obtain ⟨x, hx⟩ := pushToks_eq b e t; rw [hx]
@[simp] theorem pushToks_svcRec (b : Bank) (e : Engine) (t : BitVec 4) : (b.pushToks e t).svcRec = b.svcRec := by
  obtain ⟨x, hx⟩ := pushToks_eq b e t; rw [hx]
@[simp] theorem pushToks_ctx (b : Bank) (e : Engine) (t : BitVec 4) : (b.pushToks e t).ctx = b.ctx := by
  obtain ⟨x, hx⟩ := pushToks_eq b e t; rw [hx]
@[simp] theorem pushToks_hdr (b : Bank) (e : Engine) (t : BitVec 4) : (b.pushToks e t).hdr = b.hdr := by
  obtain ⟨x, hx⟩ := pushToks_eq b e t; rw [hx]
@[simp] theorem pushToks_hdrw (b : Bank) (e : Engine) (t : BitVec 4) : (b.pushToks e t).hdrw = b.hdrw := by
  obtain ⟨x, hx⟩ := pushToks_eq b e t; rw [hx]
@[simp] theorem pushToks_staged (b : Bank) (e : Engine) (t : BitVec 4) : (b.pushToks e t).staged = b.staged := by
  obtain ⟨x, hx⟩ := pushToks_eq b e t; rw [hx]
@[simp] theorem pushToks_owner (b : Bank) (e : Engine) (t : BitVec 4) : (b.pushToks e t).owner = b.owner := by
  obtain ⟨x, hx⟩ := pushToks_eq b e t; rw [hx]

/-! ### Reading a part after writing it -/

/-- A core just written, unless it is the core of a map that is not canonical. -/
theorem getCore_setCore_same {s : State} {c : Nat} {k : Core} (h : swf s.cores 0 Core.zero = true) :
    getCore (setCore s c k) c = k := sget_sset_same c k h

theorem getCore_setCore_other (s : State) {c i : Nat} (k : Core) (h : i ≠ c) :
    getCore (setCore s c k) i = getCore s i := sget_sset_other _ _ _ h

theorem setCore_canonical {s : State} {c : Nat} {k : Core} (h : swf s.cores 0 Core.zero = true) :
    swf (setCore s c k).cores 0 Core.zero = true := swf_sset_zero h

@[simp] theorem bank_setBank_same (k : Core) (b : Bool) (v : Bank) : (k.setBank b v).bank b = v := by
  cases b <;> rfl

@[simp] theorem bank_setBank_other (k : Core) (b : Bool) (v : Bank) : (k.setBank b v).bank (!b) = k.bank (!b) := by
  cases b <;> rfl

@[simp] theorem setBank_active (k : Core) (b : Bool) (v : Bank) : (k.setBank b v).active = k.active := by
  cases b <;> rfl

theorem getBank_setBank_same {s : State} {c : Nat} {b : Bool} {v : Bank} (h : swf s.cores 0 Core.zero = true) :
    getBank (setBank s c b v) c b = v := by
  unfold getBank setBank
  rw [getCore_setCore_same h, bank_setBank_same]

theorem getBank_setBank_other (s : State) {c i : Nat} (b x : Bool) (v : Bank) (h : i ≠ c) :
    getBank (setBank s c b v) i x = getBank s i x := by
  unfold getBank setBank
  rw [getCore_setCore_other s _ h]

/-- The running bank of the core just written is the bank written. -/
theorem curBank_modCur {s : State} {c : Nat} {f : Bank → Bank} (h : swf s.cores 0 Core.zero = true) :
    curBank (modCur s c f) c = f (curBank s c) := by
  unfold curBank modCur modBank setBank getBank
  rw [getCore_setCore_same h, setBank_active, bank_setBank_same]

/-- A register just written, a0 excepted. -/
theorem ra_wa (b : Bank) (r : Nat) (v : Word) (h : swf b.a 0 (0 : Word) = true) (hr : r ≠ 0) : (b.wa r v).ra r = v := by
  simp only [Bank.wa, Bank.ra, hr, if_false]
  exact sget_sset_same r v h

theorem ra_wa_other (b : Bank) {r i : Nat} (v : Word) (h : i ≠ r) : (b.wa r v).ra i = b.ra i := by
  unfold Bank.wa Bank.ra
  split
  · rfl
  · split
    · rfl
    · exact sget_sset_other _ _ _ h

@[simp] theorem wa_zero (b : Bank) (v : Word) : b.wa 0 v = b := rfl
@[simp] theorem ws_zero (b : Bank) (v : Word) : b.ws 0 v = b := rfl
@[simp] theorem wm_zero (b : Bank) (v : Word) : b.wm 0 v = b := rfl
@[simp] theorem ra_zero (b : Bank) : b.ra 0 = 0 := rfl
@[simp] theorem rs_zero (b : Bank) : b.rs 0 = 0 := rfl
@[simp] theorem rm_zero (b : Bank) : b.rm 0 = 0 := rfl

end Sys2Proof.Laws
end

