-- ==== Sys2Proof/Laws/Memory.lean ====
section
/-! SUPPORT. The laws of storage (R189, R220, R224): a read after a write, and that every write keeps the canonical form of
memory. -/
namespace Sys2Proof.Laws

open Machine

/-! ### One byte -/

theorem rdByte_wrByte_same {s : State} (a : Nat) (v : Byte) (h : Memory.wf s.mem = true) : rdByte (wrByte s a v) a = v :=
  sget_sset_same a v h

theorem rdByte_wrByte_other (s : State) {a i : Nat} (v : Byte) (h : i ≠ a) : rdByte (wrByte s a v) i = rdByte s i :=
  sget_sset_other _ _ _ h

theorem wrByte_wf {s : State} (a : Nat) (v : Byte) (h : Memory.wf s.mem = true) : Memory.wf (wrByte s a v).mem = true :=
  swf_sset_zero h

/-! ### Several bytes -/

theorem wrBytes_wf {s : State} (a : Nat) (l : List Byte) (h : Memory.wf s.mem = true) :
    Memory.wf (wrBytes s a l).mem = true := by
  induction l generalizing s a with
  | nil => exact h
  | cons v l ih => exact ih (a + 1) (wrByte_wf a v h)

/-- Bytes outside the ones written read as before. -/
theorem rdByte_wrBytes_other (s : State) (a : Nat) (l : List Byte) {i : Nat} (h : i < a ∨ a + l.length ≤ i) :
    rdByte (wrBytes s a l) i = rdByte s i := by
  induction l generalizing s a with
  | nil => rfl
  | cons v l ih =>
    simp only [List.length_cons] at h
    rw [wrBytes, ih (wrByte s a v) (a + 1) (by omega), rdByte_wrByte_other s v (by omega)]

/-- The bytes written are read back. -/
theorem rdByte_wrBytes_same {s : State} (a : Nat) (l : List Byte) (h : Memory.wf s.mem = true) (i : Nat) (hi : i < l.length) :
    rdByte (wrBytes s a l) (a + i) = l[i] := by
  induction l generalizing s a i with
  | nil => simp at hi
  | cons v l ih =>
    cases i with
    | zero =>
      rw [wrBytes, rdByte_wrBytes_other _ _ _ (by omega), Nat.add_zero, rdByte_wrByte_same a v h]
      rfl
    | succ i =>
      have hi' : i < l.length := by simpa using hi
      have := ih (a + 1) (wrByte_wf a v h) i hi'
      rw [wrBytes, show a + (i + 1) = a + 1 + i by omega, this]
      rfl

/-- Writing bytes changes nothing but memory. -/
theorem wrBytes_eq (s : State) (a : Nat) (l : List Byte) : ∃ m, wrBytes s a l = { s with mem := m } := by
  induction l generalizing s a with
  | nil => exact ⟨s.mem, rfl⟩
  | cons v l ih =>
    obtain ⟨m, hm⟩ := ih (wrByte s a v) (a + 1)
    exact ⟨m, hm⟩

theorem bytesOf_length (x n : Nat) : (bytesOf x n).length = n := by
  induction n generalizing x with
  | zero => rfl
  | succ n ih => simp [bytesOf, ih]

/-! ### Bits and places -/

theorem wrBits_wf {s : State} (a b n v : Nat) (h : Memory.wf s.mem = true) : Memory.wf (wrBits s a b n v).mem = true := by
  unfold wrBits
  split
  · exact h
  · exact wrBytes_wf _ _ h

/-- Bytes that hold none of the bits written read as before. -/
theorem rdByte_wrBits_other (s : State) (a b n v : Nat) {i : Nat} (h : i < a ∨ a + (b + n + 7) / 8 ≤ i) :
    rdByte (wrBits s a b n v) i = rdByte s i := by
  unfold wrBits
  split
  · rfl
  · exact rdByte_wrBytes_other s a _ (by rw [bytesOf_length]; exact h)

/-- A window write touches registers, accumulators and images, never memory (R192). -/
@[simp] theorem chipWrite_mem (s : State) (c k o n v : Nat) : (chipWrite s c k o n v).mem = s.mem := by
  unfold chipWrite
  split <;> rfl

theorem wrPlace_wf {s : State} (p : Place) (v : Nat) (h : Memory.wf s.mem = true) : Memory.wf (wrPlace s p v).mem = true := by
  unfold wrPlace
  split
  · dsimp only
    split
    · exact wrBits_wf _ _ _ _ h
    · exact wrBits_wf _ _ _ _ h
  · rw [chipWrite_mem]; exact h
  · exact h

/-- Whether byte `i` lies among the bytes that a write of a place touches. -/
def coversByte (p : Place) (i : Nat) : Bool :=
  match p.tgt with
  | .mem loc b => loc ≤ i && i < loc + (b + p.keep + 7) / 8
  | _ => false

/-- Writing a place leaves every byte it does not cover. -/
theorem rdByte_wrPlace_other (s : State) (p : Place) (v : Nat) {i : Nat} (h : coversByte p i = false) :
    rdByte (wrPlace s p v) i = rdByte s i := by
  unfold wrPlace
  unfold coversByte at h
  split
  · rename_i loc b hp
    rw [hp] at h
    simp only [Bool.and_eq_false_iff, decide_eq_false_iff_not, Nat.not_le, Nat.not_lt] at h
    dsimp only
    split
    · exact rdByte_wrBits_other s loc b p.keep v h
    · exact rdByte_wrBits_other s loc b p.keep v h
  · unfold rdByte
    rw [chipWrite_mem]
  · rfl

/-- Dropping the bytes of a range keeps the canonical form. -/
theorem filter_wf {m : List Host.Cell} (p : Nat × Byte → Bool) (h : Memory.wf m = true) : Memory.wf (m.filter p) = true :=
  swf_filter p h

theorem reset_mem_wf : Memory.wf State.reset.mem = true := rfl

end Sys2Proof.Laws
end

