-- ==== Sys2Proof/Laws/PerInstr.lean ====
section
/-! SUPPORT. For each instruction: the opcode maps give back the instruction that the encoder wrote (R40, R42, R51-R54),
with every operand at every value; a row without a word has none. -/
namespace Sys2Proof.Laws.Encode

open Sys2Proof

/-- The maps read the encoded word as the instruction itself, or as a reserved OP where its width code is reserved. -/
def Statement (i : Instr) : Prop := ∀ w, encode i = some w → decodeOp w = if Machine.opBad i then none else some i

/-- One OP of one map. -/
theorem row {i : Instr} (e : BitVec 2) (t : BitVec 4) (op : BitVec 8) (p : BitVec 18) (he : encode i = some (mk e t op p))
    (hk : (op.extractLsb' 4 4 == 15) = false)
    (hi : (if e == 0 then decodeA op.toNat (mk e t op p) else if e == 1 then decodeX op.toNat (mk e t op p)
      else if e == 2 then decodeM op.toNat (mk e t op p) else decodeShared op.toNat (mk e t op p)) = some i) :
    Statement i := by
  intro w h
  rw [he] at h
  cases h
  exact decodeOp_mk e t op p i hk hi

theorem noWord {i : Instr} (h : encode i = none) : Statement i := by
  intro w hw
  rw [h] at hw
  cases hw

/-- A width code has four values. -/
theorem cases_two {P : BitVec 2 → Prop} (h0 : P 0) (h1 : P 1) (h2 : P 2) (h3 : P 3) (w : BitVec 2) : P w := by
  have h : w = 0 ∨ w = 1 ∨ w = 2 ∨ w = 3 := by revert w; decide
  rcases h with rfl | rfl | rfl | rfl
  · exact h0
  · exact h1
  · exact h2
  · exact h3

theorem b (f : BitVec 18) : Statement (.b f) := by
  refine row 3 0 0x02 (f) rfl rfl ?_
  change some (Instr.b (BitVec.extractLsb' 0 18 _)) = _
  rw [show (mk 3 0 0x02 (f)).extractLsb' 0 18 = f from
      (mk_low _ _ _ _ 0 18 (by decide)).trans
        (BitVec.extractLsb'_eq_self)]

theorem bc (g : BitVec 2) (c : BitVec 3) (r : BitVec 6) (f : BitVec 7) : Statement (.bc g c r f) := by
  refine row 3 0 0x03 (g ++ c ++ r ++ f) rfl rfl ?_
  change some (Instr.bc (BitVec.extractLsb' 16 2 _) (BitVec.extractLsb' 13 3 _) (BitVec.extractLsb' 7 6 _) (BitVec.extractLsb' 0 7 _)) = _
  rw [show (mk 3 0 0x03 (g ++ c ++ r ++ f)).extractLsb' 16 2 = g from
      (mk_low _ _ _ _ 16 2 (by decide)).trans
        ((app_high (k := 9) _ _ 16 2 (by decide) rfl).trans ((app_high (k := 3) _ _ 9 2 (by decide) rfl).trans ((app_high (k := 0) _ _ 3 2 (by decide) rfl).trans (BitVec.extractLsb'_eq_self)))), show (mk 3 0 0x03 (g ++ c ++ r ++ f)).extractLsb' 13 3 = c from
      (mk_low _ _ _ _ 13 3 (by decide)).trans
        ((app_high (k := 6) _ _ 13 3 (by decide) rfl).trans ((app_high (k := 0) _ _ 6 3 (by decide) rfl).trans (low_field _ _))), show (mk 3 0 0x03 (g ++ c ++ r ++ f)).extractLsb' 7 6 = r from
      (mk_low _ _ _ _ 7 6 (by decide)).trans
        ((app_high (k := 0) _ _ 7 6 (by decide) rfl).trans (low_field _ _)), show (mk 3 0 0x03 (g ++ c ++ r ++ f)).extractLsb' 0 7 = f from
      (mk_low _ _ _ _ 0 7 (by decide)).trans
        (low_field _ _)]

theorem bi (g : BitVec 2) (r : BitVec 6) : Statement (.bi g r) := by
  refine row 3 0 0x04 (g ++ (0 : BitVec 3) ++ r ++ (0 : BitVec 7)) rfl rfl ?_
  change some (Instr.bi (BitVec.extractLsb' 16 2 _) (BitVec.extractLsb' 7 6 _)) = _
  rw [show (mk 3 0 0x04 (g ++ (0 : BitVec 3) ++ r ++ (0 : BitVec 7))).extractLsb' 16 2 = g from
      (mk_low _ _ _ _ 16 2 (by decide)).trans
        ((app_high (k := 9) _ _ 16 2 (by decide) rfl).trans ((app_high (k := 3) _ _ 9 2 (by decide) rfl).trans ((app_high (k := 0) _ _ 3 2 (by decide) rfl).trans (BitVec.extractLsb'_eq_self)))), show (mk 3 0 0x04 (g ++ (0 : BitVec 3) ++ r ++ (0 : BitVec 7))).extractLsb' 7 6 = r from
      (mk_low _ _ _ _ 7 6 (by decide)).trans
        ((app_high (k := 0) _ _ 7 6 (by decide) rfl).trans (low_field _ _))]

theorem call (f : BitVec 18) : Statement (.call f) := by
  refine row 3 0 0x05 (f) rfl rfl ?_
  change some (Instr.call (BitVec.extractLsb' 0 18 _)) = _
  rw [show (mk 3 0 0x05 (f)).extractLsb' 0 18 = f from
      (mk_low _ _ _ _ 0 18 (by decide)).trans
        (BitVec.extractLsb'_eq_self)]

theorem loop (l : BitVec 4) : Statement (.loop l) := by
  refine row 3 0 0x07 (l ++ (0 : BitVec 14)) rfl rfl ?_
  change some (Instr.loop (BitVec.extractLsb' 14 4 _)) = _
  rw [show (mk 3 0 0x07 (l ++ (0 : BitVec 14))).extractLsb' 14 4 = l from
      (mk_low _ _ _ _ 14 4 (by decide)).trans
        ((app_high (k := 0) _ _ 14 4 (by decide) rfl).trans (BitVec.extractLsb'_eq_self))]

theorem endl (l : BitVec 4) : Statement (.endl l) := by
  refine row 3 0 0x08 (l ++ (0 : BitVec 14)) rfl rfl ?_
  change some (Instr.endl (BitVec.extractLsb' 14 4 _)) = _
  rw [show (mk 3 0 0x08 (l ++ (0 : BitVec 14))).extractLsb' 14 4 = l from
      (mk_low _ _ _ _ 14 4 (by decide)).trans
        ((app_high (k := 0) _ _ 14 4 (by decide) rfl).trans (BitVec.extractLsb'_eq_self))]

theorem round (s : BitVec 2) : Statement (.round s) := by
  refine row 3 0 0x09 (s ++ (0 : BitVec 16)) rfl rfl ?_
  change some (Instr.round (BitVec.extractLsb' 16 2 _)) = _
  rw [show (mk 3 0 0x09 (s ++ (0 : BitVec 16))).extractLsb' 16 2 = s from
      (mk_low _ _ _ _ 16 2 (by decide)).trans
        ((app_high (k := 0) _ _ 16 2 (by decide) rfl).trans (BitVec.extractLsb'_eq_self))]

theorem trap (c : BitVec 16) : Statement (.trap c) := by
  refine row 3 0 0x0B ((0 : BitVec 2) ++ c) rfl rfl ?_
  change some (Instr.trap (BitVec.extractLsb' 0 16 _)) = _
  rw [show (mk 3 0 0x0B ((0 : BitVec 2) ++ c)).extractLsb' 0 16 = c from
      (mk_low _ _ _ _ 0 16 (by decide)).trans
        (low_field _ _)]

theorem kx (e : BitVec 2) (p : BitVec 22) : Statement (.kx e p) := by
  intro w h
  cases h
  have hk : (e ++ (0 : BitVec 4) ++ (15 : BitVec 4) ++ p : BitVec 32).extractLsb' 22 4 = 15 :=
    (app_high (k := 0) (e ++ (0 : BitVec 4) ++ (15 : BitVec 4)) p 22 4 (by decide) rfl).trans (low_field _ _)
  have ht : (e ++ (0 : BitVec 4) ++ (15 : BitVec 4) ++ p : BitVec 32).extractLsb' 30 2 = e :=
    (app_high (k := 8) (e ++ (0 : BitVec 4) ++ (15 : BitVec 4)) p 30 2 (by decide) rfl).trans
      ((app_high (k := 4) (e ++ (0 : BitVec 4)) (15 : BitVec 4) 8 2 (by decide) rfl).trans
        ((app_high (k := 0) e (0 : BitVec 4) 4 2 (by decide) rfl).trans BitVec.extractLsb'_eq_self))
  have hp : (e ++ (0 : BitVec 4) ++ (15 : BitVec 4) ++ p : BitVec 32).extractLsb' 0 22 = p := low_field _ _
  unfold decodeOp isKx tagOf
  rw [hk, ht, hp]
  rfl

theorem aNop (t : BitVec 4) : Statement (.aNop t) := by
  refine row 0 t 0x01 (0) rfl rfl ?_
  change some (Instr.aNop (dep _)) = _
  rw [dep_mk]

theorem aAdd (t : BitVec 4) (d : BitVec 6) (a : BitVec 6) (b : BitVec 6) : Statement (.aAdd t d a b) := by
  refine row 0 t 0x10 (rrr d a b) rfl rfl ?_
  change some (Instr.aAdd (dep _) (BitVec.extractLsb' 12 6 _) (BitVec.extractLsb' 6 6 _) (BitVec.extractLsb' 0 6 _)) = _
  rw [dep_mk, rrr_d, rrr_a, rrr_b]

theorem aSub (t : BitVec 4) (d : BitVec 6) (a : BitVec 6) (b : BitVec 6) : Statement (.aSub t d a b) := by
  refine row 0 t 0x11 (rrr d a b) rfl rfl ?_
  change some (Instr.aSub (dep _) (BitVec.extractLsb' 12 6 _) (BitVec.extractLsb' 6 6 _) (BitVec.extractLsb' 0 6 _)) = _
  rw [dep_mk, rrr_d, rrr_a, rrr_b]

theorem aAnd (t : BitVec 4) (d : BitVec 6) (a : BitVec 6) (b : BitVec 6) : Statement (.aAnd t d a b) := by
  refine row 0 t 0x12 (rrr d a b) rfl rfl ?_
  change some (Instr.aAnd (dep _) (BitVec.extractLsb' 12 6 _) (BitVec.extractLsb' 6 6 _) (BitVec.extractLsb' 0 6 _)) = _
  rw [dep_mk, rrr_d, rrr_a, rrr_b]

theorem aOr (t : BitVec 4) (d : BitVec 6) (a : BitVec 6) (b : BitVec 6) : Statement (.aOr t d a b) := by
  refine row 0 t 0x13 (rrr d a b) rfl rfl ?_
  change some (Instr.aOr (dep _) (BitVec.extractLsb' 12 6 _) (BitVec.extractLsb' 6 6 _) (BitVec.extractLsb' 0 6 _)) = _
  rw [dep_mk, rrr_d, rrr_a, rrr_b]

theorem aXor (t : BitVec 4) (d : BitVec 6) (a : BitVec 6) (b : BitVec 6) : Statement (.aXor t d a b) := by
  refine row 0 t 0x14 (rrr d a b) rfl rfl ?_
  change some (Instr.aXor (dep _) (BitVec.extractLsb' 12 6 _) (BitVec.extractLsb' 6 6 _) (BitVec.extractLsb' 0 6 _)) = _
  rw [dep_mk, rrr_d, rrr_a, rrr_b]

theorem aAndn (t : BitVec 4) (d : BitVec 6) (a : BitVec 6) (b : BitVec 6) : Statement (.aAndn t d a b) := by
  refine row 0 t 0x15 (rrr d a b) rfl rfl ?_
  change some (Instr.aAndn (dep _) (BitVec.extractLsb' 12 6 _) (BitVec.extractLsb' 6 6 _) (BitVec.extractLsb' 0 6 _)) = _
  rw [dep_mk, rrr_d, rrr_a, rrr_b]

theorem aShl (t : BitVec 4) (d : BitVec 6) (a : BitVec 6) (b : BitVec 6) : Statement (.aShl t d a b) := by
  refine row 0 t 0x16 (rrr d a b) rfl rfl ?_
  change some (Instr.aShl (dep _) (BitVec.extractLsb' 12 6 _) (BitVec.extractLsb' 6 6 _) (BitVec.extractLsb' 0 6 _)) = _
  rw [dep_mk, rrr_d, rrr_a, rrr_b]

theorem aShr (t : BitVec 4) (d : BitVec 6) (a : BitVec 6) (b : BitVec 6) : Statement (.aShr t d a b) := by
  refine row 0 t 0x17 (rrr d a b) rfl rfl ?_
  change some (Instr.aShr (dep _) (BitVec.extractLsb' 12 6 _) (BitVec.extractLsb' 6 6 _) (BitVec.extractLsb' 0 6 _)) = _
  rw [dep_mk, rrr_d, rrr_a, rrr_b]

theorem aSar (t : BitVec 4) (d : BitVec 6) (a : BitVec 6) (b : BitVec 6) : Statement (.aSar t d a b) := by
  refine row 0 t 0x18 (rrr d a b) rfl rfl ?_
  change some (Instr.aSar (dep _) (BitVec.extractLsb' 12 6 _) (BitVec.extractLsb' 6 6 _) (BitVec.extractLsb' 0 6 _)) = _
  rw [dep_mk, rrr_d, rrr_a, rrr_b]

theorem aMul (t : BitVec 4) (d : BitVec 6) (a : BitVec 6) (b : BitVec 6) : Statement (.aMul t d a b) := by
  refine row 0 t 0x19 (rrr d a b) rfl rfl ?_
  change some (Instr.aMul (dep _) (BitVec.extractLsb' 12 6 _) (BitVec.extractLsb' 6 6 _) (BitVec.extractLsb' 0 6 _)) = _
  rw [dep_mk, rrr_d, rrr_a, rrr_b]

theorem aMulh (t : BitVec 4) (d : BitVec 6) (a : BitVec 6) (b : BitVec 6) : Statement (.aMulh t d a b) := by
  refine row 0 t 0x1A (rrr d a b) rfl rfl ?_
  change some (Instr.aMulh (dep _) (BitVec.extractLsb' 12 6 _) (BitVec.extractLsb' 6 6 _) (BitVec.extractLsb' 0 6 _)) = _
  rw [dep_mk, rrr_d, rrr_a, rrr_b]

theorem aMulhu (t : BitVec 4) (d : BitVec 6) (a : BitVec 6) (b : BitVec 6) : Statement (.aMulhu t d a b) := by
  refine row 0 t 0x1B (rrr d a b) rfl rfl ?_
  change some (Instr.aMulhu (dep _) (BitVec.extractLsb' 12 6 _) (BitVec.extractLsb' 6 6 _) (BitVec.extractLsb' 0 6 _)) = _
  rw [dep_mk, rrr_d, rrr_a, rrr_b]

theorem aMin (t : BitVec 4) (d : BitVec 6) (a : BitVec 6) (b : BitVec 6) : Statement (.aMin t d a b) := by
  refine row 0 t 0x1C (rrr d a b) rfl rfl ?_
  change some (Instr.aMin (dep _) (BitVec.extractLsb' 12 6 _) (BitVec.extractLsb' 6 6 _) (BitVec.extractLsb' 0 6 _)) = _
  rw [dep_mk, rrr_d, rrr_a, rrr_b]

theorem aMax (t : BitVec 4) (d : BitVec 6) (a : BitVec 6) (b : BitVec 6) : Statement (.aMax t d a b) := by
  refine row 0 t 0x1D (rrr d a b) rfl rfl ?_
  change some (Instr.aMax (dep _) (BitVec.extractLsb' 12 6 _) (BitVec.extractLsb' 6 6 _) (BitVec.extractLsb' 0 6 _)) = _
  rw [dep_mk, rrr_d, rrr_a, rrr_b]

theorem aMinu (t : BitVec 4) (d : BitVec 6) (a : BitVec 6) (b : BitVec 6) : Statement (.aMinu t d a b) := by
  refine row 0 t 0x1E (rrr d a b) rfl rfl ?_
  change some (Instr.aMinu (dep _) (BitVec.extractLsb' 12 6 _) (BitVec.extractLsb' 6 6 _) (BitVec.extractLsb' 0 6 _)) = _
  rw [dep_mk, rrr_d, rrr_a, rrr_b]

theorem aMaxu (t : BitVec 4) (d : BitVec 6) (a : BitVec 6) (b : BitVec 6) : Statement (.aMaxu t d a b) := by
  refine row 0 t 0x1F (rrr d a b) rfl rfl ?_
  change some (Instr.aMaxu (dep _) (BitVec.extractLsb' 12 6 _) (BitVec.extractLsb' 6 6 _) (BitVec.extractLsb' 0 6 _)) = _
  rw [dep_mk, rrr_d, rrr_a, rrr_b]

theorem aSlt (t : BitVec 4) (d : BitVec 6) (a : BitVec 6) (b : BitVec 6) : Statement (.aSlt t d a b) := by
  refine row 0 t 0x20 (rrr d a b) rfl rfl ?_
  change some (Instr.aSlt (dep _) (BitVec.extractLsb' 12 6 _) (BitVec.extractLsb' 6 6 _) (BitVec.extractLsb' 0 6 _)) = _
  rw [dep_mk, rrr_d, rrr_a, rrr_b]

theorem aSltu (t : BitVec 4) (d : BitVec 6) (a : BitVec 6) (b : BitVec 6) : Statement (.aSltu t d a b) := by
  refine row 0 t 0x21 (rrr d a b) rfl rfl ?_
  change some (Instr.aSltu (dep _) (BitVec.extractLsb' 12 6 _) (BitVec.extractLsb' 6 6 _) (BitVec.extractLsb' 0 6 _)) = _
  rw [dep_mk, rrr_d, rrr_a, rrr_b]

theorem aSeq (t : BitVec 4) (d : BitVec 6) (a : BitVec 6) (b : BitVec 6) : Statement (.aSeq t d a b) := by
  refine row 0 t 0x22 (rrr d a b) rfl rfl ?_
  change some (Instr.aSeq (dep _) (BitVec.extractLsb' 12 6 _) (BitVec.extractLsb' 6 6 _) (BitVec.extractLsb' 0 6 _)) = _
  rw [dep_mk, rrr_d, rrr_a, rrr_b]

theorem aAddi (t : BitVec 4) (d : BitVec 6) (a : BitVec 6) (i : BitVec 6) : Statement (.aAddi t d a i) := by
  refine row 0 t 0x28 (rrr d a i) rfl rfl ?_
  change some (Instr.aAddi (dep _) (BitVec.extractLsb' 12 6 _) (BitVec.extractLsb' 6 6 _) (BitVec.extractLsb' 0 6 _)) = _
  rw [dep_mk, rrr_d, rrr_a, rrr_b]

theorem aAndi (t : BitVec 4) (d : BitVec 6) (a : BitVec 6) (i : BitVec 6) : Statement (.aAndi t d a i) := by
  refine row 0 t 0x29 (rrr d a i) rfl rfl ?_
  change some (Instr.aAndi (dep _) (BitVec.extractLsb' 12 6 _) (BitVec.extractLsb' 6 6 _) (BitVec.extractLsb' 0 6 _)) = _
  rw [dep_mk, rrr_d, rrr_a, rrr_b]

theorem aOri (t : BitVec 4) (d : BitVec 6) (a : BitVec 6) (i : BitVec 6) : Statement (.aOri t d a i) := by
  refine row 0 t 0x2A (rrr d a i) rfl rfl ?_
  change some (Instr.aOri (dep _) (BitVec.extractLsb' 12 6 _) (BitVec.extractLsb' 6 6 _) (BitVec.extractLsb' 0 6 _)) = _
  rw [dep_mk, rrr_d, rrr_a, rrr_b]

theorem aXori (t : BitVec 4) (d : BitVec 6) (a : BitVec 6) (i : BitVec 6) : Statement (.aXori t d a i) := by
  refine row 0 t 0x2B (rrr d a i) rfl rfl ?_
  change some (Instr.aXori (dep _) (BitVec.extractLsb' 12 6 _) (BitVec.extractLsb' 6 6 _) (BitVec.extractLsb' 0 6 _)) = _
  rw [dep_mk, rrr_d, rrr_a, rrr_b]

theorem aShli (t : BitVec 4) (d : BitVec 6) (a : BitVec 6) (i : BitVec 6) : Statement (.aShli t d a i) := by
  refine row 0 t 0x2C (rrr d a i) rfl rfl ?_
  change some (Instr.aShli (dep _) (BitVec.extractLsb' 12 6 _) (BitVec.extractLsb' 6 6 _) (BitVec.extractLsb' 0 6 _)) = _
  rw [dep_mk, rrr_d, rrr_a, rrr_b]

theorem aShri (t : BitVec 4) (d : BitVec 6) (a : BitVec 6) (i : BitVec 6) : Statement (.aShri t d a i) := by
  refine row 0 t 0x2D (rrr d a i) rfl rfl ?_
  change some (Instr.aShri (dep _) (BitVec.extractLsb' 12 6 _) (BitVec.extractLsb' 6 6 _) (BitVec.extractLsb' 0 6 _)) = _
  rw [dep_mk, rrr_d, rrr_a, rrr_b]

theorem aSari (t : BitVec 4) (d : BitVec 6) (a : BitVec 6) (i : BitVec 6) : Statement (.aSari t d a i) := by
  refine row 0 t 0x2E (rrr d a i) rfl rfl ?_
  change some (Instr.aSari (dep _) (BitVec.extractLsb' 12 6 _) (BitVec.extractLsb' 6 6 _) (BitVec.extractLsb' 0 6 _)) = _
  rw [dep_mk, rrr_d, rrr_a, rrr_b]

theorem aLi (t : BitVec 4) (d : BitVec 6) (i : BitVec 12) : Statement (.aLi t d i) := by
  refine row 0 t 0x2F (ri d i) rfl rfl ?_
  change some (Instr.aLi (dep _) (BitVec.extractLsb' 12 6 _) (BitVec.extractLsb' 0 12 _)) = _
  rw [dep_mk, ri_d, ri_i]

theorem aLihi (t : BitVec 4) (d : BitVec 6) (i : BitVec 12) : Statement (.aLihi t d i) := by
  refine row 0 t 0x30 (ri d i) rfl rfl ?_
  change some (Instr.aLihi (dep _) (BitVec.extractLsb' 12 6 _) (BitVec.extractLsb' 0 12 _)) = _
  rw [dep_mk, ri_d, ri_i]

theorem aLdB (t : BitVec 4) (d : BitVec 6) (b : BitVec 5) (p : BitVec 3) (s : BitVec 4) : Statement (.aLdB t d b p s) := by
  refine row 0 t 0x40 (mem d b p s) rfl rfl ?_
  change some (Instr.aLdB (dep _) (BitVec.extractLsb' 12 6 _) (BitVec.extractLsb' 7 5 _) (BitVec.extractLsb' 4 3 _) (BitVec.extractLsb' 0 4 _)) = _
  rw [dep_mk, mem_d, mem_b, mem_p, mem_s]

theorem aLdH (t : BitVec 4) (d : BitVec 6) (b : BitVec 5) (p : BitVec 3) (s : BitVec 4) : Statement (.aLdH t d b p s) := by
  refine row 0 t 0x41 (mem d b p s) rfl rfl ?_
  change some (Instr.aLdH (dep _) (BitVec.extractLsb' 12 6 _) (BitVec.extractLsb' 7 5 _) (BitVec.extractLsb' 4 3 _) (BitVec.extractLsb' 0 4 _)) = _
  rw [dep_mk, mem_d, mem_b, mem_p, mem_s]

theorem aLdW (t : BitVec 4) (d : BitVec 6) (b : BitVec 5) (p : BitVec 3) (s : BitVec 4) : Statement (.aLdW t d b p s) := by
  refine row 0 t 0x42 (mem d b p s) rfl rfl ?_
  change some (Instr.aLdW (dep _) (BitVec.extractLsb' 12 6 _) (BitVec.extractLsb' 7 5 _) (BitVec.extractLsb' 4 3 _) (BitVec.extractLsb' 0 4 _)) = _
  rw [dep_mk, mem_d, mem_b, mem_p, mem_s]

theorem aLdD (t : BitVec 4) (d : BitVec 6) (b : BitVec 5) (p : BitVec 3) (s : BitVec 4) : Statement (.aLdD t d b p s) := by
  refine row 0 t 0x43 (mem d b p s) rfl rfl ?_
  change some (Instr.aLdD (dep _) (BitVec.extractLsb' 12 6 _) (BitVec.extractLsb' 7 5 _) (BitVec.extractLsb' 4 3 _) (BitVec.extractLsb' 0 4 _)) = _
  rw [dep_mk, mem_d, mem_b, mem_p, mem_s]

theorem aLdsB (t : BitVec 4) (d : BitVec 6) (b : BitVec 5) (p : BitVec 3) (s : BitVec 4) : Statement (.aLdsB t d b p s) := by
  refine row 0 t 0x44 (mem d b p s) rfl rfl ?_
  change some (Instr.aLdsB (dep _) (BitVec.extractLsb' 12 6 _) (BitVec.extractLsb' 7 5 _) (BitVec.extractLsb' 4 3 _) (BitVec.extractLsb' 0 4 _)) = _
  rw [dep_mk, mem_d, mem_b, mem_p, mem_s]

theorem aLdsH (t : BitVec 4) (d : BitVec 6) (b : BitVec 5) (p : BitVec 3) (s : BitVec 4) : Statement (.aLdsH t d b p s) := by
  refine row 0 t 0x45 (mem d b p s) rfl rfl ?_
  change some (Instr.aLdsH (dep _) (BitVec.extractLsb' 12 6 _) (BitVec.extractLsb' 7 5 _) (BitVec.extractLsb' 4 3 _) (BitVec.extractLsb' 0 4 _)) = _
  rw [dep_mk, mem_d, mem_b, mem_p, mem_s]

theorem aLdsW (t : BitVec 4) (d : BitVec 6) (b : BitVec 5) (p : BitVec 3) (s : BitVec 4) : Statement (.aLdsW t d b p s) := by
  refine row 0 t 0x46 (mem d b p s) rfl rfl ?_
  change some (Instr.aLdsW (dep _) (BitVec.extractLsb' 12 6 _) (BitVec.extractLsb' 7 5 _) (BitVec.extractLsb' 4 3 _) (BitVec.extractLsb' 0 4 _)) = _
  rw [dep_mk, mem_d, mem_b, mem_p, mem_s]

theorem aLdv (t : BitVec 4) (d : BitVec 6) (b : BitVec 5) (p : BitVec 3) (s : BitVec 4) : Statement (.aLdv t d b p s) := by
  refine row 0 t 0x47 (mem d b p s) rfl rfl ?_
  change some (Instr.aLdv (dep _) (BitVec.extractLsb' 12 6 _) (BitVec.extractLsb' 7 5 _) (BitVec.extractLsb' 4 3 _) (BitVec.extractLsb' 0 4 _)) = _
  rw [dep_mk, mem_d, mem_b, mem_p, mem_s]

theorem aStB (t : BitVec 4) (d : BitVec 6) (b : BitVec 5) (p : BitVec 3) (s : BitVec 4) : Statement (.aStB t d b p s) := by
  refine row 0 t 0x48 (mem d b p s) rfl rfl ?_
  change some (Instr.aStB (dep _) (BitVec.extractLsb' 12 6 _) (BitVec.extractLsb' 7 5 _) (BitVec.extractLsb' 4 3 _) (BitVec.extractLsb' 0 4 _)) = _
  rw [dep_mk, mem_d, mem_b, mem_p, mem_s]

theorem aStH (t : BitVec 4) (d : BitVec 6) (b : BitVec 5) (p : BitVec 3) (s : BitVec 4) : Statement (.aStH t d b p s) := by
  refine row 0 t 0x49 (mem d b p s) rfl rfl ?_
  change some (Instr.aStH (dep _) (BitVec.extractLsb' 12 6 _) (BitVec.extractLsb' 7 5 _) (BitVec.extractLsb' 4 3 _) (BitVec.extractLsb' 0 4 _)) = _
  rw [dep_mk, mem_d, mem_b, mem_p, mem_s]

theorem aStW (t : BitVec 4) (d : BitVec 6) (b : BitVec 5) (p : BitVec 3) (s : BitVec 4) : Statement (.aStW t d b p s) := by
  refine row 0 t 0x4A (mem d b p s) rfl rfl ?_
  change some (Instr.aStW (dep _) (BitVec.extractLsb' 12 6 _) (BitVec.extractLsb' 7 5 _) (BitVec.extractLsb' 4 3 _) (BitVec.extractLsb' 0 4 _)) = _
  rw [dep_mk, mem_d, mem_b, mem_p, mem_s]

theorem aStD (t : BitVec 4) (d : BitVec 6) (b : BitVec 5) (p : BitVec 3) (s : BitVec 4) : Statement (.aStD t d b p s) := by
  refine row 0 t 0x4B (mem d b p s) rfl rfl ?_
  change some (Instr.aStD (dep _) (BitVec.extractLsb' 12 6 _) (BitVec.extractLsb' 7 5 _) (BitVec.extractLsb' 4 3 _) (BitVec.extractLsb' 0 4 _)) = _
  rw [dep_mk, mem_d, mem_b, mem_p, mem_s]

theorem aStv (t : BitVec 4) (d : BitVec 6) (b : BitVec 5) (p : BitVec 3) (s : BitVec 4) : Statement (.aStv t d b p s) := by
  refine row 0 t 0x4C (mem d b p s) rfl rfl ?_
  change some (Instr.aStv (dep _) (BitVec.extractLsb' 12 6 _) (BitVec.extractLsb' 7 5 _) (BitVec.extractLsb' 4 3 _) (BitVec.extractLsb' 0 4 _)) = _
  rw [dep_mk, mem_d, mem_b, mem_p, mem_s]

theorem aLdvc (t : BitVec 4) (d : BitVec 6) (b : BitVec 5) (x : BitVec 3) (s : BitVec 4) : Statement (.aLdvc t d b x s) := by
  refine row 0 t 0x4D (mem d b x s) rfl rfl ?_
  change some (Instr.aLdvc (dep _) (BitVec.extractLsb' 12 6 _) (BitVec.extractLsb' 7 5 _) (BitVec.extractLsb' 4 3 _) (BitVec.extractLsb' 0 4 _)) = _
  rw [dep_mk, mem_d, mem_b, mem_p, mem_s]

theorem aGath (t : BitVec 4) (d : BitVec 6) (b : BitVec 5) (p : BitVec 3) (s : BitVec 4) : Statement (.aGath t d b p s) := by
  refine row 0 t 0x4E (mem d b p s) rfl rfl ?_
  change some (Instr.aGath (dep _) (BitVec.extractLsb' 12 6 _) (BitVec.extractLsb' 7 5 _) (BitVec.extractLsb' 4 3 _) (BitVec.extractLsb' 0 4 _)) = _
  rw [dep_mk, mem_d, mem_b, mem_p, mem_s]

theorem aScat (t : BitVec 4) (b : BitVec 5) (p : BitVec 3) (s : BitVec 4) : Statement (.aScat t b p s) := by
  refine row 0 t 0x4F ((0 : BitVec 6) ++ b ++ p ++ s) rfl rfl ?_
  change some (Instr.aScat (dep _) (BitVec.extractLsb' 7 5 _) (BitVec.extractLsb' 4 3 _) (BitVec.extractLsb' 0 4 _)) = _
  rw [dep_mk, show (mk 0 t 0x4F ((0 : BitVec 6) ++ b ++ p ++ s)).extractLsb' 7 5 = b from
      (mk_low _ _ _ _ 7 5 (by decide)).trans
        ((app_high (k := 3) _ _ 7 5 (by decide) rfl).trans ((app_high (k := 0) _ _ 3 5 (by decide) rfl).trans (low_field _ _))), show (mk 0 t 0x4F ((0 : BitVec 6) ++ b ++ p ++ s)).extractLsb' 4 3 = p from
      (mk_low _ _ _ _ 4 3 (by decide)).trans
        ((app_high (k := 0) _ _ 4 3 (by decide) rfl).trans (low_field _ _)), show (mk 0 t 0x4F ((0 : BitVec 6) ++ b ++ p ++ s)).extractLsb' 0 4 = s from
      (mk_low _ _ _ _ 0 4 (by decide)).trans
        (low_field _ _)]

theorem aSto (t : BitVec 4) (d : BitVec 6) (b : BitVec 5) (p : BitVec 3) (s : BitVec 4) : Statement (.aSto t d b p s) := by
  refine row 0 t 0x50 (mem d b p s) rfl rfl ?_
  change some (Instr.aSto (dep _) (BitVec.extractLsb' 12 6 _) (BitVec.extractLsb' 7 5 _) (BitVec.extractLsb' 4 3 _) (BitVec.extractLsb' 0 4 _)) = _
  rw [dep_mk, mem_d, mem_b, mem_p, mem_s]

theorem aAadd (t : BitVec 4) (d : BitVec 6) (b : BitVec 5) (o : BitVec 5) (w : BitVec 1) : Statement (.aAadd t d b o w) := by
  refine row 0 t 0x58 (atw d b o w) rfl rfl ?_
  change some (Instr.aAadd (dep _) (BitVec.extractLsb' 12 6 _) (BitVec.extractLsb' 7 5 _) (BitVec.extractLsb' 2 5 _) (BitVec.extractLsb' 1 1 _)) = _
  rw [dep_mk, atw_d, atw_b, atw_o, atw_w]

theorem aAand (t : BitVec 4) (d : BitVec 6) (b : BitVec 5) (o : BitVec 5) (w : BitVec 1) : Statement (.aAand t d b o w) := by
  refine row 0 t 0x59 (atw d b o w) rfl rfl ?_
  change some (Instr.aAand (dep _) (BitVec.extractLsb' 12 6 _) (BitVec.extractLsb' 7 5 _) (BitVec.extractLsb' 2 5 _) (BitVec.extractLsb' 1 1 _)) = _
  rw [dep_mk, atw_d, atw_b, atw_o, atw_w]

theorem aAor (t : BitVec 4) (d : BitVec 6) (b : BitVec 5) (o : BitVec 5) (w : BitVec 1) : Statement (.aAor t d b o w) := by
  refine row 0 t 0x5A (atw d b o w) rfl rfl ?_
  change some (Instr.aAor (dep _) (BitVec.extractLsb' 12 6 _) (BitVec.extractLsb' 7 5 _) (BitVec.extractLsb' 2 5 _) (BitVec.extractLsb' 1 1 _)) = _
  rw [dep_mk, atw_d, atw_b, atw_o, atw_w]

theorem aAxor (t : BitVec 4) (d : BitVec 6) (b : BitVec 5) (o : BitVec 5) (w : BitVec 1) : Statement (.aAxor t d b o w) := by
  refine row 0 t 0x5B (atw d b o w) rfl rfl ?_
  change some (Instr.aAxor (dep _) (BitVec.extractLsb' 12 6 _) (BitVec.extractLsb' 7 5 _) (BitVec.extractLsb' 2 5 _) (BitVec.extractLsb' 1 1 _)) = _
  rw [dep_mk, atw_d, atw_b, atw_o, atw_w]

theorem aAmin (t : BitVec 4) (d : BitVec 6) (b : BitVec 5) (o : BitVec 5) (w : BitVec 1) : Statement (.aAmin t d b o w) := by
  refine row 0 t 0x5C (atw d b o w) rfl rfl ?_
  change some (Instr.aAmin (dep _) (BitVec.extractLsb' 12 6 _) (BitVec.extractLsb' 7 5 _) (BitVec.extractLsb' 2 5 _) (BitVec.extractLsb' 1 1 _)) = _
  rw [dep_mk, atw_d, atw_b, atw_o, atw_w]

theorem aAmax (t : BitVec 4) (d : BitVec 6) (b : BitVec 5) (o : BitVec 5) (w : BitVec 1) : Statement (.aAmax t d b o w) := by
  refine row 0 t 0x5D (atw d b o w) rfl rfl ?_
  change some (Instr.aAmax (dep _) (BitVec.extractLsb' 12 6 _) (BitVec.extractLsb' 7 5 _) (BitVec.extractLsb' 2 5 _) (BitVec.extractLsb' 1 1 _)) = _
  rw [dep_mk, atw_d, atw_b, atw_o, atw_w]

theorem aAminu (t : BitVec 4) (d : BitVec 6) (b : BitVec 5) (o : BitVec 5) (w : BitVec 1) : Statement (.aAminu t d b o w) := by
  refine row 0 t 0x5E (atw d b o w) rfl rfl ?_
  change some (Instr.aAminu (dep _) (BitVec.extractLsb' 12 6 _) (BitVec.extractLsb' 7 5 _) (BitVec.extractLsb' 2 5 _) (BitVec.extractLsb' 1 1 _)) = _
  rw [dep_mk, atw_d, atw_b, atw_o, atw_w]

theorem aAmaxu (t : BitVec 4) (d : BitVec 6) (b : BitVec 5) (o : BitVec 5) (w : BitVec 1) : Statement (.aAmaxu t d b o w) := by
  refine row 0 t 0x5F (atw d b o w) rfl rfl ?_
  change some (Instr.aAmaxu (dep _) (BitVec.extractLsb' 12 6 _) (BitVec.extractLsb' 7 5 _) (BitVec.extractLsb' 2 5 _) (BitVec.extractLsb' 1 1 _)) = _
  rw [dep_mk, atw_d, atw_b, atw_o, atw_w]

theorem aAxchg (t : BitVec 4) (d : BitVec 6) (b : BitVec 5) (o : BitVec 5) (w : BitVec 1) : Statement (.aAxchg t d b o w) := by
  refine row 0 t 0x60 (atw d b o w) rfl rfl ?_
  change some (Instr.aAxchg (dep _) (BitVec.extractLsb' 12 6 _) (BitVec.extractLsb' 7 5 _) (BitVec.extractLsb' 2 5 _) (BitVec.extractLsb' 1 1 _)) = _
  rw [dep_mk, atw_d, atw_b, atw_o, atw_w]

theorem aAcas (t : BitVec 4) (d : BitVec 6) (b : BitVec 5) (o : BitVec 5) (w : BitVec 1) : Statement (.aAcas t d b o w) := by
  refine row 0 t 0x61 (atw d b o w) rfl rfl ?_
  change some (Instr.aAcas (dep _) (BitVec.extractLsb' 12 6 _) (BitVec.extractLsb' 7 5 _) (BitVec.extractLsb' 2 5 _) (BitVec.extractLsb' 1 1 _)) = _
  rw [dep_mk, atw_d, atw_b, atw_o, atw_w]

theorem aAfadd (t : BitVec 4) (d : BitVec 6) (b : BitVec 5) (o : BitVec 5) (w : BitVec 1) : Statement (.aAfadd t d b o w) := by
  refine row 0 t 0x62 (atw d b o w) rfl rfl ?_
  change some (Instr.aAfadd (dep _) (BitVec.extractLsb' 12 6 _) (BitVec.extractLsb' 7 5 _) (BitVec.extractLsb' 2 5 _) (BitVec.extractLsb' 1 1 _)) = _
  rw [dep_mk, atw_d, atw_b, atw_o, atw_w]

theorem aAspc (t : BitVec 4) (d : BitVec 6) (a : BitVec 6) : Statement (.aAspc t d a) := by
  refine row 0 t 0x68 (rrr d a 0) rfl rfl ?_
  change some (Instr.aAspc (dep _) (BitVec.extractLsb' 12 6 _) (BitVec.extractLsb' 6 6 _)) = _
  rw [dep_mk, rrr_d, rrr_a]

theorem aAcvt (t : BitVec 4) (d : BitVec 6) (a : BitVec 6) (i : BitVec 6) : Statement (.aAcvt t d a i) := by
  refine row 0 t 0x69 (rrr d a i) rfl rfl ?_
  change some (Instr.aAcvt (dep _) (BitVec.extractLsb' 12 6 _) (BitVec.extractLsb' 6 6 _) (BitVec.extractLsb' 0 6 _)) = _
  rw [dep_mk, rrr_d, rrr_a, rrr_b]

theorem aCpy (t : BitVec 4) (c : BitVec 3) (r : BitVec 5) : Statement (.aCpy t c r) := by
  refine row 0 t 0x70 (c ++ (0 : BitVec 3) ++ r ++ (0 : BitVec 7)) rfl rfl ?_
  change some (Instr.aCpy (dep _) (BitVec.extractLsb' 15 3 _) (BitVec.extractLsb' 7 5 _)) = _
  rw [dep_mk, show (mk 0 t 0x70 (c ++ (0 : BitVec 3) ++ r ++ (0 : BitVec 7))).extractLsb' 15 3 = c from
      (mk_low _ _ _ _ 15 3 (by decide)).trans
        ((app_high (k := 8) _ _ 15 3 (by decide) rfl).trans ((app_high (k := 3) _ _ 8 3 (by decide) rfl).trans ((app_high (k := 0) _ _ 3 3 (by decide) rfl).trans (BitVec.extractLsb'_eq_self)))), show (mk 0 t 0x70 (c ++ (0 : BitVec 3) ++ r ++ (0 : BitVec 7))).extractLsb' 7 5 = r from
      (mk_low _ _ _ _ 7 5 (by decide)).trans
        ((app_high (k := 0) _ _ 7 5 (by decide) rfl).trans (low_field _ _))]

theorem aDrain (t : BitVec 4) (c : BitVec 3) : Statement (.aDrain t c) := by
  refine row 0 t 0x71 (c ++ (0 : BitVec 15)) rfl rfl ?_
  change some (Instr.aDrain (dep _) (BitVec.extractLsb' 15 3 _)) = _
  rw [dep_mk, show (mk 0 t 0x71 (c ++ (0 : BitVec 15))).extractLsb' 15 3 = c from
      (mk_low _ _ _ _ 15 3 (by decide)).trans
        ((app_high (k := 0) _ _ 15 3 (by decide) rfl).trans (BitVec.extractLsb'_eq_self))]

theorem aTrick (t : BitVec 4) (m : BitVec 13) : Statement (.aTrick t m) := by
  refine row 0 t 0x72 ((0 : BitVec 5) ++ m) rfl rfl ?_
  change some (Instr.aTrick (dep _) (BitVec.extractLsb' 0 13 _)) = _
  rw [dep_mk, show (mk 0 t 0x72 ((0 : BitVec 5) ++ m)).extractLsb' 0 13 = m from
      (mk_low _ _ _ _ 0 13 (by decide)).trans
        (low_field _ _)]

theorem aColl (t : BitVec 4) (r : BitVec 5) : Statement (.aColl t r) := by
  refine row 0 t 0x73 ((0 : BitVec 6) ++ r ++ (0 : BitVec 7)) rfl rfl ?_
  change some (Instr.aColl (dep _) (BitVec.extractLsb' 7 5 _)) = _
  rw [dep_mk, show (mk 0 t 0x73 ((0 : BitVec 6) ++ r ++ (0 : BitVec 7))).extractLsb' 7 5 = r from
      (mk_low _ _ _ _ 7 5 (by decide)).trans
        ((app_high (k := 0) _ _ 7 5 (by decide) rfl).trans (low_field _ _))]

theorem aSwap (t : BitVec 4) (r : BitVec 5) : Statement (.aSwap t r) := by
  refine row 0 t 0x74 ((0 : BitVec 6) ++ r ++ (0 : BitVec 7)) rfl rfl ?_
  change some (Instr.aSwap (dep _) (BitVec.extractLsb' 7 5 _)) = _
  rw [dep_mk, show (mk 0 t 0x74 ((0 : BitVec 6) ++ r ++ (0 : BitVec 7))).extractLsb' 7 5 = r from
      (mk_low _ _ _ _ 7 5 (by decide)).trans
        ((app_high (k := 0) _ _ 7 5 (by decide) rfl).trans (low_field _ _))]

theorem aLaunch (t : BitVec 4) (r : BitVec 5) (q : BitVec 4) : Statement (.aLaunch t r q) := by
  refine row 0 t 0x75 ((0 : BitVec 6) ++ r ++ (0 : BitVec 3) ++ q) rfl rfl ?_
  change some (Instr.aLaunch (dep _) (BitVec.extractLsb' 7 5 _) (BitVec.extractLsb' 0 4 _)) = _
  rw [dep_mk, show (mk 0 t 0x75 ((0 : BitVec 6) ++ r ++ (0 : BitVec 3) ++ q)).extractLsb' 7 5 = r from
      (mk_low _ _ _ _ 7 5 (by decide)).trans
        ((app_high (k := 3) _ _ 7 5 (by decide) rfl).trans ((app_high (k := 0) _ _ 3 5 (by decide) rfl).trans (low_field _ _))), show (mk 0 t 0x75 ((0 : BitVec 6) ++ r ++ (0 : BitVec 3) ++ q)).extractLsb' 0 4 = q from
      (mk_low _ _ _ _ 0 4 (by decide)).trans
        (low_field _ _)]

theorem aSfence (t : BitVec 4) (s : BitVec 2) (m : BitVec 16) : Statement (.aSfence t s m) := by
  refine row 0 t 0x78 (s ++ m) rfl rfl ?_
  change some (Instr.aSfence (dep _) (BitVec.extractLsb' 16 2 _) (BitVec.extractLsb' 0 16 _)) = _
  rw [dep_mk, show (mk 0 t 0x78 (s ++ m)).extractLsb' 16 2 = s from
      (mk_low _ _ _ _ 16 2 (by decide)).trans
        ((app_high (k := 0) _ _ 16 2 (by decide) rfl).trans (BitVec.extractLsb'_eq_self)), show (mk 0 t 0x78 (s ++ m)).extractLsb' 0 16 = m from
      (mk_low _ _ _ _ 0 16 (by decide)).trans
        (low_field _ _)]

theorem aFlagset (t : BitVec 4) (f : BitVec 6) (i : BitVec 12) : Statement (.aFlagset t f i) := by
  refine row 0 t 0x79 (ri f i) rfl rfl ?_
  change some (Instr.aFlagset (dep _) (BitVec.extractLsb' 12 6 _) (BitVec.extractLsb' 0 12 _)) = _
  rw [dep_mk, ri_d, ri_i]

theorem aFlagadd (t : BitVec 4) (f : BitVec 6) (i : BitVec 12) : Statement (.aFlagadd t f i) := by
  refine row 0 t 0x7A (ri f i) rfl rfl ?_
  change some (Instr.aFlagadd (dep _) (BitVec.extractLsb' 12 6 _) (BitVec.extractLsb' 0 12 _)) = _
  rw [dep_mk, ri_d, ri_i]

theorem aFlagwait (t : BitVec 4) (f : BitVec 6) (i : BitVec 12) : Statement (.aFlagwait t f i) := by
  refine row 0 t 0x7B (ri f i) rfl rfl ?_
  change some (Instr.aFlagwait (dep _) (BitVec.extractLsb' 12 6 _) (BitVec.extractLsb' 0 12 _)) = _
  rw [dep_mk, ri_d, ri_i]

theorem aRfence (t : BitVec 4) : Statement (.aRfence t) := by
  refine row 0 t 0x7C (0) rfl rfl ?_
  change some (Instr.aRfence (dep _)) = _
  rw [dep_mk]

theorem aQpush (t : BitVec 4) (a : BitVec 6) (b : BitVec 6) : Statement (.aQpush t a b) := by
  refine row 0 t 0x80 ((0 : BitVec 6) ++ a ++ b) rfl rfl ?_
  change some (Instr.aQpush (dep _) (BitVec.extractLsb' 6 6 _) (BitVec.extractLsb' 0 6 _)) = _
  rw [dep_mk, show (mk 0 t 0x80 ((0 : BitVec 6) ++ a ++ b)).extractLsb' 6 6 = a from
      (mk_low _ _ _ _ 6 6 (by decide)).trans
        ((app_high (k := 0) _ _ 6 6 (by decide) rfl).trans (low_field _ _)), show (mk 0 t 0x80 ((0 : BitVec 6) ++ a ++ b)).extractLsb' 0 6 = b from
      (mk_low _ _ _ _ 0 6 (by decide)).trans
        (low_field _ _)]

theorem aEvpop (t : BitVec 4) (d : BitVec 6) : Statement (.aEvpop t d) := by
  refine row 0 t 0x81 (d ++ (0 : BitVec 12)) rfl rfl ?_
  change some (Instr.aEvpop (dep _) (BitVec.extractLsb' 12 6 _)) = _
  rw [dep_mk, show (mk 0 t 0x81 (d ++ (0 : BitVec 12))).extractLsb' 12 6 = d from
      (mk_low _ _ _ _ 12 6 (by decide)).trans
        ((app_high (k := 0) _ _ 12 6 (by decide) rfl).trans (BitVec.extractLsb'_eq_self))]

theorem aEvpeek (t : BitVec 4) (d : BitVec 6) : Statement (.aEvpeek t d) := by
  refine row 0 t 0x82 (d ++ (0 : BitVec 12)) rfl rfl ?_
  change some (Instr.aEvpeek (dep _) (BitVec.extractLsb' 12 6 _)) = _
  rw [dep_mk, show (mk 0 t 0x82 (d ++ (0 : BitVec 12))).extractLsb' 12 6 = d from
      (mk_low _ _ _ _ 12 6 (by decide)).trans
        ((app_high (k := 0) _ _ 12 6 (by decide) rfl).trans (BitVec.extractLsb'_eq_self))]

theorem aWnext (t : BitVec 4) (d : BitVec 6) : Statement (.aWnext t d) := by
  refine row 0 t 0x83 (d ++ (0 : BitVec 12)) rfl rfl ?_
  change some (Instr.aWnext (dep _) (BitVec.extractLsb' 12 6 _)) = _
  rw [dep_mk, show (mk 0 t 0x83 (d ++ (0 : BitVec 12))).extractLsb' 12 6 = d from
      (mk_low _ _ _ _ 12 6 (by decide)).trans
        ((app_high (k := 0) _ _ 12 6 (by decide) rfl).trans (BitVec.extractLsb'_eq_self))]

theorem aCsrr (t : BitVec 4) (d : BitVec 6) (c : BitVec 12) : Statement (.aCsrr t d c) := by
  refine row 0 t 0x90 (ri d c) rfl rfl ?_
  change some (Instr.aCsrr (dep _) (BitVec.extractLsb' 12 6 _) (BitVec.extractLsb' 0 12 _)) = _
  rw [dep_mk, ri_d, ri_i]

theorem aCsrw (t : BitVec 4) (d : BitVec 6) (c : BitVec 12) : Statement (.aCsrw t d c) := by
  refine row 0 t 0x91 (ri d c) rfl rfl ?_
  change some (Instr.aCsrw (dep _) (BitVec.extractLsb' 12 6 _) (BitVec.extractLsb' 0 12 _)) = _
  rw [dep_mk, ri_d, ri_i]

theorem aTlbi (t : BitVec 4) (k : BitVec 6) (a : BitVec 6) (b : BitVec 6) : Statement (.aTlbi t k a b) := by
  refine row 0 t 0x92 (rrr k a b) rfl rfl ?_
  change some (Instr.aTlbi (dep _) (BitVec.extractLsb' 12 6 _) (BitVec.extractLsb' 6 6 _) (BitVec.extractLsb' 0 6 _)) = _
  rw [dep_mk, rrr_d, rrr_a, rrr_b]

theorem aRemap (t : BitVec 4) (a : BitVec 6) : Statement (.aRemap t a) := by
  refine row 0 t 0x93 ((0 : BitVec 6) ++ a ++ (0 : BitVec 6)) rfl rfl ?_
  change some (Instr.aRemap (dep _) (BitVec.extractLsb' 6 6 _)) = _
  rw [dep_mk, show (mk 0 t 0x93 ((0 : BitVec 6) ++ a ++ (0 : BitVec 6))).extractLsb' 6 6 = a from
      (mk_low _ _ _ _ 6 6 (by decide)).trans
        ((app_high (k := 0) _ _ 6 6 (by decide) rfl).trans (low_field _ _))]

theorem aLqbind (t : BitVec 4) (k : BitVec 6) (a : BitVec 6) (b : BitVec 6) : Statement (.aLqbind t k a b) := by
  refine row 0 t 0x94 (rrr k a b) rfl rfl ?_
  change some (Instr.aLqbind (dep _) (BitVec.extractLsb' 12 6 _) (BitVec.extractLsb' 6 6 _) (BitVec.extractLsb' 0 6 _)) = _
  rw [dep_mk, rrr_d, rrr_a, rrr_b]

theorem xNop (t : BitVec 4) : Statement (.xNop t) := by
  refine row 1 t 0x01 (0) rfl rfl ?_
  change some (Instr.xNop (dep _)) = _
  rw [dep_mk]

theorem xXrmode (t : BitVec 4) (m : BitVec 3) : Statement (.xXrmode t m) := by
  refine row 1 t 0x0E ((0 : BitVec 15) ++ m) rfl rfl ?_
  change some (Instr.xXrmode (dep _) (BitVec.extractLsb' 0 3 _)) = _
  rw [dep_mk, show (mk 1 t 0x0E ((0 : BitVec 15) ++ m)).extractLsb' 0 3 = m from
      (mk_low _ _ _ _ 0 3 (by decide)).trans
        (low_field _ _)]

theorem xXflags (t : BitVec 4) (d : BitVec 6) (c : BitVec 1) : Statement (.xXflags t d c) := by
  refine row 1 t 0x0F (d ++ (0 : BitVec 11) ++ c) rfl rfl ?_
  change some (Instr.xXflags (dep _) (BitVec.extractLsb' 12 6 _) (BitVec.extractLsb' 0 1 _)) = _
  rw [dep_mk, show (mk 1 t 0x0F (d ++ (0 : BitVec 11) ++ c)).extractLsb' 12 6 = d from
      (mk_low _ _ _ _ 12 6 (by decide)).trans
        ((app_high (k := 11) _ _ 12 6 (by decide) rfl).trans ((app_high (k := 0) _ _ 11 6 (by decide) rfl).trans (BitVec.extractLsb'_eq_self))), show (mk 1 t 0x0F (d ++ (0 : BitVec 11) ++ c)).extractLsb' 0 1 = c from
      (mk_low _ _ _ _ 0 1 (by decide)).trans
        (low_field _ _)]

theorem xAdd (t : BitVec 4) (d : BitVec 6) (a : BitVec 6) (b : BitVec 6) : Statement (.xAdd t d a b) := by
  refine row 1 t 0x10 (rrr d a b) rfl rfl ?_
  change some (Instr.xAdd (dep _) (BitVec.extractLsb' 12 6 _) (BitVec.extractLsb' 6 6 _) (BitVec.extractLsb' 0 6 _)) = _
  rw [dep_mk, rrr_d, rrr_a, rrr_b]

theorem xSub (t : BitVec 4) (d : BitVec 6) (a : BitVec 6) (b : BitVec 6) : Statement (.xSub t d a b) := by
  refine row 1 t 0x11 (rrr d a b) rfl rfl ?_
  change some (Instr.xSub (dep _) (BitVec.extractLsb' 12 6 _) (BitVec.extractLsb' 6 6 _) (BitVec.extractLsb' 0 6 _)) = _
  rw [dep_mk, rrr_d, rrr_a, rrr_b]

theorem xAnd (t : BitVec 4) (d : BitVec 6) (a : BitVec 6) (b : BitVec 6) : Statement (.xAnd t d a b) := by
  refine row 1 t 0x12 (rrr d a b) rfl rfl ?_
  change some (Instr.xAnd (dep _) (BitVec.extractLsb' 12 6 _) (BitVec.extractLsb' 6 6 _) (BitVec.extractLsb' 0 6 _)) = _
  rw [dep_mk, rrr_d, rrr_a, rrr_b]

theorem xOr (t : BitVec 4) (d : BitVec 6) (a : BitVec 6) (b : BitVec 6) : Statement (.xOr t d a b) := by
  refine row 1 t 0x13 (rrr d a b) rfl rfl ?_
  change some (Instr.xOr (dep _) (BitVec.extractLsb' 12 6 _) (BitVec.extractLsb' 6 6 _) (BitVec.extractLsb' 0 6 _)) = _
  rw [dep_mk, rrr_d, rrr_a, rrr_b]

theorem xXor (t : BitVec 4) (d : BitVec 6) (a : BitVec 6) (b : BitVec 6) : Statement (.xXor t d a b) := by
  refine row 1 t 0x14 (rrr d a b) rfl rfl ?_
  change some (Instr.xXor (dep _) (BitVec.extractLsb' 12 6 _) (BitVec.extractLsb' 6 6 _) (BitVec.extractLsb' 0 6 _)) = _
  rw [dep_mk, rrr_d, rrr_a, rrr_b]

theorem xAndn (t : BitVec 4) (d : BitVec 6) (a : BitVec 6) (b : BitVec 6) : Statement (.xAndn t d a b) := by
  refine row 1 t 0x15 (rrr d a b) rfl rfl ?_
  change some (Instr.xAndn (dep _) (BitVec.extractLsb' 12 6 _) (BitVec.extractLsb' 6 6 _) (BitVec.extractLsb' 0 6 _)) = _
  rw [dep_mk, rrr_d, rrr_a, rrr_b]

theorem xShl (t : BitVec 4) (d : BitVec 6) (a : BitVec 6) (b : BitVec 6) : Statement (.xShl t d a b) := by
  refine row 1 t 0x16 (rrr d a b) rfl rfl ?_
  change some (Instr.xShl (dep _) (BitVec.extractLsb' 12 6 _) (BitVec.extractLsb' 6 6 _) (BitVec.extractLsb' 0 6 _)) = _
  rw [dep_mk, rrr_d, rrr_a, rrr_b]

theorem xShr (t : BitVec 4) (d : BitVec 6) (a : BitVec 6) (b : BitVec 6) : Statement (.xShr t d a b) := by
  refine row 1 t 0x17 (rrr d a b) rfl rfl ?_
  change some (Instr.xShr (dep _) (BitVec.extractLsb' 12 6 _) (BitVec.extractLsb' 6 6 _) (BitVec.extractLsb' 0 6 _)) = _
  rw [dep_mk, rrr_d, rrr_a, rrr_b]

theorem xSar (t : BitVec 4) (d : BitVec 6) (a : BitVec 6) (b : BitVec 6) : Statement (.xSar t d a b) := by
  refine row 1 t 0x18 (rrr d a b) rfl rfl ?_
  change some (Instr.xSar (dep _) (BitVec.extractLsb' 12 6 _) (BitVec.extractLsb' 6 6 _) (BitVec.extractLsb' 0 6 _)) = _
  rw [dep_mk, rrr_d, rrr_a, rrr_b]

theorem xMul (t : BitVec 4) (d : BitVec 6) (a : BitVec 6) (b : BitVec 6) : Statement (.xMul t d a b) := by
  refine row 1 t 0x19 (rrr d a b) rfl rfl ?_
  change some (Instr.xMul (dep _) (BitVec.extractLsb' 12 6 _) (BitVec.extractLsb' 6 6 _) (BitVec.extractLsb' 0 6 _)) = _
  rw [dep_mk, rrr_d, rrr_a, rrr_b]

theorem xMulh (t : BitVec 4) (d : BitVec 6) (a : BitVec 6) (b : BitVec 6) : Statement (.xMulh t d a b) := by
  refine row 1 t 0x1A (rrr d a b) rfl rfl ?_
  change some (Instr.xMulh (dep _) (BitVec.extractLsb' 12 6 _) (BitVec.extractLsb' 6 6 _) (BitVec.extractLsb' 0 6 _)) = _
  rw [dep_mk, rrr_d, rrr_a, rrr_b]

theorem xMulhu (t : BitVec 4) (d : BitVec 6) (a : BitVec 6) (b : BitVec 6) : Statement (.xMulhu t d a b) := by
  refine row 1 t 0x1B (rrr d a b) rfl rfl ?_
  change some (Instr.xMulhu (dep _) (BitVec.extractLsb' 12 6 _) (BitVec.extractLsb' 6 6 _) (BitVec.extractLsb' 0 6 _)) = _
  rw [dep_mk, rrr_d, rrr_a, rrr_b]

theorem xMin (t : BitVec 4) (d : BitVec 6) (a : BitVec 6) (b : BitVec 6) : Statement (.xMin t d a b) := by
  refine row 1 t 0x1C (rrr d a b) rfl rfl ?_
  change some (Instr.xMin (dep _) (BitVec.extractLsb' 12 6 _) (BitVec.extractLsb' 6 6 _) (BitVec.extractLsb' 0 6 _)) = _
  rw [dep_mk, rrr_d, rrr_a, rrr_b]

theorem xMax (t : BitVec 4) (d : BitVec 6) (a : BitVec 6) (b : BitVec 6) : Statement (.xMax t d a b) := by
  refine row 1 t 0x1D (rrr d a b) rfl rfl ?_
  change some (Instr.xMax (dep _) (BitVec.extractLsb' 12 6 _) (BitVec.extractLsb' 6 6 _) (BitVec.extractLsb' 0 6 _)) = _
  rw [dep_mk, rrr_d, rrr_a, rrr_b]

theorem xMinu (t : BitVec 4) (d : BitVec 6) (a : BitVec 6) (b : BitVec 6) : Statement (.xMinu t d a b) := by
  refine row 1 t 0x1E (rrr d a b) rfl rfl ?_
  change some (Instr.xMinu (dep _) (BitVec.extractLsb' 12 6 _) (BitVec.extractLsb' 6 6 _) (BitVec.extractLsb' 0 6 _)) = _
  rw [dep_mk, rrr_d, rrr_a, rrr_b]

theorem xMaxu (t : BitVec 4) (d : BitVec 6) (a : BitVec 6) (b : BitVec 6) : Statement (.xMaxu t d a b) := by
  refine row 1 t 0x1F (rrr d a b) rfl rfl ?_
  change some (Instr.xMaxu (dep _) (BitVec.extractLsb' 12 6 _) (BitVec.extractLsb' 6 6 _) (BitVec.extractLsb' 0 6 _)) = _
  rw [dep_mk, rrr_d, rrr_a, rrr_b]

theorem xSlt (t : BitVec 4) (d : BitVec 6) (a : BitVec 6) (b : BitVec 6) : Statement (.xSlt t d a b) := by
  refine row 1 t 0x20 (rrr d a b) rfl rfl ?_
  change some (Instr.xSlt (dep _) (BitVec.extractLsb' 12 6 _) (BitVec.extractLsb' 6 6 _) (BitVec.extractLsb' 0 6 _)) = _
  rw [dep_mk, rrr_d, rrr_a, rrr_b]

theorem xSltu (t : BitVec 4) (d : BitVec 6) (a : BitVec 6) (b : BitVec 6) : Statement (.xSltu t d a b) := by
  refine row 1 t 0x21 (rrr d a b) rfl rfl ?_
  change some (Instr.xSltu (dep _) (BitVec.extractLsb' 12 6 _) (BitVec.extractLsb' 6 6 _) (BitVec.extractLsb' 0 6 _)) = _
  rw [dep_mk, rrr_d, rrr_a, rrr_b]

theorem xSeq (t : BitVec 4) (d : BitVec 6) (a : BitVec 6) (b : BitVec 6) : Statement (.xSeq t d a b) := by
  refine row 1 t 0x22 (rrr d a b) rfl rfl ?_
  change some (Instr.xSeq (dep _) (BitVec.extractLsb' 12 6 _) (BitVec.extractLsb' 6 6 _) (BitVec.extractLsb' 0 6 _)) = _
  rw [dep_mk, rrr_d, rrr_a, rrr_b]

theorem xAddi (t : BitVec 4) (d : BitVec 6) (a : BitVec 6) (i : BitVec 6) : Statement (.xAddi t d a i) := by
  refine row 1 t 0x28 (rrr d a i) rfl rfl ?_
  change some (Instr.xAddi (dep _) (BitVec.extractLsb' 12 6 _) (BitVec.extractLsb' 6 6 _) (BitVec.extractLsb' 0 6 _)) = _
  rw [dep_mk, rrr_d, rrr_a, rrr_b]

theorem xAndi (t : BitVec 4) (d : BitVec 6) (a : BitVec 6) (i : BitVec 6) : Statement (.xAndi t d a i) := by
  refine row 1 t 0x29 (rrr d a i) rfl rfl ?_
  change some (Instr.xAndi (dep _) (BitVec.extractLsb' 12 6 _) (BitVec.extractLsb' 6 6 _) (BitVec.extractLsb' 0 6 _)) = _
  rw [dep_mk, rrr_d, rrr_a, rrr_b]

theorem xOri (t : BitVec 4) (d : BitVec 6) (a : BitVec 6) (i : BitVec 6) : Statement (.xOri t d a i) := by
  refine row 1 t 0x2A (rrr d a i) rfl rfl ?_
  change some (Instr.xOri (dep _) (BitVec.extractLsb' 12 6 _) (BitVec.extractLsb' 6 6 _) (BitVec.extractLsb' 0 6 _)) = _
  rw [dep_mk, rrr_d, rrr_a, rrr_b]

theorem xXori (t : BitVec 4) (d : BitVec 6) (a : BitVec 6) (i : BitVec 6) : Statement (.xXori t d a i) := by
  refine row 1 t 0x2B (rrr d a i) rfl rfl ?_
  change some (Instr.xXori (dep _) (BitVec.extractLsb' 12 6 _) (BitVec.extractLsb' 6 6 _) (BitVec.extractLsb' 0 6 _)) = _
  rw [dep_mk, rrr_d, rrr_a, rrr_b]

theorem xShli (t : BitVec 4) (d : BitVec 6) (a : BitVec 6) (i : BitVec 6) : Statement (.xShli t d a i) := by
  refine row 1 t 0x2C (rrr d a i) rfl rfl ?_
  change some (Instr.xShli (dep _) (BitVec.extractLsb' 12 6 _) (BitVec.extractLsb' 6 6 _) (BitVec.extractLsb' 0 6 _)) = _
  rw [dep_mk, rrr_d, rrr_a, rrr_b]

theorem xShri (t : BitVec 4) (d : BitVec 6) (a : BitVec 6) (i : BitVec 6) : Statement (.xShri t d a i) := by
  refine row 1 t 0x2D (rrr d a i) rfl rfl ?_
  change some (Instr.xShri (dep _) (BitVec.extractLsb' 12 6 _) (BitVec.extractLsb' 6 6 _) (BitVec.extractLsb' 0 6 _)) = _
  rw [dep_mk, rrr_d, rrr_a, rrr_b]

theorem xSari (t : BitVec 4) (d : BitVec 6) (a : BitVec 6) (i : BitVec 6) : Statement (.xSari t d a i) := by
  refine row 1 t 0x2E (rrr d a i) rfl rfl ?_
  change some (Instr.xSari (dep _) (BitVec.extractLsb' 12 6 _) (BitVec.extractLsb' 6 6 _) (BitVec.extractLsb' 0 6 _)) = _
  rw [dep_mk, rrr_d, rrr_a, rrr_b]

theorem xLi (t : BitVec 4) (d : BitVec 6) (i : BitVec 12) : Statement (.xLi t d i) := by
  refine row 1 t 0x2F (ri d i) rfl rfl ?_
  change some (Instr.xLi (dep _) (BitVec.extractLsb' 12 6 _) (BitVec.extractLsb' 0 12 _)) = _
  rw [dep_mk, ri_d, ri_i]

theorem xLihi (t : BitVec 4) (d : BitVec 6) (i : BitVec 12) : Statement (.xLihi t d i) := by
  refine row 1 t 0x30 (ri d i) rfl rfl ?_
  change some (Instr.xLihi (dep _) (BitVec.extractLsb' 12 6 _) (BitVec.extractLsb' 0 12 _)) = _
  rw [dep_mk, ri_d, ri_i]

theorem xKand (t : BitVec 4) (d : BitVec 6) (a : BitVec 6) (b : BitVec 6) : Statement (.xKand t d a b) := by
  refine row 1 t 0x31 (rrr d a b) rfl rfl ?_
  change some (Instr.xKand (dep _) (BitVec.extractLsb' 12 6 _) (BitVec.extractLsb' 6 6 _) (BitVec.extractLsb' 0 6 _)) = _
  rw [dep_mk, rrr_d, rrr_a, rrr_b]

theorem xKor (t : BitVec 4) (d : BitVec 6) (a : BitVec 6) (b : BitVec 6) : Statement (.xKor t d a b) := by
  refine row 1 t 0x32 (rrr d a b) rfl rfl ?_
  change some (Instr.xKor (dep _) (BitVec.extractLsb' 12 6 _) (BitVec.extractLsb' 6 6 _) (BitVec.extractLsb' 0 6 _)) = _
  rw [dep_mk, rrr_d, rrr_a, rrr_b]

theorem xKnot (t : BitVec 4) (d : BitVec 6) (a : BitVec 6) : Statement (.xKnot t d a) := by
  refine row 1 t 0x33 (rrr d a 0) rfl rfl ?_
  change some (Instr.xKnot (dep _) (BitVec.extractLsb' 12 6 _) (BitVec.extractLsb' 6 6 _)) = _
  rw [dep_mk, rrr_d, rrr_a]

theorem xKmovs (t : BitVec 4) (d : BitVec 6) (a : BitVec 6) (c : BitVec 4) : Statement (.xKmovs t d a c) := by
  refine row 1 t 0x34 (d ++ a ++ (0 : BitVec 2) ++ c) rfl rfl ?_
  change some (Instr.xKmovs (dep _) (BitVec.extractLsb' 12 6 _) (BitVec.extractLsb' 6 6 _) (BitVec.extractLsb' 0 4 _)) = _
  rw [dep_mk, show (mk 1 t 0x34 (d ++ a ++ (0 : BitVec 2) ++ c)).extractLsb' 12 6 = d from
      (mk_low _ _ _ _ 12 6 (by decide)).trans
        ((app_high (k := 8) _ _ 12 6 (by decide) rfl).trans ((app_high (k := 6) _ _ 8 6 (by decide) rfl).trans ((app_high (k := 0) _ _ 6 6 (by decide) rfl).trans (BitVec.extractLsb'_eq_self)))), show (mk 1 t 0x34 (d ++ a ++ (0 : BitVec 2) ++ c)).extractLsb' 6 6 = a from
      (mk_low _ _ _ _ 6 6 (by decide)).trans
        ((app_high (k := 2) _ _ 6 6 (by decide) rfl).trans ((app_high (k := 0) _ _ 2 6 (by decide) rfl).trans (low_field _ _))), show (mk 1 t 0x34 (d ++ a ++ (0 : BitVec 2) ++ c)).extractLsb' 0 4 = c from
      (mk_low _ _ _ _ 0 4 (by decide)).trans
        (low_field _ _)]

theorem xKmovk (t : BitVec 4) (d : BitVec 6) (a : BitVec 6) (c : BitVec 4) : Statement (.xKmovk t d a c) := by
  refine row 1 t 0x35 (d ++ a ++ (0 : BitVec 2) ++ c) rfl rfl ?_
  change some (Instr.xKmovk (dep _) (BitVec.extractLsb' 12 6 _) (BitVec.extractLsb' 6 6 _) (BitVec.extractLsb' 0 4 _)) = _
  rw [dep_mk, show (mk 1 t 0x35 (d ++ a ++ (0 : BitVec 2) ++ c)).extractLsb' 12 6 = d from
      (mk_low _ _ _ _ 12 6 (by decide)).trans
        ((app_high (k := 8) _ _ 12 6 (by decide) rfl).trans ((app_high (k := 6) _ _ 8 6 (by decide) rfl).trans ((app_high (k := 0) _ _ 6 6 (by decide) rfl).trans (BitVec.extractLsb'_eq_self)))), show (mk 1 t 0x35 (d ++ a ++ (0 : BitVec 2) ++ c)).extractLsb' 6 6 = a from
      (mk_low _ _ _ _ 6 6 (by decide)).trans
        ((app_high (k := 2) _ _ 6 6 (by decide) rfl).trans ((app_high (k := 0) _ _ 2 6 (by decide) rfl).trans (low_field _ _))), show (mk 1 t 0x35 (d ++ a ++ (0 : BitVec 2) ++ c)).extractLsb' 0 4 = c from
      (mk_low _ _ _ _ 0 4 (by decide)).trans
        (low_field _ _)]

theorem xFrcp (t : BitVec 4) (d : BitVec 6) (a : BitVec 6) : Statement (.xFrcp t d a) := by
  refine row 1 t 0x36 (rrr d a 0) rfl rfl ?_
  change some (Instr.xFrcp (dep _) (BitVec.extractLsb' 12 6 _) (BitVec.extractLsb' 6 6 _)) = _
  rw [dep_mk, rrr_d, rrr_a]

theorem xFrsq (t : BitVec 4) (d : BitVec 6) (a : BitVec 6) : Statement (.xFrsq t d a) := by
  refine row 1 t 0x37 (rrr d a 0) rfl rfl ?_
  change some (Instr.xFrsq (dep _) (BitVec.extractLsb' 12 6 _) (BitVec.extractLsb' 6 6 _)) = _
  rw [dep_mk, rrr_d, rrr_a]

theorem xFadd (t : BitVec 4) (d : BitVec 6) (a : BitVec 6) (b : BitVec 6) : Statement (.xFadd t d a b) := by
  refine row 1 t 0x38 (rrr d a b) rfl rfl ?_
  change some (Instr.xFadd (dep _) (BitVec.extractLsb' 12 6 _) (BitVec.extractLsb' 6 6 _) (BitVec.extractLsb' 0 6 _)) = _
  rw [dep_mk, rrr_d, rrr_a, rrr_b]

theorem xFsub (t : BitVec 4) (d : BitVec 6) (a : BitVec 6) (b : BitVec 6) : Statement (.xFsub t d a b) := by
  refine row 1 t 0x39 (rrr d a b) rfl rfl ?_
  change some (Instr.xFsub (dep _) (BitVec.extractLsb' 12 6 _) (BitVec.extractLsb' 6 6 _) (BitVec.extractLsb' 0 6 _)) = _
  rw [dep_mk, rrr_d, rrr_a, rrr_b]

theorem xFmul (t : BitVec 4) (d : BitVec 6) (a : BitVec 6) (b : BitVec 6) : Statement (.xFmul t d a b) := by
  refine row 1 t 0x3A (rrr d a b) rfl rfl ?_
  change some (Instr.xFmul (dep _) (BitVec.extractLsb' 12 6 _) (BitVec.extractLsb' 6 6 _) (BitVec.extractLsb' 0 6 _)) = _
  rw [dep_mk, rrr_d, rrr_a, rrr_b]

theorem xFma (t : BitVec 4) (d : BitVec 6) (a : BitVec 6) (b : BitVec 6) : Statement (.xFma t d a b) := by
  refine row 1 t 0x3B (rrr d a b) rfl rfl ?_
  change some (Instr.xFma (dep _) (BitVec.extractLsb' 12 6 _) (BitVec.extractLsb' 6 6 _) (BitVec.extractLsb' 0 6 _)) = _
  rw [dep_mk, rrr_d, rrr_a, rrr_b]

theorem xFmin (t : BitVec 4) (d : BitVec 6) (a : BitVec 6) (b : BitVec 6) : Statement (.xFmin t d a b) := by
  refine row 1 t 0x3C (rrr d a b) rfl rfl ?_
  change some (Instr.xFmin (dep _) (BitVec.extractLsb' 12 6 _) (BitVec.extractLsb' 6 6 _) (BitVec.extractLsb' 0 6 _)) = _
  rw [dep_mk, rrr_d, rrr_a, rrr_b]

theorem xFmax (t : BitVec 4) (d : BitVec 6) (a : BitVec 6) (b : BitVec 6) : Statement (.xFmax t d a b) := by
  refine row 1 t 0x3D (rrr d a b) rfl rfl ?_
  change some (Instr.xFmax (dep _) (BitVec.extractLsb' 12 6 _) (BitVec.extractLsb' 6 6 _) (BitVec.extractLsb' 0 6 _)) = _
  rw [dep_mk, rrr_d, rrr_a, rrr_b]

theorem xFcmp (t : BitVec 4) (d : BitVec 6) (a : BitVec 6) (b : BitVec 6) : Statement (.xFcmp t d a b) := by
  refine row 1 t 0x3E (rrr d a b) rfl rfl ?_
  change some (Instr.xFcmp (dep _) (BitVec.extractLsb' 12 6 _) (BitVec.extractLsb' 6 6 _) (BitVec.extractLsb' 0 6 _)) = _
  rw [dep_mk, rrr_d, rrr_a, rrr_b]

theorem xFcvt (t : BitVec 4) (d : BitVec 6) (a : BitVec 6) : Statement (.xFcvt t d a) := by
  refine row 1 t 0x3F (rrr d a 0) rfl rfl ?_
  change some (Instr.xFcvt (dep _) (BitVec.extractLsb' 12 6 _) (BitVec.extractLsb' 6 6 _)) = _
  rw [dep_mk, rrr_d, rrr_a]

theorem xVadd (t : BitVec 4) (w : BitVec 2) (d : BitVec 6) (a : BitVec 6) (b : BitVec 6) : Statement (.xVadd t w d a b) := by
  refine cases_two (P := fun w => Statement (.xVadd t w d a b)) ?_ ?_ ?_ ?_ w
  · refine row 1 t (opW 0x10 0) (rrr d a b) rfl rfl ?_
    change some (Instr.xVadd (dep _) 0 (BitVec.extractLsb' 12 6 _) (BitVec.extractLsb' 6 6 _) (BitVec.extractLsb' 0 6 _)) = _
    rw [dep_mk, rrr_d, rrr_a, rrr_b]
  · refine row 1 t (opW 0x10 1) (rrr d a b) rfl rfl ?_
    change some (Instr.xVadd (dep _) 1 (BitVec.extractLsb' 12 6 _) (BitVec.extractLsb' 6 6 _) (BitVec.extractLsb' 0 6 _)) = _
    rw [dep_mk, rrr_d, rrr_a, rrr_b]
  · refine row 1 t (opW 0x10 2) (rrr d a b) rfl rfl ?_
    change some (Instr.xVadd (dep _) 2 (BitVec.extractLsb' 12 6 _) (BitVec.extractLsb' 6 6 _) (BitVec.extractLsb' 0 6 _)) = _
    rw [dep_mk, rrr_d, rrr_a, rrr_b]
  · refine row 1 t (opW 0x10 3) (rrr d a b) rfl rfl ?_
    change some (Instr.xVadd (dep _) 3 (BitVec.extractLsb' 12 6 _) (BitVec.extractLsb' 6 6 _) (BitVec.extractLsb' 0 6 _)) = _
    rw [dep_mk, rrr_d, rrr_a, rrr_b]

theorem xVsub (t : BitVec 4) (w : BitVec 2) (d : BitVec 6) (a : BitVec 6) (b : BitVec 6) : Statement (.xVsub t w d a b) := by
  refine cases_two (P := fun w => Statement (.xVsub t w d a b)) ?_ ?_ ?_ ?_ w
  · refine row 1 t (opW 0x11 0) (rrr d a b) rfl rfl ?_
    change some (Instr.xVsub (dep _) 0 (BitVec.extractLsb' 12 6 _) (BitVec.extractLsb' 6 6 _) (BitVec.extractLsb' 0 6 _)) = _
    rw [dep_mk, rrr_d, rrr_a, rrr_b]
  · refine row 1 t (opW 0x11 1) (rrr d a b) rfl rfl ?_
    change some (Instr.xVsub (dep _) 1 (BitVec.extractLsb' 12 6 _) (BitVec.extractLsb' 6 6 _) (BitVec.extractLsb' 0 6 _)) = _
    rw [dep_mk, rrr_d, rrr_a, rrr_b]
  · refine row 1 t (opW 0x11 2) (rrr d a b) rfl rfl ?_
    change some (Instr.xVsub (dep _) 2 (BitVec.extractLsb' 12 6 _) (BitVec.extractLsb' 6 6 _) (BitVec.extractLsb' 0 6 _)) = _
    rw [dep_mk, rrr_d, rrr_a, rrr_b]
  · refine row 1 t (opW 0x11 3) (rrr d a b) rfl rfl ?_
    change some (Instr.xVsub (dep _) 3 (BitVec.extractLsb' 12 6 _) (BitVec.extractLsb' 6 6 _) (BitVec.extractLsb' 0 6 _)) = _
    rw [dep_mk, rrr_d, rrr_a, rrr_b]

theorem xVand (t : BitVec 4) (d : BitVec 6) (a : BitVec 6) (b : BitVec 6) : Statement (.xVand t d a b) := by
  refine row 1 t 0x48 (rrr d a b) rfl rfl ?_
  change some (Instr.xVand (dep _) (BitVec.extractLsb' 12 6 _) (BitVec.extractLsb' 6 6 _) (BitVec.extractLsb' 0 6 _)) = _
  rw [dep_mk, rrr_d, rrr_a, rrr_b]

theorem xVor (t : BitVec 4) (d : BitVec 6) (a : BitVec 6) (b : BitVec 6) : Statement (.xVor t d a b) := by
  refine row 1 t 0x49 (rrr d a b) rfl rfl ?_
  change some (Instr.xVor (dep _) (BitVec.extractLsb' 12 6 _) (BitVec.extractLsb' 6 6 _) (BitVec.extractLsb' 0 6 _)) = _
  rw [dep_mk, rrr_d, rrr_a, rrr_b]

theorem xVxor (t : BitVec 4) (d : BitVec 6) (a : BitVec 6) (b : BitVec 6) : Statement (.xVxor t d a b) := by
  refine row 1 t 0x4A (rrr d a b) rfl rfl ?_
  change some (Instr.xVxor (dep _) (BitVec.extractLsb' 12 6 _) (BitVec.extractLsb' 6 6 _) (BitVec.extractLsb' 0 6 _)) = _
  rw [dep_mk, rrr_d, rrr_a, rrr_b]

theorem xVandn (t : BitVec 4) (d : BitVec 6) (a : BitVec 6) (b : BitVec 6) : Statement (.xVandn t d a b) := by
  refine row 1 t 0x4B (rrr d a b) rfl rfl ?_
  change some (Instr.xVandn (dep _) (BitVec.extractLsb' 12 6 _) (BitVec.extractLsb' 6 6 _) (BitVec.extractLsb' 0 6 _)) = _
  rw [dep_mk, rrr_d, rrr_a, rrr_b]

theorem xVlop3 (t : BitVec 4) (d : BitVec 6) (a : BitVec 6) (b : BitVec 6) : Statement (.xVlop3 t d a b) := by
  refine row 1 t 0x4C (rrr d a b) rfl rfl ?_
  change some (Instr.xVlop3 (dep _) (BitVec.extractLsb' 12 6 _) (BitVec.extractLsb' 6 6 _) (BitVec.extractLsb' 0 6 _)) = _
  rw [dep_mk, rrr_d, rrr_a, rrr_b]

theorem xKpopc (t : BitVec 4) (d : BitVec 6) (a : BitVec 6) : Statement (.xKpopc t d a) := by
  refine row 1 t 0x4D (rrr d a 0) rfl rfl ?_
  change some (Instr.xKpopc (dep _) (BitVec.extractLsb' 12 6 _) (BitVec.extractLsb' 6 6 _)) = _
  rw [dep_mk, rrr_d, rrr_a]

theorem xVshl (t : BitVec 4) (w : BitVec 2) (d : BitVec 6) (a : BitVec 6) (b : BitVec 6) : Statement (.xVshl t w d a b) := by
  refine cases_two (P := fun w => Statement (.xVshl t w d a b)) ?_ ?_ ?_ ?_ w
  · refine row 1 t (opW 0x14 0) (rrr d a b) rfl rfl ?_
    change some (Instr.xVshl (dep _) 0 (BitVec.extractLsb' 12 6 _) (BitVec.extractLsb' 6 6 _) (BitVec.extractLsb' 0 6 _)) = _
    rw [dep_mk, rrr_d, rrr_a, rrr_b]
  · refine row 1 t (opW 0x14 1) (rrr d a b) rfl rfl ?_
    change some (Instr.xVshl (dep _) 1 (BitVec.extractLsb' 12 6 _) (BitVec.extractLsb' 6 6 _) (BitVec.extractLsb' 0 6 _)) = _
    rw [dep_mk, rrr_d, rrr_a, rrr_b]
  · refine row 1 t (opW 0x14 2) (rrr d a b) rfl rfl ?_
    change some (Instr.xVshl (dep _) 2 (BitVec.extractLsb' 12 6 _) (BitVec.extractLsb' 6 6 _) (BitVec.extractLsb' 0 6 _)) = _
    rw [dep_mk, rrr_d, rrr_a, rrr_b]
  · refine row 1 t (opW 0x14 3) (rrr d a b) rfl rfl ?_
    change some (Instr.xVshl (dep _) 3 (BitVec.extractLsb' 12 6 _) (BitVec.extractLsb' 6 6 _) (BitVec.extractLsb' 0 6 _)) = _
    rw [dep_mk, rrr_d, rrr_a, rrr_b]

theorem xVshr (t : BitVec 4) (w : BitVec 2) (d : BitVec 6) (a : BitVec 6) (b : BitVec 6) : Statement (.xVshr t w d a b) := by
  refine cases_two (P := fun w => Statement (.xVshr t w d a b)) ?_ ?_ ?_ ?_ w
  · refine row 1 t (opW 0x15 0) (rrr d a b) rfl rfl ?_
    change some (Instr.xVshr (dep _) 0 (BitVec.extractLsb' 12 6 _) (BitVec.extractLsb' 6 6 _) (BitVec.extractLsb' 0 6 _)) = _
    rw [dep_mk, rrr_d, rrr_a, rrr_b]
  · refine row 1 t (opW 0x15 1) (rrr d a b) rfl rfl ?_
    change some (Instr.xVshr (dep _) 1 (BitVec.extractLsb' 12 6 _) (BitVec.extractLsb' 6 6 _) (BitVec.extractLsb' 0 6 _)) = _
    rw [dep_mk, rrr_d, rrr_a, rrr_b]
  · refine row 1 t (opW 0x15 2) (rrr d a b) rfl rfl ?_
    change some (Instr.xVshr (dep _) 2 (BitVec.extractLsb' 12 6 _) (BitVec.extractLsb' 6 6 _) (BitVec.extractLsb' 0 6 _)) = _
    rw [dep_mk, rrr_d, rrr_a, rrr_b]
  · refine row 1 t (opW 0x15 3) (rrr d a b) rfl rfl ?_
    change some (Instr.xVshr (dep _) 3 (BitVec.extractLsb' 12 6 _) (BitVec.extractLsb' 6 6 _) (BitVec.extractLsb' 0 6 _)) = _
    rw [dep_mk, rrr_d, rrr_a, rrr_b]

theorem xVsar (t : BitVec 4) (w : BitVec 2) (d : BitVec 6) (a : BitVec 6) (b : BitVec 6) : Statement (.xVsar t w d a b) := by
  refine cases_two (P := fun w => Statement (.xVsar t w d a b)) ?_ ?_ ?_ ?_ w
  · refine row 1 t (opW 0x16 0) (rrr d a b) rfl rfl ?_
    change some (Instr.xVsar (dep _) 0 (BitVec.extractLsb' 12 6 _) (BitVec.extractLsb' 6 6 _) (BitVec.extractLsb' 0 6 _)) = _
    rw [dep_mk, rrr_d, rrr_a, rrr_b]
  · refine row 1 t (opW 0x16 1) (rrr d a b) rfl rfl ?_
    change some (Instr.xVsar (dep _) 1 (BitVec.extractLsb' 12 6 _) (BitVec.extractLsb' 6 6 _) (BitVec.extractLsb' 0 6 _)) = _
    rw [dep_mk, rrr_d, rrr_a, rrr_b]
  · refine row 1 t (opW 0x16 2) (rrr d a b) rfl rfl ?_
    change some (Instr.xVsar (dep _) 2 (BitVec.extractLsb' 12 6 _) (BitVec.extractLsb' 6 6 _) (BitVec.extractLsb' 0 6 _)) = _
    rw [dep_mk, rrr_d, rrr_a, rrr_b]
  · refine row 1 t (opW 0x16 3) (rrr d a b) rfl rfl ?_
    change some (Instr.xVsar (dep _) 3 (BitVec.extractLsb' 12 6 _) (BitVec.extractLsb' 6 6 _) (BitVec.extractLsb' 0 6 _)) = _
    rw [dep_mk, rrr_d, rrr_a, rrr_b]

theorem xVfun (t : BitVec 4) (d : BitVec 6) (a : BitVec 6) (b : BitVec 6) : Statement (.xVfun t d a b) := by
  refine row 1 t 0x5C (rrr d a b) rfl rfl ?_
  change some (Instr.xVfun (dep _) (BitVec.extractLsb' 12 6 _) (BitVec.extractLsb' 6 6 _) (BitVec.extractLsb' 0 6 _)) = _
  rw [dep_mk, rrr_d, rrr_a, rrr_b]

theorem xVmul24 (t : BitVec 4) (d : BitVec 6) (a : BitVec 6) (b : BitVec 6) : Statement (.xVmul24 t d a b) := by
  refine row 1 t 0x60 (rrr d a b) rfl rfl ?_
  change some (Instr.xVmul24 (dep _) (BitVec.extractLsb' 12 6 _) (BitVec.extractLsb' 6 6 _) (BitVec.extractLsb' 0 6 _)) = _
  rw [dep_mk, rrr_d, rrr_a, rrr_b]

theorem xVmul24u (t : BitVec 4) (d : BitVec 6) (a : BitVec 6) (b : BitVec 6) : Statement (.xVmul24u t d a b) := by
  refine row 1 t 0x61 (rrr d a b) rfl rfl ?_
  change some (Instr.xVmul24u (dep _) (BitVec.extractLsb' 12 6 _) (BitVec.extractLsb' 6 6 _) (BitVec.extractLsb' 0 6 _)) = _
  rw [dep_mk, rrr_d, rrr_a, rrr_b]

theorem xVmad24 (t : BitVec 4) (d : BitVec 6) (a : BitVec 6) (b : BitVec 6) : Statement (.xVmad24 t d a b) := by
  refine row 1 t 0x62 (rrr d a b) rfl rfl ?_
  change some (Instr.xVmad24 (dep _) (BitVec.extractLsb' 12 6 _) (BitVec.extractLsb' 6 6 _) (BitVec.extractLsb' 0 6 _)) = _
  rw [dep_mk, rrr_d, rrr_a, rrr_b]

theorem xVmul32 (t : BitVec 4) (d : BitVec 6) (a : BitVec 6) (b : BitVec 6) : Statement (.xVmul32 t d a b) := by
  refine row 1 t 0x63 (rrr d a b) rfl rfl ?_
  change some (Instr.xVmul32 (dep _) (BitVec.extractLsb' 12 6 _) (BitVec.extractLsb' 6 6 _) (BitVec.extractLsb' 0 6 _)) = _
  rw [dep_mk, rrr_d, rrr_a, rrr_b]

theorem xVmulh (t : BitVec 4) (w : BitVec 2) (d : BitVec 6) (a : BitVec 6) (b : BitVec 6) : Statement (.xVmulh t w d a b) := by
  refine cases_two (P := fun w => Statement (.xVmulh t w d a b)) ?_ ?_ ?_ ?_ w
  · refine row 1 t (opW 0x19 0) (rrr d a b) rfl rfl ?_
    change some (Instr.xVmulh (dep _) 0 (BitVec.extractLsb' 12 6 _) (BitVec.extractLsb' 6 6 _) (BitVec.extractLsb' 0 6 _)) = _
    rw [dep_mk, rrr_d, rrr_a, rrr_b]
  · refine row 1 t (opW 0x19 1) (rrr d a b) rfl rfl ?_
    change some (Instr.xVmulh (dep _) 1 (BitVec.extractLsb' 12 6 _) (BitVec.extractLsb' 6 6 _) (BitVec.extractLsb' 0 6 _)) = _
    rw [dep_mk, rrr_d, rrr_a, rrr_b]
  · refine row 1 t (opW 0x19 2) (rrr d a b) rfl rfl ?_
    change some (Instr.xVmulh (dep _) 2 (BitVec.extractLsb' 12 6 _) (BitVec.extractLsb' 6 6 _) (BitVec.extractLsb' 0 6 _)) = _
    rw [dep_mk, rrr_d, rrr_a, rrr_b]
  · refine row 1 t (opW 0x19 3) (rrr d a b) rfl rfl ?_
    change some (Instr.xVmulh (dep _) 3 (BitVec.extractLsb' 12 6 _) (BitVec.extractLsb' 6 6 _) (BitVec.extractLsb' 0 6 _)) = _
    rw [dep_mk, rrr_d, rrr_a, rrr_b]

theorem xVmin (t : BitVec 4) (w : BitVec 2) (d : BitVec 6) (a : BitVec 6) (b : BitVec 6) : Statement (.xVmin t w d a b) := by
  refine cases_two (P := fun w => Statement (.xVmin t w d a b)) ?_ ?_ ?_ ?_ w
  · refine row 1 t (opW 0x1A 0) (rrr d a b) rfl rfl ?_
    change some (Instr.xVmin (dep _) 0 (BitVec.extractLsb' 12 6 _) (BitVec.extractLsb' 6 6 _) (BitVec.extractLsb' 0 6 _)) = _
    rw [dep_mk, rrr_d, rrr_a, rrr_b]
  · refine row 1 t (opW 0x1A 1) (rrr d a b) rfl rfl ?_
    change some (Instr.xVmin (dep _) 1 (BitVec.extractLsb' 12 6 _) (BitVec.extractLsb' 6 6 _) (BitVec.extractLsb' 0 6 _)) = _
    rw [dep_mk, rrr_d, rrr_a, rrr_b]
  · refine row 1 t (opW 0x1A 2) (rrr d a b) rfl rfl ?_
    change some (Instr.xVmin (dep _) 2 (BitVec.extractLsb' 12 6 _) (BitVec.extractLsb' 6 6 _) (BitVec.extractLsb' 0 6 _)) = _
    rw [dep_mk, rrr_d, rrr_a, rrr_b]
  · refine row 1 t (opW 0x1A 3) (rrr d a b) rfl rfl ?_
    change some (Instr.xVmin (dep _) 3 (BitVec.extractLsb' 12 6 _) (BitVec.extractLsb' 6 6 _) (BitVec.extractLsb' 0 6 _)) = _
    rw [dep_mk, rrr_d, rrr_a, rrr_b]

theorem xVmax (t : BitVec 4) (w : BitVec 2) (d : BitVec 6) (a : BitVec 6) (b : BitVec 6) : Statement (.xVmax t w d a b) := by
  refine cases_two (P := fun w => Statement (.xVmax t w d a b)) ?_ ?_ ?_ ?_ w
  · refine row 1 t (opW 0x1B 0) (rrr d a b) rfl rfl ?_
    change some (Instr.xVmax (dep _) 0 (BitVec.extractLsb' 12 6 _) (BitVec.extractLsb' 6 6 _) (BitVec.extractLsb' 0 6 _)) = _
    rw [dep_mk, rrr_d, rrr_a, rrr_b]
  · refine row 1 t (opW 0x1B 1) (rrr d a b) rfl rfl ?_
    change some (Instr.xVmax (dep _) 1 (BitVec.extractLsb' 12 6 _) (BitVec.extractLsb' 6 6 _) (BitVec.extractLsb' 0 6 _)) = _
    rw [dep_mk, rrr_d, rrr_a, rrr_b]
  · refine row 1 t (opW 0x1B 2) (rrr d a b) rfl rfl ?_
    change some (Instr.xVmax (dep _) 2 (BitVec.extractLsb' 12 6 _) (BitVec.extractLsb' 6 6 _) (BitVec.extractLsb' 0 6 _)) = _
    rw [dep_mk, rrr_d, rrr_a, rrr_b]
  · refine row 1 t (opW 0x1B 3) (rrr d a b) rfl rfl ?_
    change some (Instr.xVmax (dep _) 3 (BitVec.extractLsb' 12 6 _) (BitVec.extractLsb' 6 6 _) (BitVec.extractLsb' 0 6 _)) = _
    rw [dep_mk, rrr_d, rrr_a, rrr_b]

theorem xVminu (t : BitVec 4) (w : BitVec 2) (d : BitVec 6) (a : BitVec 6) (b : BitVec 6) : Statement (.xVminu t w d a b) := by
  refine cases_two (P := fun w => Statement (.xVminu t w d a b)) ?_ ?_ ?_ ?_ w
  · refine row 1 t (opW 0x1C 0) (rrr d a b) rfl rfl ?_
    change some (Instr.xVminu (dep _) 0 (BitVec.extractLsb' 12 6 _) (BitVec.extractLsb' 6 6 _) (BitVec.extractLsb' 0 6 _)) = _
    rw [dep_mk, rrr_d, rrr_a, rrr_b]
  · refine row 1 t (opW 0x1C 1) (rrr d a b) rfl rfl ?_
    change some (Instr.xVminu (dep _) 1 (BitVec.extractLsb' 12 6 _) (BitVec.extractLsb' 6 6 _) (BitVec.extractLsb' 0 6 _)) = _
    rw [dep_mk, rrr_d, rrr_a, rrr_b]
  · refine row 1 t (opW 0x1C 2) (rrr d a b) rfl rfl ?_
    change some (Instr.xVminu (dep _) 2 (BitVec.extractLsb' 12 6 _) (BitVec.extractLsb' 6 6 _) (BitVec.extractLsb' 0 6 _)) = _
    rw [dep_mk, rrr_d, rrr_a, rrr_b]
  · refine row 1 t (opW 0x1C 3) (rrr d a b) rfl rfl ?_
    change some (Instr.xVminu (dep _) 3 (BitVec.extractLsb' 12 6 _) (BitVec.extractLsb' 6 6 _) (BitVec.extractLsb' 0 6 _)) = _
    rw [dep_mk, rrr_d, rrr_a, rrr_b]

theorem xVmaxu (t : BitVec 4) (w : BitVec 2) (d : BitVec 6) (a : BitVec 6) (b : BitVec 6) : Statement (.xVmaxu t w d a b) := by
  refine cases_two (P := fun w => Statement (.xVmaxu t w d a b)) ?_ ?_ ?_ ?_ w
  · refine row 1 t (opW 0x1D 0) (rrr d a b) rfl rfl ?_
    change some (Instr.xVmaxu (dep _) 0 (BitVec.extractLsb' 12 6 _) (BitVec.extractLsb' 6 6 _) (BitVec.extractLsb' 0 6 _)) = _
    rw [dep_mk, rrr_d, rrr_a, rrr_b]
  · refine row 1 t (opW 0x1D 1) (rrr d a b) rfl rfl ?_
    change some (Instr.xVmaxu (dep _) 1 (BitVec.extractLsb' 12 6 _) (BitVec.extractLsb' 6 6 _) (BitVec.extractLsb' 0 6 _)) = _
    rw [dep_mk, rrr_d, rrr_a, rrr_b]
  · refine row 1 t (opW 0x1D 2) (rrr d a b) rfl rfl ?_
    change some (Instr.xVmaxu (dep _) 2 (BitVec.extractLsb' 12 6 _) (BitVec.extractLsb' 6 6 _) (BitVec.extractLsb' 0 6 _)) = _
    rw [dep_mk, rrr_d, rrr_a, rrr_b]
  · refine row 1 t (opW 0x1D 3) (rrr d a b) rfl rfl ?_
    change some (Instr.xVmaxu (dep _) 3 (BitVec.extractLsb' 12 6 _) (BitVec.extractLsb' 6 6 _) (BitVec.extractLsb' 0 6 _)) = _
    rw [dep_mk, rrr_d, rrr_a, rrr_b]

theorem xVabs (t : BitVec 4) (w : BitVec 2) (d : BitVec 6) (a : BitVec 6) : Statement (.xVabs t w d a) := by
  refine cases_two (P := fun w => Statement (.xVabs t w d a)) ?_ ?_ ?_ ?_ w
  · refine row 1 t (opW 0x1E 0) (rrr d a 0) rfl rfl ?_
    change some (Instr.xVabs (dep _) 0 (BitVec.extractLsb' 12 6 _) (BitVec.extractLsb' 6 6 _)) = _
    rw [dep_mk, rrr_d, rrr_a]
  · refine row 1 t (opW 0x1E 1) (rrr d a 0) rfl rfl ?_
    change some (Instr.xVabs (dep _) 1 (BitVec.extractLsb' 12 6 _) (BitVec.extractLsb' 6 6 _)) = _
    rw [dep_mk, rrr_d, rrr_a]
  · refine row 1 t (opW 0x1E 2) (rrr d a 0) rfl rfl ?_
    change some (Instr.xVabs (dep _) 2 (BitVec.extractLsb' 12 6 _) (BitVec.extractLsb' 6 6 _)) = _
    rw [dep_mk, rrr_d, rrr_a]
  · refine row 1 t (opW 0x1E 3) (rrr d a 0) rfl rfl ?_
    change some (Instr.xVabs (dep _) 3 (BitVec.extractLsb' 12 6 _) (BitVec.extractLsb' 6 6 _)) = _
    rw [dep_mk, rrr_d, rrr_a]

theorem xVpopc (t : BitVec 4) (w : BitVec 2) (d : BitVec 6) (a : BitVec 6) : Statement (.xVpopc t w d a) := by
  refine cases_two (P := fun w => Statement (.xVpopc t w d a)) ?_ ?_ ?_ ?_ w
  · refine row 1 t (opW 0x1F 0) (rrr d a 0) rfl rfl ?_
    change some (Instr.xVpopc (dep _) 0 (BitVec.extractLsb' 12 6 _) (BitVec.extractLsb' 6 6 _)) = _
    rw [dep_mk, rrr_d, rrr_a]
  · refine row 1 t (opW 0x1F 1) (rrr d a 0) rfl rfl ?_
    change some (Instr.xVpopc (dep _) 1 (BitVec.extractLsb' 12 6 _) (BitVec.extractLsb' 6 6 _)) = _
    rw [dep_mk, rrr_d, rrr_a]
  · refine row 1 t (opW 0x1F 2) (rrr d a 0) rfl rfl ?_
    change some (Instr.xVpopc (dep _) 2 (BitVec.extractLsb' 12 6 _) (BitVec.extractLsb' 6 6 _)) = _
    rw [dep_mk, rrr_d, rrr_a]
  · refine row 1 t (opW 0x1F 3) (rrr d a 0) rfl rfl ?_
    change some (Instr.xVpopc (dep _) 3 (BitVec.extractLsb' 12 6 _) (BitVec.extractLsb' 6 6 _)) = _
    rw [dep_mk, rrr_d, rrr_a]

theorem xVclz (t : BitVec 4) (w : BitVec 2) (d : BitVec 6) (a : BitVec 6) : Statement (.xVclz t w d a) := by
  refine cases_two (P := fun w => Statement (.xVclz t w d a)) ?_ ?_ ?_ ?_ w
  · refine row 1 t (opW 0x20 0) (rrr d a 0) rfl rfl ?_
    change some (Instr.xVclz (dep _) 0 (BitVec.extractLsb' 12 6 _) (BitVec.extractLsb' 6 6 _)) = _
    rw [dep_mk, rrr_d, rrr_a]
  · refine row 1 t (opW 0x20 1) (rrr d a 0) rfl rfl ?_
    change some (Instr.xVclz (dep _) 1 (BitVec.extractLsb' 12 6 _) (BitVec.extractLsb' 6 6 _)) = _
    rw [dep_mk, rrr_d, rrr_a]
  · refine row 1 t (opW 0x20 2) (rrr d a 0) rfl rfl ?_
    change some (Instr.xVclz (dep _) 2 (BitVec.extractLsb' 12 6 _) (BitVec.extractLsb' 6 6 _)) = _
    rw [dep_mk, rrr_d, rrr_a]
  · refine row 1 t (opW 0x20 3) (rrr d a 0) rfl rfl ?_
    change some (Instr.xVclz (dep _) 3 (BitVec.extractLsb' 12 6 _) (BitVec.extractLsb' 6 6 _)) = _
    rw [dep_mk, rrr_d, rrr_a]

theorem xVcmpeq (t : BitVec 4) (w : BitVec 2) (d : BitVec 6) (a : BitVec 6) (b : BitVec 6) : Statement (.xVcmpeq t w d a b) := by
  refine cases_two (P := fun w => Statement (.xVcmpeq t w d a b)) ?_ ?_ ?_ ?_ w
  · refine row 1 t (opW 0x21 0) (rrr d a b) rfl rfl ?_
    change some (Instr.xVcmpeq (dep _) 0 (BitVec.extractLsb' 12 6 _) (BitVec.extractLsb' 6 6 _) (BitVec.extractLsb' 0 6 _)) = _
    rw [dep_mk, rrr_d, rrr_a, rrr_b]
  · refine row 1 t (opW 0x21 1) (rrr d a b) rfl rfl ?_
    change some (Instr.xVcmpeq (dep _) 1 (BitVec.extractLsb' 12 6 _) (BitVec.extractLsb' 6 6 _) (BitVec.extractLsb' 0 6 _)) = _
    rw [dep_mk, rrr_d, rrr_a, rrr_b]
  · refine row 1 t (opW 0x21 2) (rrr d a b) rfl rfl ?_
    change some (Instr.xVcmpeq (dep _) 2 (BitVec.extractLsb' 12 6 _) (BitVec.extractLsb' 6 6 _) (BitVec.extractLsb' 0 6 _)) = _
    rw [dep_mk, rrr_d, rrr_a, rrr_b]
  · refine row 1 t (opW 0x21 3) (rrr d a b) rfl rfl ?_
    change some (Instr.xVcmpeq (dep _) 3 (BitVec.extractLsb' 12 6 _) (BitVec.extractLsb' 6 6 _) (BitVec.extractLsb' 0 6 _)) = _
    rw [dep_mk, rrr_d, rrr_a, rrr_b]

theorem xVcmplt (t : BitVec 4) (w : BitVec 2) (d : BitVec 6) (a : BitVec 6) (b : BitVec 6) : Statement (.xVcmplt t w d a b) := by
  refine cases_two (P := fun w => Statement (.xVcmplt t w d a b)) ?_ ?_ ?_ ?_ w
  · refine row 1 t (opW 0x22 0) (rrr d a b) rfl rfl ?_
    change some (Instr.xVcmplt (dep _) 0 (BitVec.extractLsb' 12 6 _) (BitVec.extractLsb' 6 6 _) (BitVec.extractLsb' 0 6 _)) = _
    rw [dep_mk, rrr_d, rrr_a, rrr_b]
  · refine row 1 t (opW 0x22 1) (rrr d a b) rfl rfl ?_
    change some (Instr.xVcmplt (dep _) 1 (BitVec.extractLsb' 12 6 _) (BitVec.extractLsb' 6 6 _) (BitVec.extractLsb' 0 6 _)) = _
    rw [dep_mk, rrr_d, rrr_a, rrr_b]
  · refine row 1 t (opW 0x22 2) (rrr d a b) rfl rfl ?_
    change some (Instr.xVcmplt (dep _) 2 (BitVec.extractLsb' 12 6 _) (BitVec.extractLsb' 6 6 _) (BitVec.extractLsb' 0 6 _)) = _
    rw [dep_mk, rrr_d, rrr_a, rrr_b]
  · refine row 1 t (opW 0x22 3) (rrr d a b) rfl rfl ?_
    change some (Instr.xVcmplt (dep _) 3 (BitVec.extractLsb' 12 6 _) (BitVec.extractLsb' 6 6 _) (BitVec.extractLsb' 0 6 _)) = _
    rw [dep_mk, rrr_d, rrr_a, rrr_b]

theorem xVcmpltu (t : BitVec 4) (w : BitVec 2) (d : BitVec 6) (a : BitVec 6) (b : BitVec 6) : Statement (.xVcmpltu t w d a b) := by
  refine cases_two (P := fun w => Statement (.xVcmpltu t w d a b)) ?_ ?_ ?_ ?_ w
  · refine row 1 t (opW 0x23 0) (rrr d a b) rfl rfl ?_
    change some (Instr.xVcmpltu (dep _) 0 (BitVec.extractLsb' 12 6 _) (BitVec.extractLsb' 6 6 _) (BitVec.extractLsb' 0 6 _)) = _
    rw [dep_mk, rrr_d, rrr_a, rrr_b]
  · refine row 1 t (opW 0x23 1) (rrr d a b) rfl rfl ?_
    change some (Instr.xVcmpltu (dep _) 1 (BitVec.extractLsb' 12 6 _) (BitVec.extractLsb' 6 6 _) (BitVec.extractLsb' 0 6 _)) = _
    rw [dep_mk, rrr_d, rrr_a, rrr_b]
  · refine row 1 t (opW 0x23 2) (rrr d a b) rfl rfl ?_
    change some (Instr.xVcmpltu (dep _) 2 (BitVec.extractLsb' 12 6 _) (BitVec.extractLsb' 6 6 _) (BitVec.extractLsb' 0 6 _)) = _
    rw [dep_mk, rrr_d, rrr_a, rrr_b]
  · refine row 1 t (opW 0x23 3) (rrr d a b) rfl rfl ?_
    change some (Instr.xVcmpltu (dep _) 3 (BitVec.extractLsb' 12 6 _) (BitVec.extractLsb' 6 6 _) (BitVec.extractLsb' 0 6 _)) = _
    rw [dep_mk, rrr_d, rrr_a, rrr_b]

theorem xVwadd (t : BitVec 4) (w : BitVec 2) (d : BitVec 6) (a : BitVec 6) (b : BitVec 6) : Statement (.xVwadd t w d a b) := by
  refine cases_two (P := fun w => Statement (.xVwadd t w d a b)) ?_ ?_ ?_ ?_ w
  · refine row 1 t (opW 0x24 0) (rrr d a b) rfl rfl ?_
    change some (Instr.xVwadd (dep _) 0 (BitVec.extractLsb' 12 6 _) (BitVec.extractLsb' 6 6 _) (BitVec.extractLsb' 0 6 _)) = _
    rw [dep_mk, rrr_d, rrr_a, rrr_b]
  · refine row 1 t (opW 0x24 1) (rrr d a b) rfl rfl ?_
    change some (Instr.xVwadd (dep _) 1 (BitVec.extractLsb' 12 6 _) (BitVec.extractLsb' 6 6 _) (BitVec.extractLsb' 0 6 _)) = _
    rw [dep_mk, rrr_d, rrr_a, rrr_b]
  · refine row 1 t (opW 0x24 2) (rrr d a b) rfl rfl ?_
    change some (Instr.xVwadd (dep _) 2 (BitVec.extractLsb' 12 6 _) (BitVec.extractLsb' 6 6 _) (BitVec.extractLsb' 0 6 _)) = _
    rw [dep_mk, rrr_d, rrr_a, rrr_b]
  · refine row 1 t (opW 0x24 3) (rrr d a b) rfl rfl ?_
    change some (Instr.xVwadd (dep _) 3 (BitVec.extractLsb' 12 6 _) (BitVec.extractLsb' 6 6 _) (BitVec.extractLsb' 0 6 _)) = _
    rw [dep_mk, rrr_d, rrr_a, rrr_b]

theorem xVwmul (t : BitVec 4) (w : BitVec 2) (d : BitVec 6) (a : BitVec 6) (b : BitVec 6) : Statement (.xVwmul t w d a b) := by
  refine cases_two (P := fun w => Statement (.xVwmul t w d a b)) ?_ ?_ ?_ ?_ w
  · refine row 1 t (opW 0x25 0) (rrr d a b) rfl rfl ?_
    change some (Instr.xVwmul (dep _) 0 (BitVec.extractLsb' 12 6 _) (BitVec.extractLsb' 6 6 _) (BitVec.extractLsb' 0 6 _)) = _
    rw [dep_mk, rrr_d, rrr_a, rrr_b]
  · refine row 1 t (opW 0x25 1) (rrr d a b) rfl rfl ?_
    change some (Instr.xVwmul (dep _) 1 (BitVec.extractLsb' 12 6 _) (BitVec.extractLsb' 6 6 _) (BitVec.extractLsb' 0 6 _)) = _
    rw [dep_mk, rrr_d, rrr_a, rrr_b]
  · refine row 1 t (opW 0x25 2) (rrr d a b) rfl rfl ?_
    change some (Instr.xVwmul (dep _) 2 (BitVec.extractLsb' 12 6 _) (BitVec.extractLsb' 6 6 _) (BitVec.extractLsb' 0 6 _)) = _
    rw [dep_mk, rrr_d, rrr_a, rrr_b]
  · refine row 1 t (opW 0x25 3) (rrr d a b) rfl rfl ?_
    change some (Instr.xVwmul (dep _) 3 (BitVec.extractLsb' 12 6 _) (BitVec.extractLsb' 6 6 _) (BitVec.extractLsb' 0 6 _)) = _
    rw [dep_mk, rrr_d, rrr_a, rrr_b]

theorem xVnarrow (t : BitVec 4) (w : BitVec 2) (d : BitVec 6) (a : BitVec 6) : Statement (.xVnarrow t w d a) := by
  refine cases_two (P := fun w => Statement (.xVnarrow t w d a)) ?_ ?_ ?_ ?_ w
  · refine row 1 t (opW 0x26 0) (rrr d a 0) rfl rfl ?_
    change some (Instr.xVnarrow (dep _) 0 (BitVec.extractLsb' 12 6 _) (BitVec.extractLsb' 6 6 _)) = _
    rw [dep_mk, rrr_d, rrr_a]
  · refine row 1 t (opW 0x26 1) (rrr d a 0) rfl rfl ?_
    change some (Instr.xVnarrow (dep _) 1 (BitVec.extractLsb' 12 6 _) (BitVec.extractLsb' 6 6 _)) = _
    rw [dep_mk, rrr_d, rrr_a]
  · refine row 1 t (opW 0x26 2) (rrr d a 0) rfl rfl ?_
    change some (Instr.xVnarrow (dep _) 2 (BitVec.extractLsb' 12 6 _) (BitVec.extractLsb' 6 6 _)) = _
    rw [dep_mk, rrr_d, rrr_a]
  · refine row 1 t (opW 0x26 3) (rrr d a 0) rfl rfl ?_
    change some (Instr.xVnarrow (dep _) 3 (BitVec.extractLsb' 12 6 _) (BitVec.extractLsb' 6 6 _)) = _
    rw [dep_mk, rrr_d, rrr_a]

theorem xVredadd (t : BitVec 4) (w : BitVec 2) (d : BitVec 6) (a : BitVec 6) : Statement (.xVredadd t w d a) := by
  refine cases_two (P := fun w => Statement (.xVredadd t w d a)) ?_ ?_ ?_ ?_ w
  · refine row 1 t (opW 0x27 0) (rrr d a 0) rfl rfl ?_
    change some (Instr.xVredadd (dep _) 0 (BitVec.extractLsb' 12 6 _) (BitVec.extractLsb' 6 6 _)) = _
    rw [dep_mk, rrr_d, rrr_a]
  · refine row 1 t (opW 0x27 1) (rrr d a 0) rfl rfl ?_
    change some (Instr.xVredadd (dep _) 1 (BitVec.extractLsb' 12 6 _) (BitVec.extractLsb' 6 6 _)) = _
    rw [dep_mk, rrr_d, rrr_a]
  · refine row 1 t (opW 0x27 2) (rrr d a 0) rfl rfl ?_
    change some (Instr.xVredadd (dep _) 2 (BitVec.extractLsb' 12 6 _) (BitVec.extractLsb' 6 6 _)) = _
    rw [dep_mk, rrr_d, rrr_a]
  · refine row 1 t (opW 0x27 3) (rrr d a 0) rfl rfl ?_
    change some (Instr.xVredadd (dep _) 3 (BitVec.extractLsb' 12 6 _) (BitVec.extractLsb' 6 6 _)) = _
    rw [dep_mk, rrr_d, rrr_a]

theorem xVsel (t : BitVec 4) (d : BitVec 6) (a : BitVec 6) (b : BitVec 6) : Statement (.xVsel t d a b) := by
  refine row 1 t 0xA0 (rrr d a b) rfl rfl ?_
  change some (Instr.xVsel (dep _) (BitVec.extractLsb' 12 6 _) (BitVec.extractLsb' 6 6 _) (BitVec.extractLsb' 0 6 _)) = _
  rw [dep_mk, rrr_d, rrr_a, rrr_b]

theorem xVperm (t : BitVec 4) (d : BitVec 6) (a : BitVec 6) (b : BitVec 6) : Statement (.xVperm t d a b) := by
  refine row 1 t 0xA1 (rrr d a b) rfl rfl ?_
  change some (Instr.xVperm (dep _) (BitVec.extractLsb' 12 6 _) (BitVec.extractLsb' 6 6 _) (BitVec.extractLsb' 0 6 _)) = _
  rw [dep_mk, rrr_d, rrr_a, rrr_b]

theorem xVmov (t : BitVec 4) (d : BitVec 6) (a : BitVec 6) : Statement (.xVmov t d a) := by
  refine row 1 t 0xA2 (rrr d a 0) rfl rfl ?_
  change some (Instr.xVmov (dep _) (BitVec.extractLsb' 12 6 _) (BitVec.extractLsb' 6 6 _)) = _
  rw [dep_mk, rrr_d, rrr_a]

theorem xVrot (t : BitVec 4) (w : BitVec 2) (d : BitVec 6) (a : BitVec 6) (b : BitVec 6) : Statement (.xVrot t w d a b) := by
  refine cases_two (P := fun w => Statement (.xVrot t w d a b)) ?_ ?_ ?_ ?_ w
  · refine row 1 t (opW 0x29 0) (rrr d a b) rfl rfl ?_
    change some (Instr.xVrot (dep _) 0 (BitVec.extractLsb' 12 6 _) (BitVec.extractLsb' 6 6 _) (BitVec.extractLsb' 0 6 _)) = _
    rw [dep_mk, rrr_d, rrr_a, rrr_b]
  · refine row 1 t (opW 0x29 1) (rrr d a b) rfl rfl ?_
    change some (Instr.xVrot (dep _) 1 (BitVec.extractLsb' 12 6 _) (BitVec.extractLsb' 6 6 _) (BitVec.extractLsb' 0 6 _)) = _
    rw [dep_mk, rrr_d, rrr_a, rrr_b]
  · refine row 1 t (opW 0x29 2) (rrr d a b) rfl rfl ?_
    change some (Instr.xVrot (dep _) 2 (BitVec.extractLsb' 12 6 _) (BitVec.extractLsb' 6 6 _) (BitVec.extractLsb' 0 6 _)) = _
    rw [dep_mk, rrr_d, rrr_a, rrr_b]
  · refine row 1 t (opW 0x29 3) (rrr d a b) rfl rfl ?_
    change some (Instr.xVrot (dep _) 3 (BitVec.extractLsb' 12 6 _) (BitVec.extractLsb' 6 6 _) (BitVec.extractLsb' 0 6 _)) = _
    rw [dep_mk, rrr_d, rrr_a, rrr_b]

theorem xVbcast (t : BitVec 4) (w : BitVec 2) (d : BitVec 6) (a : BitVec 6) : Statement (.xVbcast t w d a) := by
  refine cases_two (P := fun w => Statement (.xVbcast t w d a)) ?_ ?_ ?_ ?_ w
  · refine row 1 t (opW 0x2A 0) (rrr d a 0) rfl rfl ?_
    change some (Instr.xVbcast (dep _) 0 (BitVec.extractLsb' 12 6 _) (BitVec.extractLsb' 6 6 _)) = _
    rw [dep_mk, rrr_d, rrr_a]
  · refine row 1 t (opW 0x2A 1) (rrr d a 0) rfl rfl ?_
    change some (Instr.xVbcast (dep _) 1 (BitVec.extractLsb' 12 6 _) (BitVec.extractLsb' 6 6 _)) = _
    rw [dep_mk, rrr_d, rrr_a]
  · refine row 1 t (opW 0x2A 2) (rrr d a 0) rfl rfl ?_
    change some (Instr.xVbcast (dep _) 2 (BitVec.extractLsb' 12 6 _) (BitVec.extractLsb' 6 6 _)) = _
    rw [dep_mk, rrr_d, rrr_a]
  · refine row 1 t (opW 0x2A 3) (rrr d a 0) rfl rfl ?_
    change some (Instr.xVbcast (dep _) 3 (BitVec.extractLsb' 12 6 _) (BitVec.extractLsb' 6 6 _)) = _
    rw [dep_mk, rrr_d, rrr_a]

theorem xVext (t : BitVec 4) (w : BitVec 2) (d : BitVec 6) (a : BitVec 6) (b : BitVec 6) : Statement (.xVext t w d a b) := by
  refine cases_two (P := fun w => Statement (.xVext t w d a b)) ?_ ?_ ?_ ?_ w
  · refine row 1 t (opW 0x2B 0) (rrr d a b) rfl rfl ?_
    change some (Instr.xVext (dep _) 0 (BitVec.extractLsb' 12 6 _) (BitVec.extractLsb' 6 6 _) (BitVec.extractLsb' 0 6 _)) = _
    rw [dep_mk, rrr_d, rrr_a, rrr_b]
  · refine row 1 t (opW 0x2B 1) (rrr d a b) rfl rfl ?_
    change some (Instr.xVext (dep _) 1 (BitVec.extractLsb' 12 6 _) (BitVec.extractLsb' 6 6 _) (BitVec.extractLsb' 0 6 _)) = _
    rw [dep_mk, rrr_d, rrr_a, rrr_b]
  · refine row 1 t (opW 0x2B 2) (rrr d a b) rfl rfl ?_
    change some (Instr.xVext (dep _) 2 (BitVec.extractLsb' 12 6 _) (BitVec.extractLsb' 6 6 _) (BitVec.extractLsb' 0 6 _)) = _
    rw [dep_mk, rrr_d, rrr_a, rrr_b]
  · refine row 1 t (opW 0x2B 3) (rrr d a b) rfl rfl ?_
    change some (Instr.xVext (dep _) 3 (BitVec.extractLsb' 12 6 _) (BitVec.extractLsb' 6 6 _) (BitVec.extractLsb' 0 6 _)) = _
    rw [dep_mk, rrr_d, rrr_a, rrr_b]

theorem xVins (t : BitVec 4) (w : BitVec 2) (d : BitVec 6) (a : BitVec 6) (b : BitVec 6) : Statement (.xVins t w d a b) := by
  refine cases_two (P := fun w => Statement (.xVins t w d a b)) ?_ ?_ ?_ ?_ w
  · refine row 1 t (opW 0x2C 0) (rrr d a b) rfl rfl ?_
    change some (Instr.xVins (dep _) 0 (BitVec.extractLsb' 12 6 _) (BitVec.extractLsb' 6 6 _) (BitVec.extractLsb' 0 6 _)) = _
    rw [dep_mk, rrr_d, rrr_a, rrr_b]
  · refine row 1 t (opW 0x2C 1) (rrr d a b) rfl rfl ?_
    change some (Instr.xVins (dep _) 1 (BitVec.extractLsb' 12 6 _) (BitVec.extractLsb' 6 6 _) (BitVec.extractLsb' 0 6 _)) = _
    rw [dep_mk, rrr_d, rrr_a, rrr_b]
  · refine row 1 t (opW 0x2C 2) (rrr d a b) rfl rfl ?_
    change some (Instr.xVins (dep _) 2 (BitVec.extractLsb' 12 6 _) (BitVec.extractLsb' 6 6 _) (BitVec.extractLsb' 0 6 _)) = _
    rw [dep_mk, rrr_d, rrr_a, rrr_b]
  · refine row 1 t (opW 0x2C 3) (rrr d a b) rfl rfl ?_
    change some (Instr.xVins (dep _) 3 (BitVec.extractLsb' 12 6 _) (BitVec.extractLsb' 6 6 _) (BitVec.extractLsb' 0 6 _)) = _
    rw [dep_mk, rrr_d, rrr_a, rrr_b]

theorem xVfadd (t : BitVec 4) (f : BitVec 2) (d : BitVec 6) (a : BitVec 6) (b : BitVec 6) : Statement (.xVfadd t f d a b) := by
  refine cases_two (P := fun f => Statement (.xVfadd t f d a b)) ?_ ?_ ?_ ?_ f
  · refine row 1 t (opW 0x30 0) (rrr d a b) rfl rfl ?_
    change some (Instr.xVfadd (dep _) 0 (BitVec.extractLsb' 12 6 _) (BitVec.extractLsb' 6 6 _) (BitVec.extractLsb' 0 6 _)) = _
    rw [dep_mk, rrr_d, rrr_a, rrr_b]
  · refine row 1 t (opW 0x30 1) (rrr d a b) rfl rfl ?_
    change some (Instr.xVfadd (dep _) 1 (BitVec.extractLsb' 12 6 _) (BitVec.extractLsb' 6 6 _) (BitVec.extractLsb' 0 6 _)) = _
    rw [dep_mk, rrr_d, rrr_a, rrr_b]
  · refine row 1 t (opW 0x30 2) (rrr d a b) rfl rfl ?_
    change some (Instr.xVfadd (dep _) 2 (BitVec.extractLsb' 12 6 _) (BitVec.extractLsb' 6 6 _) (BitVec.extractLsb' 0 6 _)) = _
    rw [dep_mk, rrr_d, rrr_a, rrr_b]
  · refine row 1 t (opW 0x30 3) (rrr d a b) rfl rfl ?_
    change some (Instr.xVfadd (dep _) 3 (BitVec.extractLsb' 12 6 _) (BitVec.extractLsb' 6 6 _) (BitVec.extractLsb' 0 6 _)) = _
    rw [dep_mk, rrr_d, rrr_a, rrr_b]

theorem xVfsub (t : BitVec 4) (f : BitVec 2) (d : BitVec 6) (a : BitVec 6) (b : BitVec 6) : Statement (.xVfsub t f d a b) := by
  refine cases_two (P := fun f => Statement (.xVfsub t f d a b)) ?_ ?_ ?_ ?_ f
  · refine row 1 t (opW 0x31 0) (rrr d a b) rfl rfl ?_
    change some (Instr.xVfsub (dep _) 0 (BitVec.extractLsb' 12 6 _) (BitVec.extractLsb' 6 6 _) (BitVec.extractLsb' 0 6 _)) = _
    rw [dep_mk, rrr_d, rrr_a, rrr_b]
  · refine row 1 t (opW 0x31 1) (rrr d a b) rfl rfl ?_
    change some (Instr.xVfsub (dep _) 1 (BitVec.extractLsb' 12 6 _) (BitVec.extractLsb' 6 6 _) (BitVec.extractLsb' 0 6 _)) = _
    rw [dep_mk, rrr_d, rrr_a, rrr_b]
  · refine row 1 t (opW 0x31 2) (rrr d a b) rfl rfl ?_
    change some (Instr.xVfsub (dep _) 2 (BitVec.extractLsb' 12 6 _) (BitVec.extractLsb' 6 6 _) (BitVec.extractLsb' 0 6 _)) = _
    rw [dep_mk, rrr_d, rrr_a, rrr_b]
  · refine row 1 t (opW 0x31 3) (rrr d a b) rfl rfl ?_
    change some (Instr.xVfsub (dep _) 3 (BitVec.extractLsb' 12 6 _) (BitVec.extractLsb' 6 6 _) (BitVec.extractLsb' 0 6 _)) = _
    rw [dep_mk, rrr_d, rrr_a, rrr_b]

theorem xVfmul (t : BitVec 4) (f : BitVec 2) (d : BitVec 6) (a : BitVec 6) (b : BitVec 6) : Statement (.xVfmul t f d a b) := by
  refine cases_two (P := fun f => Statement (.xVfmul t f d a b)) ?_ ?_ ?_ ?_ f
  · refine row 1 t (opW 0x32 0) (rrr d a b) rfl rfl ?_
    change some (Instr.xVfmul (dep _) 0 (BitVec.extractLsb' 12 6 _) (BitVec.extractLsb' 6 6 _) (BitVec.extractLsb' 0 6 _)) = _
    rw [dep_mk, rrr_d, rrr_a, rrr_b]
  · refine row 1 t (opW 0x32 1) (rrr d a b) rfl rfl ?_
    change some (Instr.xVfmul (dep _) 1 (BitVec.extractLsb' 12 6 _) (BitVec.extractLsb' 6 6 _) (BitVec.extractLsb' 0 6 _)) = _
    rw [dep_mk, rrr_d, rrr_a, rrr_b]
  · refine row 1 t (opW 0x32 2) (rrr d a b) rfl rfl ?_
    change some (Instr.xVfmul (dep _) 2 (BitVec.extractLsb' 12 6 _) (BitVec.extractLsb' 6 6 _) (BitVec.extractLsb' 0 6 _)) = _
    rw [dep_mk, rrr_d, rrr_a, rrr_b]
  · refine row 1 t (opW 0x32 3) (rrr d a b) rfl rfl ?_
    change some (Instr.xVfmul (dep _) 3 (BitVec.extractLsb' 12 6 _) (BitVec.extractLsb' 6 6 _) (BitVec.extractLsb' 0 6 _)) = _
    rw [dep_mk, rrr_d, rrr_a, rrr_b]

theorem xVfma (t : BitVec 4) (f : BitVec 2) (d : BitVec 6) (a : BitVec 6) (b : BitVec 6) : Statement (.xVfma t f d a b) := by
  refine cases_two (P := fun f => Statement (.xVfma t f d a b)) ?_ ?_ ?_ ?_ f
  · refine row 1 t (opW 0x33 0) (rrr d a b) rfl rfl ?_
    change some (Instr.xVfma (dep _) 0 (BitVec.extractLsb' 12 6 _) (BitVec.extractLsb' 6 6 _) (BitVec.extractLsb' 0 6 _)) = _
    rw [dep_mk, rrr_d, rrr_a, rrr_b]
  · refine row 1 t (opW 0x33 1) (rrr d a b) rfl rfl ?_
    change some (Instr.xVfma (dep _) 1 (BitVec.extractLsb' 12 6 _) (BitVec.extractLsb' 6 6 _) (BitVec.extractLsb' 0 6 _)) = _
    rw [dep_mk, rrr_d, rrr_a, rrr_b]
  · refine row 1 t (opW 0x33 2) (rrr d a b) rfl rfl ?_
    change some (Instr.xVfma (dep _) 2 (BitVec.extractLsb' 12 6 _) (BitVec.extractLsb' 6 6 _) (BitVec.extractLsb' 0 6 _)) = _
    rw [dep_mk, rrr_d, rrr_a, rrr_b]
  · refine row 1 t (opW 0x33 3) (rrr d a b) rfl rfl ?_
    change some (Instr.xVfma (dep _) 3 (BitVec.extractLsb' 12 6 _) (BitVec.extractLsb' 6 6 _) (BitVec.extractLsb' 0 6 _)) = _
    rw [dep_mk, rrr_d, rrr_a, rrr_b]

theorem xVfmin (t : BitVec 4) (f : BitVec 2) (d : BitVec 6) (a : BitVec 6) (b : BitVec 6) : Statement (.xVfmin t f d a b) := by
  refine cases_two (P := fun f => Statement (.xVfmin t f d a b)) ?_ ?_ ?_ ?_ f
  · refine row 1 t (opW 0x34 0) (rrr d a b) rfl rfl ?_
    change some (Instr.xVfmin (dep _) 0 (BitVec.extractLsb' 12 6 _) (BitVec.extractLsb' 6 6 _) (BitVec.extractLsb' 0 6 _)) = _
    rw [dep_mk, rrr_d, rrr_a, rrr_b]
  · refine row 1 t (opW 0x34 1) (rrr d a b) rfl rfl ?_
    change some (Instr.xVfmin (dep _) 1 (BitVec.extractLsb' 12 6 _) (BitVec.extractLsb' 6 6 _) (BitVec.extractLsb' 0 6 _)) = _
    rw [dep_mk, rrr_d, rrr_a, rrr_b]
  · refine row 1 t (opW 0x34 2) (rrr d a b) rfl rfl ?_
    change some (Instr.xVfmin (dep _) 2 (BitVec.extractLsb' 12 6 _) (BitVec.extractLsb' 6 6 _) (BitVec.extractLsb' 0 6 _)) = _
    rw [dep_mk, rrr_d, rrr_a, rrr_b]
  · refine row 1 t (opW 0x34 3) (rrr d a b) rfl rfl ?_
    change some (Instr.xVfmin (dep _) 3 (BitVec.extractLsb' 12 6 _) (BitVec.extractLsb' 6 6 _) (BitVec.extractLsb' 0 6 _)) = _
    rw [dep_mk, rrr_d, rrr_a, rrr_b]

theorem xVfmax (t : BitVec 4) (f : BitVec 2) (d : BitVec 6) (a : BitVec 6) (b : BitVec 6) : Statement (.xVfmax t f d a b) := by
  refine cases_two (P := fun f => Statement (.xVfmax t f d a b)) ?_ ?_ ?_ ?_ f
  · refine row 1 t (opW 0x35 0) (rrr d a b) rfl rfl ?_
    change some (Instr.xVfmax (dep _) 0 (BitVec.extractLsb' 12 6 _) (BitVec.extractLsb' 6 6 _) (BitVec.extractLsb' 0 6 _)) = _
    rw [dep_mk, rrr_d, rrr_a, rrr_b]
  · refine row 1 t (opW 0x35 1) (rrr d a b) rfl rfl ?_
    change some (Instr.xVfmax (dep _) 1 (BitVec.extractLsb' 12 6 _) (BitVec.extractLsb' 6 6 _) (BitVec.extractLsb' 0 6 _)) = _
    rw [dep_mk, rrr_d, rrr_a, rrr_b]
  · refine row 1 t (opW 0x35 2) (rrr d a b) rfl rfl ?_
    change some (Instr.xVfmax (dep _) 2 (BitVec.extractLsb' 12 6 _) (BitVec.extractLsb' 6 6 _) (BitVec.extractLsb' 0 6 _)) = _
    rw [dep_mk, rrr_d, rrr_a, rrr_b]
  · refine row 1 t (opW 0x35 3) (rrr d a b) rfl rfl ?_
    change some (Instr.xVfmax (dep _) 3 (BitVec.extractLsb' 12 6 _) (BitVec.extractLsb' 6 6 _) (BitVec.extractLsb' 0 6 _)) = _
    rw [dep_mk, rrr_d, rrr_a, rrr_b]

theorem xVfcmp (t : BitVec 4) (f : BitVec 2) (d : BitVec 6) (a : BitVec 6) (b : BitVec 6) : Statement (.xVfcmp t f d a b) := by
  refine cases_two (P := fun f => Statement (.xVfcmp t f d a b)) ?_ ?_ ?_ ?_ f
  · refine row 1 t (opW 0x36 0) (rrr d a b) rfl rfl ?_
    change some (Instr.xVfcmp (dep _) 0 (BitVec.extractLsb' 12 6 _) (BitVec.extractLsb' 6 6 _) (BitVec.extractLsb' 0 6 _)) = _
    rw [dep_mk, rrr_d, rrr_a, rrr_b]
  · refine row 1 t (opW 0x36 1) (rrr d a b) rfl rfl ?_
    change some (Instr.xVfcmp (dep _) 1 (BitVec.extractLsb' 12 6 _) (BitVec.extractLsb' 6 6 _) (BitVec.extractLsb' 0 6 _)) = _
    rw [dep_mk, rrr_d, rrr_a, rrr_b]
  · refine row 1 t (opW 0x36 2) (rrr d a b) rfl rfl ?_
    change some (Instr.xVfcmp (dep _) 2 (BitVec.extractLsb' 12 6 _) (BitVec.extractLsb' 6 6 _) (BitVec.extractLsb' 0 6 _)) = _
    rw [dep_mk, rrr_d, rrr_a, rrr_b]
  · refine row 1 t (opW 0x36 3) (rrr d a b) rfl rfl ?_
    change some (Instr.xVfcmp (dep _) 3 (BitVec.extractLsb' 12 6 _) (BitVec.extractLsb' 6 6 _) (BitVec.extractLsb' 0 6 _)) = _
    rw [dep_mk, rrr_d, rrr_a, rrr_b]

theorem xVfcvt (t : BitVec 4) (d : BitVec 6) (a : BitVec 6) : Statement (.xVfcvt t d a) := by
  refine row 1 t 0xDC (rrr d a 0) rfl rfl ?_
  change some (Instr.xVfcvt (dep _) (BitVec.extractLsb' 12 6 _) (BitVec.extractLsb' 6 6 _)) = _
  rw [dep_mk, rrr_d, rrr_a]

theorem xVrcp (t : BitVec 4) (d : BitVec 6) (a : BitVec 6) : Statement (.xVrcp t d a) := by
  refine row 1 t 0xE0 (rrr d a 0) rfl rfl ?_
  change some (Instr.xVrcp (dep _) (BitVec.extractLsb' 12 6 _) (BitVec.extractLsb' 6 6 _)) = _
  rw [dep_mk, rrr_d, rrr_a]

theorem xVrsq (t : BitVec 4) (d : BitVec 6) (a : BitVec 6) : Statement (.xVrsq t d a) := by
  refine row 1 t 0xE1 (rrr d a 0) rfl rfl ?_
  change some (Instr.xVrsq (dep _) (BitVec.extractLsb' 12 6 _) (BitVec.extractLsb' 6 6 _)) = _
  rw [dep_mk, rrr_d, rrr_a]

theorem xVrcpstep (t : BitVec 4) (d : BitVec 6) (a : BitVec 6) : Statement (.xVrcpstep t d a) := by
  refine row 1 t 0xE2 (rrr d a 0) rfl rfl ?_
  change some (Instr.xVrcpstep (dep _) (BitVec.extractLsb' 12 6 _) (BitVec.extractLsb' 6 6 _)) = _
  rw [dep_mk, rrr_d, rrr_a]

theorem xVrsqstep (t : BitVec 4) (d : BitVec 6) (a : BitVec 6) : Statement (.xVrsqstep t d a) := by
  refine row 1 t 0xE3 (rrr d a 0) rfl rfl ?_
  change some (Instr.xVrsqstep (dep _) (BitVec.extractLsb' 12 6 _) (BitVec.extractLsb' 6 6 _)) = _
  rw [dep_mk, rrr_d, rrr_a]

theorem xVexp2 (t : BitVec 4) (d : BitVec 6) (a : BitVec 6) : Statement (.xVexp2 t d a) := by
  refine row 1 t 0xE4 (rrr d a 0) rfl rfl ?_
  change some (Instr.xVexp2 (dep _) (BitVec.extractLsb' 12 6 _) (BitVec.extractLsb' 6 6 _)) = _
  rw [dep_mk, rrr_d, rrr_a]

theorem xVlog2 (t : BitVec 4) (d : BitVec 6) (a : BitVec 6) : Statement (.xVlog2 t d a) := by
  refine row 1 t 0xE5 (rrr d a 0) rfl rfl ?_
  change some (Instr.xVlog2 (dep _) (BitVec.extractLsb' 12 6 _) (BitVec.extractLsb' 6 6 _)) = _
  rw [dep_mk, rrr_d, rrr_a]

theorem xVqscale (t : BitVec 4) (d : BitVec 6) (a : BitVec 6) (b : BitVec 6) : Statement (.xVqscale t d a b) := by
  refine row 1 t 0xE6 (rrr d a b) rfl rfl ?_
  change some (Instr.xVqscale (dep _) (BitVec.extractLsb' 12 6 _) (BitVec.extractLsb' 6 6 _) (BitVec.extractLsb' 0 6 _)) = _
  rw [dep_mk, rrr_d, rrr_a, rrr_b]

theorem xVqpack (t : BitVec 4) (d : BitVec 6) (a : BitVec 6) (b : BitVec 6) : Statement (.xVqpack t d a b) := by
  refine row 1 t 0xE7 (rrr d a b) rfl rfl ?_
  change some (Instr.xVqpack (dep _) (BitVec.extractLsb' 12 6 _) (BitVec.extractLsb' 6 6 _) (BitVec.extractLsb' 0 6 _)) = _
  rw [dep_mk, rrr_d, rrr_a, rrr_b]

theorem xVqunpk (t : BitVec 4) (d : BitVec 6) (a : BitVec 6) (b : BitVec 6) : Statement (.xVqunpk t d a b) := by
  refine row 1 t 0xE8 (rrr d a b) rfl rfl ?_
  change some (Instr.xVqunpk (dep _) (BitVec.extractLsb' 12 6 _) (BitVec.extractLsb' 6 6 _) (BitVec.extractLsb' 0 6 _)) = _
  rw [dep_mk, rrr_d, rrr_a, rrr_b]

theorem xVfredadd (t : BitVec 4) (d : BitVec 6) (a : BitVec 6) : Statement (.xVfredadd t d a) := by
  refine row 1 t 0xE9 (rrr d a 0) rfl rfl ?_
  change some (Instr.xVfredadd (dep _) (BitVec.extractLsb' 12 6 _) (BitVec.extractLsb' 6 6 _)) = _
  rw [dep_mk, rrr_d, rrr_a]

theorem xVfabs (t : BitVec 4) (d : BitVec 6) (a : BitVec 6) : Statement (.xVfabs t d a) := by
  refine row 1 t 0xEA (rrr d a 0) rfl rfl ?_
  change some (Instr.xVfabs (dep _) (BitVec.extractLsb' 12 6 _) (BitVec.extractLsb' 6 6 _)) = _
  rw [dep_mk, rrr_d, rrr_a]

theorem xVfneg (t : BitVec 4) (d : BitVec 6) (a : BitVec 6) : Statement (.xVfneg t d a) := by
  refine row 1 t 0xEB (rrr d a 0) rfl rfl ?_
  change some (Instr.xVfneg (dep _) (BitVec.extractLsb' 12 6 _) (BitVec.extractLsb' 6 6 _)) = _
  rw [dep_mk, rrr_d, rrr_a]

theorem mNop (t : BitVec 4) : Statement (.mNop t) := by
  refine row 2 t 0x01 (0) rfl rfl ?_
  change some (Instr.mNop (dep _)) = _
  rw [dep_mk]

theorem mMset (t : BitVec 4) (d : BitVec 6) (i : BitVec 12) : Statement (.mMset t d i) := by
  refine row 2 t 0x10 (ri d i) rfl rfl ?_
  change some (Instr.mMset (dep _) (BitVec.extractLsb' 12 6 _) (BitVec.extractLsb' 0 12 _)) = _
  rw [dep_mk, ri_d, ri_i]

theorem mMadd (t : BitVec 4) (d : BitVec 6) (a : BitVec 6) (b : BitVec 6) : Statement (.mMadd t d a b) := by
  refine row 2 t 0x11 (rrr d a b) rfl rfl ?_
  change some (Instr.mMadd (dep _) (BitVec.extractLsb' 12 6 _) (BitVec.extractLsb' 6 6 _) (BitVec.extractLsb' 0 6 _)) = _
  rw [dep_mk, rrr_d, rrr_a, rrr_b]

theorem mMpop (t : BitVec 4) (d : BitVec 6) : Statement (.mMpop t d) := by
  refine row 2 t 0x12 (d ++ (0 : BitVec 12)) rfl rfl ?_
  change some (Instr.mMpop (dep _) (BitVec.extractLsb' 12 6 _)) = _
  rw [dep_mk, show (mk 2 t 0x12 (d ++ (0 : BitVec 12))).extractLsb' 12 6 = d from
      (mk_low _ _ _ _ 12 6 (by decide)).trans
        ((app_high (k := 0) _ _ 12 6 (by decide) rfl).trans (BitVec.extractLsb'_eq_self))]

theorem mMlc (t : BitVec 4) (d : BitVec 6) (l : BitVec 4) : Statement (.mMlc t d l) := by
  refine row 2 t 0x13 (d ++ (0 : BitVec 8) ++ l) rfl rfl ?_
  change some (Instr.mMlc (dep _) (BitVec.extractLsb' 12 6 _) (BitVec.extractLsb' 0 4 _)) = _
  rw [dep_mk, show (mk 2 t 0x13 (d ++ (0 : BitVec 8) ++ l)).extractLsb' 12 6 = d from
      (mk_low _ _ _ _ 12 6 (by decide)).trans
        ((app_high (k := 8) _ _ 12 6 (by decide) rfl).trans ((app_high (k := 0) _ _ 8 6 (by decide) rfl).trans (BitVec.extractLsb'_eq_self))), show (mk 2 t 0x13 (d ++ (0 : BitVec 8) ++ l)).extractLsb' 0 4 = l from
      (mk_low _ _ _ _ 0 4 (by decide)).trans
        (low_field _ _)]

theorem mMhand (t : BitVec 4) (n : BitVec 4) : Statement (.mMhand t n) := by
  refine row 2 t 0x20 ((0 : BitVec 14) ++ n) rfl rfl ?_
  change some (Instr.mMhand (dep _) (BitVec.extractLsb' 0 4 _)) = _
  rw [dep_mk, show (mk 2 t 0x20 ((0 : BitVec 14) ++ n)).extractLsb' 0 4 = n from
      (mk_low _ _ _ _ 0 4 (by decide)).trans
        (low_field _ _)]

theorem mMrels (t : BitVec 4) : Statement (.mMrels t) := by
  refine row 2 t 0x21 (0) rfl rfl ?_
  change some (Instr.mMrels (dep _)) = _
  rw [dep_mk]

theorem mMshape (t : BitVec 4) (d : BitVec 6) (a : BitVec 6) (b : BitVec 6) : Statement (.mMshape t d a b) := by
  refine row 2 t 0x22 (rrr d a b) rfl rfl ?_
  change some (Instr.mMshape (dep _) (BitVec.extractLsb' 12 6 _) (BitVec.extractLsb' 6 6 _) (BitVec.extractLsb' 0 6 _)) = _
  rw [dep_mk, rrr_d, rrr_a, rrr_b]

theorem mMfmt (t : BitVec 4) (s : BitVec 8) : Statement (.mMfmt t s) := by
  refine row 2 t 0x23 ((0 : BitVec 10) ++ s) rfl rfl ?_
  change some (Instr.mMfmt (dep _) (BitVec.extractLsb' 0 8 _)) = _
  rw [dep_mk, show (mk 2 t 0x23 ((0 : BitVec 10) ++ s)).extractLsb' 0 8 = s from
      (mk_low _ _ _ _ 0 8 (by decide)).trans
        (low_field _ _)]

theorem mMfmtl (t : BitVec 4) (l : BitVec 4) : Statement (.mMfmtl t l) := by
  refine row 2 t 0x24 (l ++ (0 : BitVec 14)) rfl rfl ?_
  change some (Instr.mMfmtl (dep _) (BitVec.extractLsb' 14 4 _)) = _
  rw [dep_mk, show (mk 2 t 0x24 (l ++ (0 : BitVec 14))).extractLsb' 14 4 = l from
      (mk_low _ _ _ _ 14 4 (by decide)).trans
        ((app_high (k := 0) _ _ 14 4 (by decide) rfl).trans (BitVec.extractLsb'_eq_self))]

theorem mMrmode (t : BitVec 4) (m : BitVec 3) (s : BitVec 6) : Statement (.mMrmode t m s) := by
  refine row 2 t 0x25 (m ++ (0 : BitVec 3) ++ s ++ (0 : BitVec 6)) rfl rfl ?_
  change some (Instr.mMrmode (dep _) (BitVec.extractLsb' 15 3 _) (BitVec.extractLsb' 6 6 _)) = _
  rw [dep_mk, show (mk 2 t 0x25 (m ++ (0 : BitVec 3) ++ s ++ (0 : BitVec 6))).extractLsb' 15 3 = m from
      (mk_low _ _ _ _ 15 3 (by decide)).trans
        ((app_high (k := 9) _ _ 15 3 (by decide) rfl).trans ((app_high (k := 3) _ _ 9 3 (by decide) rfl).trans ((app_high (k := 0) _ _ 3 3 (by decide) rfl).trans (BitVec.extractLsb'_eq_self)))), show (mk 2 t 0x25 (m ++ (0 : BitVec 3) ++ s ++ (0 : BitVec 6))).extractLsb' 6 6 = s from
      (mk_low _ _ _ _ 6 6 (by decide)).trans
        ((app_high (k := 0) _ _ 6 6 (by decide) rfl).trans (low_field _ _))]

theorem mMmul (t : BitVec 4) (c : BitVec 3) (a : BitVec 7) (b : BitVec 7) (f : BitVec 1) : Statement (.mMmul t c a b f) := by
  refine row 2 t 0x30 (c ++ a ++ b ++ f) rfl rfl ?_
  change some (Instr.mMmul (dep _) (BitVec.extractLsb' 15 3 _) (BitVec.extractLsb' 8 7 _) (BitVec.extractLsb' 1 7 _) (BitVec.extractLsb' 0 1 _)) = _
  rw [dep_mk, show (mk 2 t 0x30 (c ++ a ++ b ++ f)).extractLsb' 15 3 = c from
      (mk_low _ _ _ _ 15 3 (by decide)).trans
        ((app_high (k := 14) _ _ 15 3 (by decide) rfl).trans ((app_high (k := 7) _ _ 14 3 (by decide) rfl).trans ((app_high (k := 0) _ _ 7 3 (by decide) rfl).trans (BitVec.extractLsb'_eq_self)))), show (mk 2 t 0x30 (c ++ a ++ b ++ f)).extractLsb' 8 7 = a from
      (mk_low _ _ _ _ 8 7 (by decide)).trans
        ((app_high (k := 7) _ _ 8 7 (by decide) rfl).trans ((app_high (k := 0) _ _ 7 7 (by decide) rfl).trans (low_field _ _))), show (mk 2 t 0x30 (c ++ a ++ b ++ f)).extractLsb' 1 7 = b from
      (mk_low _ _ _ _ 1 7 (by decide)).trans
        ((app_high (k := 0) _ _ 1 7 (by decide) rfl).trans (low_field _ _)), show (mk 2 t 0x30 (c ++ a ++ b ++ f)).extractLsb' 0 1 = f from
      (mk_low _ _ _ _ 0 1 (by decide)).trans
        (low_field _ _)]

theorem mMmulk (t : BitVec 4) (c : BitVec 3) (a : BitVec 7) (b : BitVec 7) (f : BitVec 1) : Statement (.mMmulk t c a b f) := by
  refine row 2 t 0x31 (c ++ a ++ b ++ f) rfl rfl ?_
  change some (Instr.mMmulk (dep _) (BitVec.extractLsb' 15 3 _) (BitVec.extractLsb' 8 7 _) (BitVec.extractLsb' 1 7 _) (BitVec.extractLsb' 0 1 _)) = _
  rw [dep_mk, show (mk 2 t 0x31 (c ++ a ++ b ++ f)).extractLsb' 15 3 = c from
      (mk_low _ _ _ _ 15 3 (by decide)).trans
        ((app_high (k := 14) _ _ 15 3 (by decide) rfl).trans ((app_high (k := 7) _ _ 14 3 (by decide) rfl).trans ((app_high (k := 0) _ _ 7 3 (by decide) rfl).trans (BitVec.extractLsb'_eq_self)))), show (mk 2 t 0x31 (c ++ a ++ b ++ f)).extractLsb' 8 7 = a from
      (mk_low _ _ _ _ 8 7 (by decide)).trans
        ((app_high (k := 7) _ _ 8 7 (by decide) rfl).trans ((app_high (k := 0) _ _ 7 7 (by decide) rfl).trans (low_field _ _))), show (mk 2 t 0x31 (c ++ a ++ b ++ f)).extractLsb' 1 7 = b from
      (mk_low _ _ _ _ 1 7 (by decide)).trans
        ((app_high (k := 0) _ _ 1 7 (by decide) rfl).trans (low_field _ _)), show (mk 2 t 0x31 (c ++ a ++ b ++ f)).extractLsb' 0 1 = f from
      (mk_low _ _ _ _ 0 1 (by decide)).trans
        (low_field _ _)]

theorem mMdrain (t : BitVec 4) (c : BitVec 3) (a : BitVec 7) : Statement (.mMdrain t c a) := by
  refine row 2 t 0x32 (c ++ a ++ (0 : BitVec 8)) rfl rfl ?_
  change some (Instr.mMdrain (dep _) (BitVec.extractLsb' 15 3 _) (BitVec.extractLsb' 8 7 _)) = _
  rw [dep_mk, show (mk 2 t 0x32 (c ++ a ++ (0 : BitVec 8))).extractLsb' 15 3 = c from
      (mk_low _ _ _ _ 15 3 (by decide)).trans
        ((app_high (k := 7) _ _ 15 3 (by decide) rfl).trans ((app_high (k := 0) _ _ 7 3 (by decide) rfl).trans (BitVec.extractLsb'_eq_self))), show (mk 2 t 0x32 (c ++ a ++ (0 : BitVec 8))).extractLsb' 8 7 = a from
      (mk_low _ _ _ _ 8 7 (by decide)).trans
        ((app_high (k := 0) _ _ 8 7 (by decide) rfl).trans (low_field _ _))]

theorem mMldacc (t : BitVec 4) (c : BitVec 3) (a : BitVec 7) : Statement (.mMldacc t c a) := by
  refine row 2 t 0x33 (c ++ a ++ (0 : BitVec 8)) rfl rfl ?_
  change some (Instr.mMldacc (dep _) (BitVec.extractLsb' 15 3 _) (BitVec.extractLsb' 8 7 _)) = _
  rw [dep_mk, show (mk 2 t 0x33 (c ++ a ++ (0 : BitVec 8))).extractLsb' 15 3 = c from
      (mk_low _ _ _ _ 15 3 (by decide)).trans
        ((app_high (k := 7) _ _ 15 3 (by decide) rfl).trans ((app_high (k := 0) _ _ 7 3 (by decide) rfl).trans (BitVec.extractLsb'_eq_self))), show (mk 2 t 0x33 (c ++ a ++ (0 : BitVec 8))).extractLsb' 8 7 = a from
      (mk_low _ _ _ _ 8 7 (by decide)).trans
        ((app_high (k := 0) _ _ 8 7 (by decide) rfl).trans (low_field _ _))]

theorem mMclr (t : BitVec 4) (c : BitVec 3) : Statement (.mMclr t c) := by
  refine row 2 t 0x34 (c ++ (0 : BitVec 15)) rfl rfl ?_
  change some (Instr.mMclr (dep _) (BitVec.extractLsb' 15 3 _)) = _
  rw [dep_mk, show (mk 2 t 0x34 (c ++ (0 : BitVec 15))).extractLsb' 15 3 = c from
      (mk_low _ _ _ _ 15 3 (by decide)).trans
        ((app_high (k := 0) _ _ 15 3 (by decide) rfl).trans (BitVec.extractLsb'_eq_self))]

theorem mMfence (t : BitVec 4) : Statement (.mMfence t) := by
  refine row 2 t 0x35 (0) rfl rfl ?_
  change some (Instr.mMfence (dep _)) = _
  rw [dep_mk]

theorem mMfeed (t : BitVec 4) (a : BitVec 7) (b : BitVec 7) : Statement (.mMfeed t a b) := by
  refine row 2 t 0x36 ((0 : BitVec 3) ++ a ++ b ++ (0 : BitVec 1)) rfl rfl ?_
  change some (Instr.mMfeed (dep _) (BitVec.extractLsb' 8 7 _) (BitVec.extractLsb' 1 7 _)) = _
  rw [dep_mk, show (mk 2 t 0x36 ((0 : BitVec 3) ++ a ++ b ++ (0 : BitVec 1))).extractLsb' 8 7 = a from
      (mk_low _ _ _ _ 8 7 (by decide)).trans
        ((app_high (k := 7) _ _ 8 7 (by decide) rfl).trans ((app_high (k := 0) _ _ 7 7 (by decide) rfl).trans (low_field _ _))), show (mk 2 t 0x36 ((0 : BitVec 3) ++ a ++ b ++ (0 : BitVec 1))).extractLsb' 1 7 = b from
      (mk_low _ _ _ _ 1 7 (by decide)).trans
        ((app_high (k := 0) _ _ 1 7 (by decide) rfl).trans (low_field _ _))]

theorem mTempo (t : BitVec 4) : Statement (.mTempo t) := by
  refine row 2 t 0x40 (0) rfl rfl ?_
  change some (Instr.mTempo (dep _)) = _
  rw [dep_mk]

theorem mTcut (t : BitVec 4) (a : BitVec 1) : Statement (.mTcut t a) := by
  refine row 2 t 0x41 ((0 : BitVec 17) ++ a) rfl rfl ?_
  change some (Instr.mTcut (dep _) (BitVec.extractLsb' 0 1 _)) = _
  rw [dep_mk, show (mk 2 t 0x41 ((0 : BitVec 17) ++ a)).extractLsb' 0 1 = a from
      (mk_low _ _ _ _ 0 1 (by decide)).trans
        (low_field _ _)]

theorem mTlook (t : BitVec 4) (d : BitVec 6) (a : BitVec 6) (b : BitVec 6) : Statement (.mTlook t d a b) := by
  refine row 2 t 0x42 (rrr d a b) rfl rfl ?_
  change some (Instr.mTlook (dep _) (BitVec.extractLsb' 12 6 _) (BitVec.extractLsb' 6 6 _) (BitVec.extractLsb' 0 6 _)) = _
  rw [dep_mk, rrr_d, rrr_a, rrr_b]

theorem mTstat (t : BitVec 4) (d : BitVec 6) (s : BitVec 4) : Statement (.mTstat t d s) := by
  refine row 2 t 0x43 (d ++ (0 : BitVec 8) ++ s) rfl rfl ?_
  change some (Instr.mTstat (dep _) (BitVec.extractLsb' 12 6 _) (BitVec.extractLsb' 0 4 _)) = _
  rw [dep_mk, show (mk 2 t 0x43 (d ++ (0 : BitVec 8) ++ s)).extractLsb' 12 6 = d from
      (mk_low _ _ _ _ 12 6 (by decide)).trans
        ((app_high (k := 8) _ _ 12 6 (by decide) rfl).trans ((app_high (k := 0) _ _ 8 6 (by decide) rfl).trans (BitVec.extractLsb'_eq_self))), show (mk 2 t 0x43 (d ++ (0 : BitVec 8) ++ s)).extractLsb' 0 4 = s from
      (mk_low _ _ _ _ 0 4 (by decide)).trans
        (low_field _ _)]

theorem reservedOpcode (sub : BitVec 8) (fbit : BitVec 8) : Statement (.reservedOpcode sub fbit) := noWord rfl

theorem serviceFaultDrain (core : Nat) : Statement (.serviceFaultDrain core) := noWord rfl

theorem faultTake (core : Nat) : Statement (.faultTake core) := noWord rfl

theorem asyncFaultTake (core : Nat) : Statement (.asyncFaultTake core) := noWord rfl

theorem accessComplete (core : Nat) (bank : Nat) (k : Nat) (j : Nat) : Statement (.accessComplete core bank k j) := noWord rfl

theorem stopComplete (core : Nat) (bank : Nat) : Statement (.stopComplete core bank) := noWord rfl

theorem wnextServed (core : Nat) : Statement (.wnextServed core) := noWord rfl

theorem copyJobBegin (core : Nat) (job : Nat) : Statement (.copyJobBegin core job) := noWord rfl

theorem copyQueuePush (core : Nat) (job : Nat) : Statement (.copyQueuePush core job) := noWord rfl

theorem copyJobComplete (core : Nat) (job : Nat) : Statement (.copyJobComplete core job) := noWord rfl

theorem swapJobStart (core : Nat) (job : Nat) : Statement (.swapJobStart core job) := noWord rfl

theorem swapJobExchange (core : Nat) (job : Nat) : Statement (.swapJobExchange core job) := noWord rfl

theorem collectiveComplete (core : Nat) : Statement (.collectiveComplete core) := noWord rfl

theorem tempoSessionStart (core : Nat) : Statement (.tempoSessionStart core) := noWord rfl

theorem tempoBoundary (core : Nat) : Statement (.tempoBoundary core) := noWord rfl

theorem tempoMissWaitEnd (core : Nat) : Statement (.tempoMissWaitEnd core) := noWord rfl

theorem tempoFinish (core : Nat) : Statement (.tempoFinish core) := noWord rfl

theorem matrixCommandComplete (core : Nat) (k : Nat) : Statement (.matrixCommandComplete core k) := noWord rfl

theorem arrayMmul (core : Nat) (k : Nat) : Statement (.arrayMmul core k) := noWord rfl

theorem arrayMdrain (core : Nat) (k : Nat) : Statement (.arrayMdrain core k) := noWord rfl

theorem arrayMldacc (core : Nat) (k : Nat) : Statement (.arrayMldacc core k) := noWord rfl

theorem arrayMclr (core : Nat) (k : Nat) : Statement (.arrayMclr core k) := noWord rfl

theorem handGrant (table : Nat) : Statement (.handGrant table) := noWord rfl

theorem queueEntryRetire (core : Nat) : Statement (.queueEntryRetire core) := noWord rfl

theorem feedPush (table : Nat) : Statement (.feedPush table) := noWord rfl

theorem exitComplete (core : Nat) : Statement (.exitComplete core) := noWord rfl

theorem roundComplete (slot : Nat) : Statement (.roundComplete slot) := noWord rfl

theorem eventDeliver (core : Nat) : Statement (.eventDeliver core) := noWord rfl

theorem shootdownComplete (core : Nat) : Statement (.shootdownComplete core) := noWord rfl

theorem remapComplete (core : Nat) : Statement (.remapComplete core) := noWord rfl

theorem lqTailWrite (q : BitVec 4) (v : BitVec 32) : Statement (.lqTailWrite q v) := noWord rfl

theorem lqEnableWrite (q : BitVec 4) (v : BitVec 32) : Statement (.lqEnableWrite q v) := noWord rfl

theorem lqRetry (q : BitVec 4) : Statement (.lqRetry q) := noWord rfl

theorem lqSkip (q : BitVec 4) : Statement (.lqSkip q) := noWord rfl

theorem headRecordRead (q : BitVec 4) : Statement (.headRecordRead q) := noWord rfl

theorem replicaResend (q : BitVec 4) : Statement (.replicaResend q) := noWord rfl

theorem replicaReceive (q : BitVec 4) (rec : BitVec 512) : Statement (.replicaReceive q rec) := noWord rfl

theorem dealCoreStart (core : Nat) : Statement (.dealCoreStart core) := noWord rfl

theorem rangeLaunchStart (slot : Nat) : Statement (.rangeLaunchStart slot) := noWord rfl

theorem collReadyMessage (core : Nat) (msg : ReadyMsg) : Statement (.collReadyMessage core msg) := noWord rfl

theorem collectiveStep (core : Nat) (data : CollData) : Statement (.collectiveStep core data) := noWord rfl

theorem walkStart (core : Nat) (bank : Nat) (va : BitVec 48) : Statement (.walkStart core bank va) := noWord rfl

theorem walkComplete (cluster : Nat) (slot : Nat) : Statement (.walkComplete cluster slot) := noWord rfl

theorem planeFrameFill (core : Nat) (bank : Nat) (psd : BitVec 16) (plane : BitVec 3) (frame : BitVec 36) : Statement (.planeFrameFill core bank psd plane frame) := noWord rfl

theorem nearLiveWrite (ch : BitVec 10) (v : BitVec 16) : Statement (.nearLiveWrite ch v) := noWord rfl

theorem bankFailureEvent (ch : BitVec 10) (bank : BitVec 4) (cause : BitVec 8) : Statement (.bankFailureEvent ch bank cause) := noWord rfl

theorem sectorPoison (loc : Nat) (fte : Option Nat) : Statement (.sectorPoison loc fte) := noWord rfl

theorem remoteRequestDeliver (pkt : Packet) (strike : Bool) : Statement (.remoteRequestDeliver pkt strike) := noWord rfl

theorem remoteAck (core : Nat) (dst : Label) (k : BitVec 2) (num : BitVec 32) (resp : Response) : Statement (.remoteAck core dst k num resp) := noWord rfl

theorem e2eResend (core : Nat) (dst : Label) (k : BitVec 2) : Statement (.e2eResend core dst k) := noWord rfl

theorem streamExpire (sending : Bool) (core : Nat) (peer : Label) (k : BitVec 2) : Statement (.streamExpire sending core peer k) := noWord rfl

theorem stoDeliver (src : Label) (core : Nat) (k : BitVec 2) : Statement (.stoDeliver src core k) := noWord rfl

theorem downNotice (dst : Label) (k : BitVec 2) : Statement (.downNotice dst k) := noWord rfl

theorem fabLabelWrite (v : BitVec 32) : Statement (.fabLabelWrite v) := noWord rfl

theorem portEnable (d : Nat) (en : Bool) : Statement (.portEnable d en) := noWord rfl

theorem portRetrain (d : Nat) : Statement (.portRetrain d) := noWord rfl

theorem portQuiesce (d : Nat) (on : Bool) : Statement (.portQuiesce d on) := noWord rfl

theorem portUp (d : Nat) (label : Label) : Statement (.portUp d label) := noWord rfl

theorem portDown (d : Nat) (cause : BitVec 8) : Statement (.portDown d cause) := noWord rfl

theorem linkReplay (d : Nat) (how : ReplayEnd) : Statement (.linkReplay d how) := noWord rfl

theorem laneFailure (d : Nat) (lane : BitVec 3) : Statement (.laneFailure d lane) := noWord rfl

theorem flitAgeDiscard (d : Nat) : Statement (.flitAgeDiscard d) := noWord rfl

theorem linkTransferBegin (d : Nat) : Statement (.linkTransferBegin d) := noWord rfl

theorem linkTransferReceive (d : Nat) (num : BitVec 32) (entry : TileEntry) : Statement (.linkTransferReceive d num entry) := noWord rfl

theorem transferAck (d : Nat) (num : BitVec 32) : Statement (.transferAck d num) := noWord rfl

theorem creditAdvertise (d : Nat) (n : BitVec 3) : Statement (.creditAdvertise d n) := noWord rfl

theorem bindNotice (d : Nat) (bound : Bool) : Statement (.bindNotice d bound) := noWord rfl

theorem linkLost (d : Nat) : Statement (.linkLost d) := noWord rfl

theorem exclusionWindow (table : Nat) : Statement (.exclusionWindow table) := noWord rfl

theorem roundArrivalNotice (slot : Nat) (d : Nat) : Statement (.roundArrivalNotice slot d) := noWord rfl

theorem ccStop (core : Nat) (bank : Nat) : Statement (.ccStop core bank) := noWord rfl

theorem ccRun (core : Nat) (bank : Nat) : Statement (.ccRun core bank) := noWord rfl

theorem ccEvict (core : Nat) (bank : Nat) : Statement (.ccEvict core bank) := noWord rfl

theorem ccRestore (core : Nat) (bank : Nat) : Statement (.ccRestore core bank) := noWord rfl

theorem ccRelease (core : Nat) (bank : Nat) : Statement (.ccRelease core bank) := noWord rfl

theorem ccRetry (core : Nat) (bank : Nat) : Statement (.ccRetry core bank) := noWord rfl

theorem ccAbort (core : Nat) (bank : Nat) : Statement (.ccAbort core bank) := noWord rfl

theorem bar2Read (off : BitVec 32) (len : Nat) : Statement (.bar2Read off len) := noWord rfl

theorem bar2Write (off : BitVec 32) (bytes : List Byte) : Statement (.bar2Write off bytes) := noWord rfl

theorem mboxBaseWrite (v : Word) : Statement (.mboxBaseWrite v) := noWord rfl

theorem rbSelWrite (v : Word) : Statement (.rbSelWrite v) := noWord rfl

theorem firmwareVerifyDone (fail : BitVec 8) (svn : BitVec 32) : Statement (.firmwareVerifyDone fail svn) := noWord rfl

theorem spdmRequest (code : Byte) : Statement (.spdmRequest code) := noWord rfl

theorem lockCmdLock (d : Nat) : Statement (.lockCmdLock d) := noWord rfl

theorem lockCmdUnlock (d : Nat) : Statement (.lockCmdUnlock d) := noWord rfl

theorem lockSessionDone (d : Nat) (how : SessionEnd) : Statement (.lockSessionDone d how) := noWord rfl

theorem tagFailure (d : Nat) (inbound : Bool) : Statement (.tagFailure d inbound) := noWord rfl

theorem rekey (d : Nat) (ok : Bool) : Statement (.rekey d ok) := noWord rfl

theorem groupPowerReport (member : Nat) (avg : BitVec 16) : Statement (.groupPowerReport member avg) := noWord rfl

theorem registerWrite (blk : Block) (off : BitVec 20) (v : Word) : Statement (.registerWrite blk off v) := noWord rfl

theorem packetHopArrival (pkt : Packet) : Statement (.packetHopArrival pkt) := noWord rfl

theorem averagingWindowEnd (avg : BitVec 16) (inst : BitVec 16) : Statement (.averagingWindowEnd avg inst) := noWord rfl

theorem corePowerGating (core : Nat) : Statement (.corePowerGating core) := noWord rfl

theorem corePowerUngating (core : Nat) : Statement (.corePowerUngating core) := noWord rfl

theorem nop : Statement (.nop) := by
  exact row 3 0 0x01 (0) rfl rfl rfl

theorem ret : Statement (.ret) := by
  exact row 3 0 0x06 (0) rfl rfl rfl

theorem exit : Statement (.exit) := by
  exact row 3 0 0x0A (0) rfl rfl rfl

theorem resume : Statement (.resume) := by
  exact row 3 0 0x0C (0) rfl rfl rfl

theorem halt : Statement (.halt) := by
  exact row 3 0 0x10 (0) rfl rfl rfl

theorem eret : Statement (.eret) := by
  exact row 3 0 0x11 (0) rfl rfl rfl

theorem wordStepOver : Statement (.wordStepOver) := noWord rfl

theorem launchDispatch : Statement (.launchDispatch) := noWord rfl

theorem fabDowngenWrite : Statement (.fabDowngenWrite) := noWord rfl

theorem mailboxHeldPost : Statement (.mailboxHeldPost) := noWord rfl

theorem mgmtLoad : Statement (.mgmtLoad) := noWord rfl

theorem mgmtReset : Statement (.mgmtReset) := noWord rfl

theorem powerControlStep : Statement .powerControlStep := noWord rfl

theorem fastinAssert : Statement (.fastinAssert) := noWord rfl

theorem fastinDeassert : Statement (.fastinDeassert) := noWord rfl

theorem fastinRecover : Statement (.fastinRecover) := noWord rfl

theorem nodeReset : Statement (.nodeReset) := noWord rfl

theorem bringupReady : Statement (.bringupReady) := noWord rfl

end Sys2Proof.Laws.Encode
end

