-- ==== Sys2Proof/Laws/Shared.lean ====
section
/-! SUPPORT. What shared operations of the machine can do: misses that join a walk and look-ups (R227), the giving up of a bank
(R370) and the marking of poisoned sectors and frame-table entries (R221, R308). -/
namespace Sys2Proof.Laws

open Machine

/-! ### Walks and banks -/

/-- A miss changes the walks of clusters and the model's count of things made, and nothing else. -/
theorem joinWalk_eq (s : State) (c : Nat) (bank : Bool) (page : Nat) (by_ : Option Waiter) :
    ∃ l n, joinWalk s c bank page by_ = { s with clusters := l, seq := n } := by
  unfold joinWalk
  dsimp only
  split
  · exact ⟨_, _, rfl⟩
  · exact ⟨_, _, rfl⟩

theorem joinWalk_mem (s : State) (c : Nat) (bank : Bool) (page : Nat) (by_ : Option Waiter) :
    (joinWalk s c bank page by_).mem = s.mem := by
  obtain ⟨l, n, h⟩ := joinWalk_eq s c bank page by_
  rw [h]

theorem joinWalk_cores (s : State) (c : Nat) (bank : Bool) (page : Nat) (by_ : Option Waiter) :
    (joinWalk s c bank page by_).cores = s.cores := by
  obtain ⟨l, n, h⟩ := joinWalk_eq s c bank page by_
  rw [h]

/-! ### Look-ups -/

/-- What the end of a walk may change: cores, clusters, tables and the model's count of things made. -/
def OnlyWalks (s u : State) : Prop := ∃ a b c n, u = { s with cores := a, clusters := b, tables := c, seq := n }

namespace OnlyWalks

theorem refl (s : State) : OnlyWalks s s := ⟨_, _, _, _, rfl⟩

theorem trans {s t u : State} (h : OnlyWalks s t) (k : OnlyWalks t u) : OnlyWalks s u := by
  obtain ⟨_, _, _, _, rfl⟩ := h
  obtain ⟨_, _, _, _, rfl⟩ := k
  exact ⟨_, _, _, _, rfl⟩

theorem mem {s u : State} (h : OnlyWalks s u) : u.mem = s.mem := by
  obtain ⟨_, _, _, _, rfl⟩ := h
  rfl

theorem shoe {s u : State} (h : OnlyWalks s u) : u.shoe = s.shoe := by
  obtain ⟨_, _, _, _, rfl⟩ := h
  rfl

theorem fabric {s u : State} (h : OnlyWalks s u) : u.fabric = s.fabric := by
  obtain ⟨_, _, _, _, rfl⟩ := h
  rfl

end OnlyWalks

theorem onlyWalks_modBank (s : State) (c : Nat) (b : Bool) (f : Bank → Bank) : OnlyWalks s (modBank s c b f) := ⟨_, _, _, _, rfl⟩

theorem onlyWalks_setCluster (s : State) (n : Nat) (k : Cluster) : OnlyWalks s (setCluster s n k) := ⟨_, _, _, _, rfl⟩

theorem onlyWalks_cacheLeaf (s : State) (c bank : Nat) (v : View) (va level leaf psd : Nat) :
    OnlyWalks s (cacheLeaf s c bank v va level leaf psd) := ⟨_, _, _, _, rfl⟩

theorem onlyWalks_deliverTo (s : State) (c : Nat) (b : Bool) (r : Walked) : OnlyWalks s (deliverTo s c b r) := by
  unfold deliverTo
  split <;> exact ⟨_, _, _, _, rfl⟩

theorem onlyWalks_walkDelivers (s : State) (w : Walk) (d : Delivered) : OnlyWalks s (walkDelivers s w d) := by
  unfold walkDelivers
  generalize w.waiters = l
  induction l generalizing s with
  | nil => exact .refl s
  | cons x l ih => exact (onlyWalks_deliverTo s _ _ _).trans (ih _)

theorem onlyWalks_endWalk (s : State) (v : View) (w : Walk) (r : X (Nat × Nat × Nat)) : OnlyWalks s (endWalk s v w r) := by
  unfold endWalk
  dsimp only
  repeat' split
  all_goals first | exact onlyWalks_setCluster _ _ _ | exact (onlyWalks_setCluster _ _ _).trans (onlyWalks_cacheLeaf _ _ _ _ _ _ _ _)

theorem onlyWalks_finishWalk {s u : State} {v : View} {who : Waiter} {w : Walk} {r : Walked}
    (h : finishWalk s v who w = some (r, u)) : OnlyWalks s u := by
  unfold finishWalk at h
  dsimp only at h
  obtain ⟨d, -, e⟩ := Option.map_eq_some_iff.mp h
  cases e
  exact (onlyWalks_endWalk _ _ _ _).trans (onlyWalks_walkDelivers _ _ _)

theorem onlyWalks_takeDelivery {s u : State} {v : View} {who : Waiter} {page : Nat} {r : Walked}
    (h : takeDelivery s v who page = some (r, u)) : OnlyWalks s u := by
  unfold takeDelivery at h
  obtain ⟨d, -, e⟩ := Option.map_eq_some_iff.mp h
  cases e
  split
  · exact onlyWalks_modBank _ _ _ _
  · exact .refl s

theorem onlyWalks_walkAnswer {s u : State} {v : View} {who : Waiter} {page : Nat} {r : Walked}
    (h : walkAnswer s v who page = some (r, u)) : OnlyWalks s u := by
  unfold walkAnswer at h
  dsimp only at h
  split at h
  · rename_i x hx
    cases h
    exact onlyWalks_takeDelivery hx
  · split at h
    · exact onlyWalks_finishWalk h
    · split at h
      · cases h
      · exact .trans ⟨_, _, _, _, rfl⟩ (onlyWalks_finishWalk h)

theorem onlyWalks_lookOn {α : Type} (v : View) (who : Waiter) (f : State → Act α) (n : Nat) (s : State) (l : List Walked)
    (page : Nat) : OnlyWalks s (lookOn v who f n s l page).1 := by
  induction n generalizing s l page with
  | zero => exact .refl s
  | succ n ih =>
    unfold lookOn
    split
    · exact .refl s
    · rename_i r u h
      have k := onlyWalks_walkAnswer h
      split
      · exact k.trans (ih _ _ _)
      · exact k

/-- A look-up changes nothing but the walks that it meets, what they cache and what they deliver (R227). -/
theorem onlyWalks_lookUp {α : Type} (s : State) (v : View) (who : Waiter) (f : State → Act α) :
    OnlyWalks s (lookUp s v who f).1 := by
  unfold lookUp
  split
  · exact onlyWalks_lookOn _ _ _ _ _ _ _
  · exact .refl s

theorem onlyWalks_lookUpState (s : State) (v : View) (who : Waiter) (f : State → Act State) :
    OnlyWalks s (lookUpState s v who f).1 := by
  unfold lookUpState
  split
  · exact onlyWalks_lookOn _ _ _ _ _ _ _
  · exact .refl s

/-- What asks for no walk is as if nothing were looked up. -/
theorem lookUp_none {α : Type} {s : State} {v : View} {who : Waiter} {f : State → Act α}
    (h : ∀ page, f s ≠ .error (.walk page)) : lookUp s v who f = (s, f s) := by
  unfold lookUp
  split
  · rename_i p hp
    exact (h p hp).elim
  · rfl

/-- A walk that no walker is free for leaves the state as it is (R120). -/
theorem lookUp_wait {α : Type} {s : State} {v : View} {who : Waiter} {f : State → Act α} {page : Nat}
    (h : f s = .error (.walk page)) (k : walkAnswer s v who page = none) : lookUp s v who f = (s, .error (.walk page)) := by
  unfold lookUp
  rw [h]
  dsimp only
  cases walksToMeet s v with
  | zero => rfl
  | succ n =>
    unfold lookOn
    rw [k]

/-- A bank that is given up changes its core alone. -/
theorem emptyBank_eq (s : State) (c : Nat) (b : Bool) : ∃ l, emptyBank s c b = { s with cores := l } := ⟨_, rfl⟩

/-- The registers of a bank that is given up stay (R370). -/
theorem emptied_registers (x : Bank) :
    x.emptied.a = x.a ∧ x.emptied.s = x.s ∧ x.emptied.m = x.m ∧ x.emptied.v = x.v ∧ x.emptied.k = x.k ∧
      x.emptied.owner = x.owner := ⟨rfl, rfl, rfl, rfl, rfl, rfl⟩

/-! ### Poison -/

theorem markEntry_wf {s : State} (pa : Nat) (h : Memory.wf s.mem = true) : Memory.wf (markEntry s pa).mem = true :=
  wrByte_wf pa _ h

theorem rdByte_markEntry_other (s : State) {pa i : Nat} (h : i ≠ pa) : rdByte (markEntry s pa) i = rdByte s i :=
  rdByte_wrByte_other s _ h

/-- POISON is set in the entry, and its other low bits stay. -/
theorem rdByte_markEntry_same {s : State} (pa : Nat) (h : Memory.wf s.mem = true) :
    rdByte (markEntry s pa) pa = rdByte s pa ||| 8 := rdByte_wrByte_same pa _ h

/-- Marking entries changes memory alone. -/
theorem markEntries_eq (l : List Nat) (s : State) : ∃ m, l.foldl markEntry s = { s with mem := m } := by
  induction l generalizing s with
  | nil => exact ⟨s.mem, rfl⟩
  | cons pa l ih => exact ih (markEntry s pa)

theorem markEntries_wf (l : List Nat) {s : State} (h : Memory.wf s.mem = true) :
    Memory.wf (l.foldl markEntry s).mem = true := by
  induction l generalizing s with
  | nil => exact h
  | cons pa l ih => exact ih (markEntry_wf pa h)

theorem rdByte_markEntries_other (l : List Nat) (s : State) {i : Nat} (h : i ∉ l) :
    rdByte (l.foldl markEntry s) i = rdByte s i := by
  induction l generalizing s with
  | nil => rfl
  | cons pa l ih =>
    rw [List.foldl_cons, ih _ fun hi => h (List.mem_cons_of_mem _ hi)]
    exact rdByte_markEntry_other s fun hi => h (hi ▸ List.mem_cons_self)

/-- Marking sectors changes the marks alone. -/
theorem setPoisons_eq (l : List Nat) (s : State) :
    ∃ p, l.foldl (fun s loc => setPoison s loc true) s = { s with poison := p } := by
  induction l generalizing s with
  | nil => exact ⟨s.poison, rfl⟩
  | cons loc l ih => exact ih (setPoison s loc true)

/-- Poisoning sectors changes their marks and bytes of memory, and nothing else. -/
theorem poisonSectors_eq (s : State) (locs : List Nat) :
    ∃ m p, poisonSectors s locs = { s with mem := m, poison := p } := by
  unfold poisonSectors
  dsimp only
  obtain ⟨p, hp⟩ := setPoisons_eq ((locs.map fun l => l / 32 * 32).eraseDups) s
  rw [hp]
  split
  · exact ⟨s.mem, s.poison, rfl⟩
  · obtain ⟨m, hm⟩ := markEntries_eq (framesOf s ((locs.map fun l => l / 32 * 32).eraseDups)) { s with poison := p }
    exact ⟨m, p, hm⟩

theorem poisonSectors_wf {s : State} (locs : List Nat) (h : Memory.wf s.mem = true) :
    Memory.wf (poisonSectors s locs).mem = true := by
  unfold poisonSectors
  dsimp only
  obtain ⟨p, hp⟩ := setPoisons_eq ((locs.map fun l => l / 32 * 32).eraseDups) s
  rw [hp]
  split
  · exact h
  · exact markEntries_wf _ h

/-- The only bytes that poisoning sectors can change are the first bytes of the entries of their frames (R221). -/
theorem rdByte_poisonSectors_other (s : State) (locs : List Nat) {i : Nat}
    (h : i ∉ framesOf s ((locs.map fun l => l / 32 * 32).eraseDups)) : rdByte (poisonSectors s locs) i = rdByte s i := by
  unfold poisonSectors
  dsimp only
  obtain ⟨p, hp⟩ := setPoisons_eq ((locs.map fun l => l / 32 * 32).eraseDups) s
  rw [hp]
  split
  · rfl
  · exact rdByte_markEntries_other _ _ h

end Sys2Proof.Laws
end

