-- ==== Sys2Proof/Tests/Slice0.lean ====
section
/-! SUPPORT. Tests: ill-formed terms, words written out from the spec's encodings, and for each statement with hypotheses
a state and operands that meet them, with the result that the rules give worked out by hand where it is short. -/
namespace Sys2Proof.Tests

set_option exponentiation.threshold 5000
set_option maxRecDepth 20000

open Machine Claims

/-! ### Well-formed instructions: one ill-formed term for each check of R55 -/

theorem test_wf_opcode : (Instr.reservedOpcode 1 0).wellFormed = true ∧ (Instr.kx 0 5).wellFormed = true ∧
    encode (.reservedOpcode 1 0) = none := by decide

theorem test_wf_code : (Instr.bc 0 6 1 0).wellFormed = false ∧ (Instr.bc 0 5 1 0).wellFormed = true ∧
    (Instr.mMhand 0 0).wellFormed = false ∧ (Instr.mMhand 0 8).wellFormed = true := by decide

theorem test_wf_operand : (Instr.aAdd 0 4 32 2).wellFormed = false ∧ (Instr.aAdd 0 38 31 2).wellFormed = true := by decide

theorem test_wf_csr : (Instr.aCsrr 0 1 0xFFF).wellFormed = false ∧ (Instr.aCsrr 0 1 0x070).wellFormed = true := by decide

theorem test_wf_align : (Instr.xVwadd 0 1 5 0 0).wellFormed = false ∧ (Instr.xVwadd 0 1 4 0 0).wellFormed = true := by decide

/-! ### Words written out bit by bit: tag, D, OP, then the format's fields (R40, R42, R51-R54) -/

def word (tag : BitVec 2) (d : BitVec 4) (op : BitVec 8) (rest : BitVec 18) : BitVec 32 := tag ++ d ++ op ++ rest

/-- Format RRR: D [17:12], A [11:6], B [5:0]. -/
theorem test_word_add : decode (word 0 0b0101 0x10 (4#6 ++ 1#6 ++ 2#6)) = .ok (.aAdd 5 4 1 2) := rfl

/-- Format RRI on X. -/
theorem test_word_xaddi : decode (word 1 0 0x28 (3#6 ++ 2#6 ++ 0b111111#6)) = .ok (.xAddi 0 3 2 63) := rfl

/-- Format RI. -/
theorem test_word_mset : decode (word 2 0b1000 0x10 (9#6 ++ 0x800#12)) = .ok (.mMset 8 9 0x800) := rfl

/-- Format MEM: D [17:12], BASE [11:7], P [6:4], SU [3:0]. -/
theorem test_word_load : decode (word 0 0 0x46 (7#6 ++ 30#5 ++ 5#3 ++ 9#4)) = .ok (.aLdsW 0 7 30 5 9) := rfl

/-- Format ATOM: D [17:12], BASE [11:7], OPND [6:2], W [1]. -/
theorem test_word_atomic : decode (word 0 0 0x61 (3#6 ++ 4#5 ++ 6#5 ++ 1#1 ++ 0#1)) = .ok (.aAcas 0 3 4 6 1) := rfl

theorem test_word_flag : decode (word 0 0 0x7A (5#6 ++ 0xABC#12)) = .ok (.aFlagadd 0 5 0xABC) := rfl

theorem test_word_csrw : decode (word 0 0 0x91 (5#6 ++ 0x061#12)) = .ok (.aCsrw 0 5 0x061) := rfl

/-- A branch: OFF [17:0]; BC: ENG [17:16], COND [15:13], REG [12:7], OFF [6:0]. -/
theorem test_word_branches : decode (word 3 0 0x05 0x3FFFF#18) = .ok (.call 0x3FFFF) ∧
    decode (word 3 0 0x03 (2#2 ++ 3#3 ++ 9#6 ++ 0x7F#7)) = .ok (.bc 2 3 9 0x7F) := ⟨rfl, rfl⟩

/-- A KX: OP 0xF0 to 0xFF holds PAY [21:18] in its low bits, and PAY [17:0] below (R48). -/
theorem test_word_kx : decode (word 1 0 0xF5 0x2AAAA#18) = .ok (.kx 1 (5#4 ++ 0x2AAAA#18)) := rfl

/-! ### States that meet the hypotheses of the statements -/

/-- Core 0 runs bank 0 with a kernel of 16 words and `f` made of the bank; engine `e` has its turn. -/
def on (e : Engine) (f : Bank → Bank) : State :=
  { modBank State.reset 0 false fun b => f { b with st := .running, kern := some (bareKernel 0 16) } with phase := .eng e }

/-- Engine `e` has acted on a KX with payload `p`. -/
def withKx (e : Engine) (p : BitVec 22) (b : Bank) : Bank := { b with kx := b.kx.set (some p) e }

def run : State := on .a id
def runX : State := on .x id
def runM : State := on .m id

/-- `Ready` as a test. -/
def readyB (i : Instr) (e : Engine) (t : BitVec 4) (s : State) : Bool :=
  let b := curBank s s.core
  canIssue (getCore s s.core) b e && (match kxCheck i (b.kxOf e) with | .ok _ => true | .error _ => false) &&
    (!privileged i || b.priv) && !b.slipBlocks e (b.pairLen e) && b.tokReady e t && !b.skip.get e

theorem ready_of {i : Instr} {e : Engine} {t : BitVec 4} {s : State} (h : readyB i e t s = true) : Ready i e t s := by
  simp only [readyB, Bool.and_eq_true, Bool.not_eq_true'] at h
  obtain ⟨⟨⟨⟨⟨h1, h2⟩, h3⟩, h4⟩, h5⟩, h6⟩ := h
  refine ⟨h1, ?_, ?_, h4, h5, h6⟩
  · revert h2
    cases kxCheck i ((curBank s s.core).kxOf e) <;> simp
  · intro p
    simpa [p] using h3

/-- Vector-kind and scalar-kind queue entries. -/
def entry (vec : Bool) (v : Nat) : QEntry := ⟨vec, BitVec.ofNat 4096 v, true, 0⟩

/-! ### Decoding and the step -/

theorem witness_decodeEncode : ∃ i w, i.wellFormed = true ∧ encode i = some w := ⟨.aAdd 0 4 1 2, _, rfl, rfl⟩

theorem witness_encodeDecode : ∃ w i, decode w = .ok i := ⟨0x00A01005, _, rfl⟩

/-- A word of A, one of another engine, words that decode rejects, with and without a mandatory KX, and the end of the text; a
word after its KX, one of another tag and a second KX; an event on the agenda. -/
theorem witness_stepRunsDecodedWord :
    (∃ s e w i, s.agenda = [] ∧ s.core < 1024 ∧ (∀ x ∈ (curBank s s.core).inflight, x.open_ = false) ∧
      s.phase = .eng e ∧ canIssue (getCore s s.core) (curBank s s.core) e = true ∧
      (curBank s s.core).kxOf e = none ∧ ((curBank s s.core).pcOf e).toNat < (curBank s s.core).textEnd ∧
      fetchWord s ((curBank s s.core).pcOf e) = .ok w ∧ (tagOf w = e.tag ∨ tagOf w = 3) ∧ decode w = .ok i) ∧
    (∀ k ∈ [(0x00000000, Engine.x), (0x00000000, .a), (0x00040001, .a), (0x41302F82, .x)], ∃ (s : State) (w : _), s.phase = .eng k.2 ∧
      canIssue (getCore s s.core) (curBank s s.core) k.2 = true ∧ (curBank s s.core).kxOf k.2 = none ∧
      ((curBank s s.core).pcOf k.2).toNat < (curBank s s.core).textEnd ∧
      fetchWord s ((curBank s s.core).pcOf k.2) = .ok w ∧ w.toNat = k.1) ∧
    (tagOf 0x00000000 ≠ Engine.x.tag ∧ tagOf 0x00000000 ≠ 3) ∧ decode 0x00000000 = .error .opcode ∧
    (∃ j, decodeOp 0x00040001 = some j ∧ (kxUse j).mandatory = false ∧ decode 0x00040001 = .error (.field 0)) ∧
    (∃ j, decodeOp 0x41302F82 = some j ∧ (kxUse j).mandatory = true ∧ decode 0x41302F82 = .error (.operand 6)) ∧
    (∃ (s : State) (e : Engine), s.phase = .eng e ∧ canIssue (getCore s s.core) (curBank s s.core) e = true ∧
      (curBank s s.core).kxOf e = none ∧ (curBank s s.core).textEnd ≤ ((curBank s s.core).pcOf e).toNat) ∧
    (∃ s e p w n i, s.phase = .eng e ∧ (curBank s s.core).kxOf e = some p ∧
      canIssue (getCore s s.core) (curBank s s.core) e = true ∧
      ((curBank s s.core).pcOf e).toNat + 4 < (curBank s s.core).textEnd ∧
      fetchWord s ((curBank s s.core).pcOf e) = .ok w ∧ fetchWord s ((curBank s s.core).pcOf e + 4) = .ok n ∧
      tagOf n = tagOf w ∧ isKx n = false ∧ decode n = .ok i) ∧
    (∀ k ∈ [0x4000000003C00001, 0x03C0000103C00001], ∃ (s : State) (w n : _), s.phase = .eng .a ∧
      (curBank s s.core).kxOf .a = some 1 ∧ canIssue (getCore s s.core) (curBank s s.core) .a = true ∧
      ((curBank s s.core).pcOf .a).toNat + 4 < (curBank s s.core).textEnd ∧
      fetchWord s ((curBank s s.core).pcOf .a) = .ok w ∧ fetchWord s ((curBank s s.core).pcOf .a + 4) = .ok n ∧
      n.toNat * 2 ^ 32 + w.toNat = k ∧ (tagOf n ≠ tagOf w ∨ isKx n = true)) ∧
    ∃ s i l, s.agenda = .event i :: l ∧ latched s = false :=
  ⟨⟨State.reset.withFetchWord 32 0x00A01005, .a, _, _, rfl, by decide, nofun, rfl, rfl, rfl, by decide, rfl, .inl rfl, rfl⟩,
   by
    intro k h
    simp only [List.mem_cons, List.not_mem_nil, or_false] at h
    rcases h with rfl | rfl | rfl | rfl
    · exact ⟨{ State.reset.withFetchWord 32 0 with phase := .eng .x }, _, rfl, rfl, rfl, by decide, rfl, rfl⟩
    · exact ⟨State.reset.withFetchWord 32 0, _, rfl, rfl, rfl, by decide, rfl, rfl⟩
    · exact ⟨State.reset.withFetchWord 32 0x00040001, _, rfl, rfl, rfl, by decide, rfl, rfl⟩
    · exact ⟨State.reset.withFetchWord 32 0x41302F82, _, rfl, rfl, rfl, by decide, rfl, rfl⟩,
   ⟨by decide, by decide⟩, rfl, ⟨_, rfl, rfl, rfl⟩, ⟨_, rfl, rfl, rfl⟩,
   ⟨on .a fun b => { b with pc := Three.all 64 }, .a, rfl, rfl, rfl, by decide⟩,
   ⟨modCur (State.reset.withFetchWord 64 0x00A0100503C00001) 0 fun b => withKx .a 1 b, .a, _, _, _, _, rfl, rfl, rfl,
     by decide, rfl, rfl, rfl, rfl, rfl⟩,
   by
    intro k h
    simp only [List.mem_cons, List.not_mem_nil, or_false] at h
    rcases h with rfl | rfl
    · exact ⟨modCur (State.reset.withFetchWord 64 0x4000000003C00001) 0 fun b => withKx .a 1 b, _, _, rfl, rfl, rfl, by decide,
        rfl, rfl, rfl, .inl (by decide)⟩
    · exact ⟨modCur (State.reset.withFetchWord 64 0x03C0000103C00001) 0 fun b => withKx .a 1 b, _, _, rfl, rfl, rfl, by decide,
        rfl, rfl, rfl, .inr rfl⟩,
   ⟨{ run with agenda := [.event .mgmtLoad] }, _, _, rfl, rfl⟩⟩

/-! ### Scalar words -/

/-- A queue entry of scalar kind. -/
def num (v : Word) : QEntry := ⟨false, v.setWidth 4096, true, 0⟩

/-- A queue entry of vector kind. -/
def vec (v : Nat) : QEntry := ⟨true, BitVec.ofNat 4096 v, true, 0⟩

theorem witness_aluResults :
    (∃ p ∈ aluRows, ∃ s x y k, Ready (p.1 0 4 1 2) .a 0 s ∧ (curBank s s.core).useA 1 = .ok x ∧
      (curBank s s.core).useA 2 = .ok y ∧ (curBank s s.core).putA 4 (BitVec.ofInt 64 (p.2.2 x y)) = .ok k ∧ k.ra 4 = 1) ∧
    ∃ p ∈ aluRows, ∃ s x y k1 k2 k, Ready (p.2.1 0 36 32 2) .x 0 s ∧ (curBank s s.core).getS 32 = .ok (x, k1) ∧
      k1.getS 2 = .ok (y, k2) ∧ k2.putS 36 (BitVec.ofInt 64 (p.2.2 x y)) = .ok k ∧ k.queue 4 = [num 9] :=
  ⟨⟨_, .head _, on .a fun b => (b.wa 1 0xFFFFFFFFFFFFFFFF).wa 2 2, _, _, _, ready_of rfl, rfl, rfl, rfl, rfl⟩,
   ⟨_, .head _, on .x fun b => (b.setQueue 0 [num 7]).ws 2 2, _, _, _, _, _, ready_of rfl, rfl, rfl, rfl, rfl⟩⟩

theorem witness_immediateResults :
    (∃ p ∈ immRows, ∃ s x k, Ready (p.1 0 4 1 63) .a 0 s ∧ (curBank s s.core).useA 1 = .ok x ∧
      (curBank s s.core).putA 4 (BitVec.ofInt 64 (p.2.2 x (BitVec.ofInt 64 (widened 63 6 ((curBank s s.core).kxOf .a))) 63)) =
        .ok k ∧ k.ra 4 = 0xFFFFFFFFFFFFFFFF) ∧
    ∃ p ∈ immRows, ∃ s x k1 k, Ready (p.2.1 0 4 1 5) .x 0 s ∧ (curBank s s.core).getS 1 = .ok (x, k1) ∧
      k1.putS 4 (BitVec.ofInt 64 (p.2.2 x (BitVec.ofInt 64 (widened 5 6 ((curBank s s.core).kxOf .x))) 5)) = .ok k ∧
      k.rs 4 = 0x85 :=
  ⟨⟨_, .head _, run, _, _, ready_of rfl, rfl, rfl, rfl⟩,
   ⟨_, .head _, on .x fun b => withKx .x 2 b, _, _, _, ready_of rfl, rfl, rfl, rfl⟩⟩

theorem witness_loadImmediates :
    (∃ s k, Ready (.aLi 0 4 0xFFF) .a 0 s ∧
      (curBank s s.core).putA 4 (BitVec.ofInt 64 (widened 0xFFF 12 ((curBank s s.core).kxOf .a))) = .ok k) ∧
    (∃ s k, Ready (.xLi 0 4 1) .x 0 s ∧
      (curBank s s.core).putS 4 (BitVec.ofInt 64 (widened 1 12 ((curBank s s.core).kxOf .x))) = .ok k) ∧
    (∃ s v, Ready (.aLihi 0 4 1) .a 0 s ∧ (curBank s s.core).useA 4 = .ok v) ∧
    (∃ s, Ready (.xLihi 0 4 1) .x 0 s) ∧ ∃ s, Ready (.mMset 0 4 1) .m 0 s :=
  ⟨⟨run, _, ready_of rfl, rfl⟩, ⟨runX, _, ready_of rfl, rfl⟩, ⟨run, _, ready_of rfl, rfl⟩, ⟨runX, ready_of rfl⟩,
   ⟨runM, ready_of rfl⟩⟩

theorem witness_nopsPass :
    (∃ s, Ready (.aNop 1) .a 1 s ∧ exec (.aNop 1) s = .next (passed s .a 1)) ∧ (∃ s, Ready (.xNop 0) .x 0 s) ∧
    (∃ s, Ready (.mNop 0) .m 0 s) ∧ (∃ s, Ready .nop s.engine 0 s) ∧
    (∃ s, canIssue (getCore s s.core) (curBank s s.core) s.engine = true ∧ (curBank s s.core).slipBlocks s.engine 1 = false) ∧
    ∃ s, canIssue (getCore s s.core) (curBank s s.core) s.engine = true ∧ (curBank s s.core).kxOf s.engine = none :=
  ⟨⟨on .a fun b => b.setTok 4 1, ready_of rfl, rfl⟩, ⟨runX, ready_of rfl⟩, ⟨runM, ready_of rfl⟩,
   ⟨run, ready_of rfl⟩, ⟨run, rfl, rfl⟩, ⟨run, rfl, rfl⟩⟩

theorem witness_passingWordFrame : ∃ s : State, swf s.cores 0 Core.zero = true ∧ s.cores ≠ [] := ⟨run, rfl, nofun⟩

/-- An access in flight that writes a5. -/
def loading : Access where
  id := 7
  origin := ⟨0, 0, 1, 0⟩
  op := .load false
  plane := 0
  suit := 0
  places := [⟨.mem 64 0, 64, 64⟩]
  uses := []
  todo := [0]
  late := []
  got := []
  data := 0
  dest := .areg 5
  push := 0
  pops := []
  unsent := []
  sent := []
  resps := []

theorem witness_tokensOfWord :
    ∃ e t, ∃ b : Bank, swf b.issue.toks 0 (0 : BitVec 4) = true ∧ b.tokReady e t = true ∧ b.inflight ≠ [] ∧
      tokPops e t ≠ [] ∧ tokPushes e t ≠ [] :=
  ⟨.a, 0b1111, { (Bank.zero.setTok 4 1).setTok 2 1 with inflight := [loading] }, rfl, rfl, nofun, by decide, by decide⟩

/-- A word in flight holds the first entry of DQ0, so the second is the next; a scalar and a vector field of each kind. -/
theorem witness_scalarOperands :
    (∃ b : Bank, swf b.a 0 (0 : Word) = true ∧ swf b.s 0 (0 : Word) = true ∧ swf b.m 0 (0 : Word) = true ∧
      swf b.v 0 (0 : Vec) = true ∧ swf b.k 0 (0 : Mask) = true) ∧
    (∃ b q x l, Bank.queue b q = x :: l ∧ x.ready = true) ∧ (∃ b q x l, Bank.queue b q = x :: l ∧ x.ready = false) ∧
    (∃ b q, Bank.queue b q = []) ∧ (∃ b q, (Bank.queue b q).length + 1 = queueDepth q) ∧
    (∃ b q, queueDepth q = (Bank.queue b q).length) ∧
    (∃ (b : Bank) (r : Nat), r ≠ 0 ∧ r < 32 ∧ ∃ x ∈ b.inflight, x.dest = .areg (BitVec.ofNat 5 r)) ∧
    (∃ (b : Bank) (r : Nat), r < 32 ∧ ∀ x ∈ b.inflight, x.dest ≠ .areg (BitVec.ofNat 5 r)) ∧
    (∃ d : BitVec 6, d.toNat < 32) ∧
    (∃ (b : Bank) (d : BitVec 6) (l : _), 32 ≤ d.toNat ∧
      (b.queue (d.toNat - 32)).drop (b.inflight.filter fun y => y.pops.contains (d.toNat - 32)).length = num 2 :: l ∧
      b.getASq d = .ok (2, [4])) ∧
    (∃ (b : Bank) (b1 : Bank) (v : Vec), b.popQ 3 = .ok (v, b1) ∧ b.getS 35 = .ok (v.setWidth 64, b1)) ∧
    Bank.zero.popQ 0 = stall ∧ ∃ (b : Bank) (b1 : Bank) (v : Vec), b.getV 51 = .ok (v, b1) ∧ v = 5 :=
  ⟨⟨Bank.zero, rfl, rfl, rfl, rfl, rfl⟩, ⟨Bank.zero.setQueue 0 [num 1], 0, _, _, rfl, rfl⟩,
   ⟨Bank.zero.setQueue 0 [⟨false, 0, false, 3⟩], 0, _, _, rfl, rfl⟩, ⟨Bank.zero, 0, rfl⟩,
   ⟨Bank.zero.setQueue 6 (List.replicate 15 (num 1)), 6, rfl⟩, ⟨Bank.zero.setQueue 6 (List.replicate 16 (num 1)), 6, rfl⟩,
   ⟨{ Bank.zero with inflight := [loading] }, 5, by decide, by decide, _, .head _, rfl⟩,
   ⟨{ Bank.zero with inflight := [loading] }, 31, by decide, by decide⟩, ⟨31, by decide⟩,
   ⟨{ Bank.zero.setQueue 4 [num 1, num 2] with inflight := [{ loading with pops := [4] }] }, 36, _, by decide, rfl, rfl⟩,
   ⟨Bank.zero.setQueue 3 [num 5], _, _, rfl, rfl⟩, rfl, ⟨Bank.zero.setQueue 3 [vec 5], _, _, rfl, rfl⟩⟩

/-! ### Masks, vectors and floating point -/

/-- X reads v1, the popped head of DQ0 or a scalar where `i` asks for them. -/
def vecs : State := on .x fun b => ((b.wv 1 (BitVec.ofNat 4096 (2 ^ 4096 - 1))).wv 2 7).setQueue 0 [vec 3]

theorem witness_maskResults :
    Ready (.xKand 0 1 2 3) .x 0 runX ∧ Ready (.xKor 0 1 2 3) .x 0 runX ∧ Ready (.xKnot 0 1 2) .x 0 runX ∧
    (Ready (.xKmovs 0 4 2 15) .x 0 runX ∧ ∃ k, (curBank runX 0).putS 4
      (BitVec.ofNat 64 (((curBank runX 0).rk 2).toNat / 2 ^ (64 * 15))) = .ok k) ∧
    (Ready (.xKmovk 0 1 2 15) .x 0 runX ∧ ∃ x k1, (curBank runX 0).getS 2 = .ok (x, k1)) ∧
    Ready (.xKpopc 0 4 2) .x 0 runX ∧ ∃ k, (curBank runX 0).putS 4 (BitVec.ofNat 64
      ((List.range 1024).countP fun i => ((curBank runX 0).rk 2).getLsbD i)) = .ok k :=
  ⟨ready_of rfl, ready_of rfl, ready_of rfl, ⟨ready_of rfl, _, rfl⟩, ⟨ready_of rfl, _, _, rfl⟩, ready_of rfl, _, rfl⟩

/-- `i` may issue on `vecs` and its sources A and B are there; `h` holds of what they give. -/
def Two (i : Instr) (a b : BitVec 6) (h : Vec → Vec → Bank → Prop) : Prop :=
  ∃ x y k1 k2, Ready i .x 0 vecs ∧ (curBank vecs 0).getV a = .ok (x, k1) ∧ k1.getV b = .ok (y, k2) ∧ h x y k2

def One (i : Instr) (a : BitVec 6) (h : Vec → Bank → Prop) : Prop :=
  ∃ x k1, Ready i .x 0 vecs ∧ (curBank vecs 0).getV a = .ok (x, k1) ∧ h x k1

def noPred : Pred := predOf (curBank vecs 0) ((curBank vecs 0).kxOf .x)

theorem witness_vectorResults :
    (∃ p ∈ vectorRows, Two (p.1 0 0 4 48 2) 48 2 fun x y k2 => ∃ k, k2.commit noPred (laneWidth 0) 4
      (List.zipWith (p.2 (laneWidth 0)) (lanesOf x (laneWidth 0)) (lanesOf y (laneWidth 0))) = .ok k ∧
        elem (k.rv 4).toNat 32 0 = 10) ∧
    (∃ p ∈ laneRows, Two (p.1 0 4 1 2) 1 2 fun x y k2 => ∃ k, k2.commit noPred 32 4
      (List.zipWith p.2 (lanesOf x 32) (lanesOf y 32)) = .ok k ∧ elem (k.rv 4).toNat 32 0 = 7) ∧
    ∃ p ∈ vectorOneRows, One (p.1 0 1 4 1) 1 fun x k1 => ∃ k, k1.commit noPred (laneWidth 1) 4
      ((lanesOf x (laneWidth 1)).map (p.2 (laneWidth 1))) = .ok k ∧ elem (k.rv 4).toNat 16 255 = 1 :=
  ⟨⟨_, .head _, _, _, _, _, ready_of rfl, rfl, rfl, _, rfl, rfl⟩, ⟨_, .head _, _, _, _, _, ready_of rfl, rfl, rfl, _, rfl, rfl⟩,
   ⟨_, .head _, _, _, ready_of rfl, rfl, _, rfl, rfl⟩⟩

theorem witness_commitByElement : ∃ (w : Nat) (res : List Nat), 0 < w ∧ w * res.length ≤ 4096 ∧ res.length = 128 :=
  ⟨32, List.replicate 128 1, by decide, by decide, by decide⟩

theorem witness_compareResults : ∃ r ∈ compareRows, Two (r.1 0 1 2 1 2) 1 2 fun _ _ _ => True :=
  ⟨_, .head _, _, _, _, _, ready_of rfl, rfl, rfl, trivial⟩

theorem witness_vectorMovementResults :
    ((∃ x y k1 k2, Ready (.xVlop3 0 4 1 2) .x 0 (modCur vecs 0 (withKx .x 0x96)) ∧
       (curBank (modCur vecs 0 (withKx .x 0x96)) 0).getV 1 = .ok (x, k1) ∧ k1.getV 2 = .ok (y, k2)) ∧
     (∃ x y k1 k2, Ready (.xVfun 0 4 1 2) .x 0 (modCur vecs 0 (withKx .x 31)) ∧
       (curBank (modCur vecs 0 (withKx .x 31)) 0).getV 1 = .ok (x, k1) ∧ k1.getV 2 = .ok (y, k2)) ∧
     (Two (.xVmad24 0 4 1 2) 1 2 fun x y k2 => ∃ k, k2.commit noPred 32 4 (tab (fun i =>
       ((elem (k2.rv 4).toNat 32 i + sx 24 (elem x.toNat 32 i % 2 ^ 24) * sx 24 (elem y.toNat 32 i % 2 ^ 24)) %
         2 ^ 32).toNat) 0 128) = .ok k) ∧
     (One (.xVnarrow 0 2 4 1) 1 fun x k1 => ∃ k, k1.commit noPred (laneWidth 2 / 2) 4 ((lanesOf x (laneWidth 2)).map fun u =>
       (max (min (sx (laneWidth 2) u) (2 ^ (laneWidth 2 / 2 - 1) - 1)) (-2 ^ (laneWidth 2 / 2 - 1)) %
         2 ^ (laneWidth 2 / 2)).toNat) = .ok k ∧ elem (k.rv 4).toNat 8 0 = 0xFF) ∧
     (One (.xVredadd 0 1 4 1) 1 fun x k1 => ∃ k, k1.putS 4
       (BitVec.ofInt 64 (sx (laneWidth 1) ((lanesOf x (laneWidth 1)).sum % 2 ^ laneWidth 1))) = .ok k) ∧
     (∃ x y k1 k2 k, Ready (.xVsel 0 4 1 2) .x 0 (modCur vecs 0 (withKx .x 9)) ∧
       (curBank (modCur vecs 0 (withKx .x 9)) 0).getV 1 = .ok (x, k1) ∧ k1.getV 2 = .ok (y, k2) ∧ k2.putV 4 x = .ok k) ∧
     (Two (.xVperm 0 4 1 2) 1 2 fun x y k2 => ∃ k, k2.commit noPred 32 4
       (tab (fun i => elem x.toNat 32 (elem y.toNat 32 i % 128)) 0 128) = .ok k) ∧
     (One (.xVmov 0 4 48) 48 fun x k1 => ∃ k, k1.commit noPred 32 4 (lanesOf x 32) = .ok k ∧ elem (k.rv 4).toNat 32 0 = 3) ∧
     (One (.xVrot 0 3 4 1 5) 1 fun x k1 => ∃ c k2 k, k1.getS 5 = .ok (c, k2) ∧ k2.commit noPred (laneWidth 3) 4
       (tab (fun i => elem x.toNat (laneWidth 3) ((i + c.toNat) % (4096 / laneWidth 3))) 0 (4096 / laneWidth 3)) = .ok k) ∧
     (∃ x k1 k, Ready (.xVbcast 0 1 4 5) .x 0 vecs ∧ (curBank vecs 0).getS 5 = .ok (x, k1) ∧ k1.commit noPred (laneWidth 1) 4
       (List.replicate (4096 / laneWidth 1) (x.toNat % 2 ^ laneWidth 1)) = .ok k) ∧
     (One (.xVext 0 1 4 1 5) 1 fun x k1 => ∃ c k2 k, k1.getS 5 = .ok (c, k2) ∧ k2.putS 4
       (BitVec.ofInt 64 (sx (laneWidth 1) (elem x.toNat (laneWidth 1) (c.toNat % (4096 / laneWidth 1))))) = .ok k ∧
         k.rs 4 = 0xFFFFFFFFFFFFFFFF) ∧
     ∃ x c k1 k2, Ready (.xVins 0 1 4 5 6) .x 0 vecs ∧ (curBank vecs 0).getS 5 = .ok (x, k1) ∧ k1.getS 6 = .ok (c, k2)) ∧
    (Two (.xVwadd 0 1 4 1 2) 1 2 fun _ _ _ => True) ∧ Two (.xVwmul 0 3 4 1 2) 1 2 fun _ _ _ => True :=
  ⟨⟨⟨_, _, _, _, ready_of rfl, rfl, rfl⟩, ⟨_, _, _, _, ready_of rfl, rfl, rfl⟩,
    ⟨_, _, _, _, ready_of rfl, rfl, rfl, _, rfl⟩, ⟨_, _, ready_of rfl, rfl, _, rfl, rfl⟩, ⟨_, _, ready_of rfl, rfl, _, rfl⟩,
    ⟨_, _, _, _, _, ready_of rfl, rfl, rfl, rfl⟩, ⟨_, _, _, _, ready_of rfl, rfl, rfl, _, rfl⟩,
    ⟨_, _, ready_of rfl, rfl, _, rfl, rfl⟩, ⟨_, _, ready_of rfl, rfl, _, _, _, rfl, rfl⟩,
    ⟨_, _, _, ready_of rfl, rfl, rfl⟩, ⟨_, _, ready_of rfl, rfl, _, _, _, rfl, rfl, rfl⟩, ⟨_, _, _, _, ready_of rfl, rfl, rfl⟩⟩,
   ⟨_, _, _, _, ready_of rfl, rfl, rfl, trivial⟩, ⟨_, _, _, _, ready_of rfl, rfl, rfl, trivial⟩⟩

theorem witness_modeAndFlags :
    Ready (.xXrmode 0 4) .x 0 runX ∧
    (Ready (.xXflags 0 4 0) .x 0 runX ∧ ∃ k, (curBank runX 0).putS 4 ((curBank runX 0).xflags.setWidth 64) = .ok k) ∧
    Ready (.xXflags 0 4 1) .x 0 runX ∧
      ∃ k, ({ curBank runX 0 with xflags := 0 } : Bank).putS 4 ((curBank runX 0).xflags.setWidth 64) = .ok k :=
  ⟨ready_of rfl, ⟨ready_of rfl, _, rfl⟩, ready_of rfl, _, rfl⟩

/-- s1 and s2 hold 1.0 and 2.0; v1 holds 1.0 in every lane and v2 2.0 in the first. -/
def floats : State := on .x fun b => (((b.ws 1 0x3F800000).ws 2 0x40000000).wv 1
  (BitVec.ofNat 4096 (pack 32 (List.replicate 128 0x3F800000)))).wv 2 0x40000000

theorem witness_scalarFloatResults :
    (∃ p ∈ scalarFloatRows, ∃ x y k1 k2 k, Ready (p.1 0 4 1 2) .x 0 floats ∧ (curBank floats 0).getS 1 = .ok (x, k1) ∧
      k1.getS 2 = .ok (y, k2) ∧
      (k2.raiseFlags (p.2 (curBank floats 0) 4 (x.toNat % 2 ^ 32) (y.toNat % 2 ^ 32)).2).putS 4
        (BitVec.ofNat 64 (p.2 (curBank floats 0) 4 (x.toNat % 2 ^ 32) (y.toNat % 2 ^ 32)).1) = .ok k ∧ k.rs 4 = 0x40400000) ∧
    (∃ x k1 k, Ready (.xFrcp 0 4 2) .x 0 floats ∧ (curBank floats 0).getS 2 = .ok (x, k1) ∧
      (k1.raiseFlags (fRcp (x.toNat % 2 ^ 32)).2).putS 4 (BitVec.ofNat 64 (fRcp (x.toNat % 2 ^ 32)).1) = .ok k) ∧
    (∃ x k1 k, Ready (.xFrsq 0 4 2) .x 0 floats ∧ (curBank floats 0).getS 2 = .ok (x, k1) ∧
      (k1.raiseFlags (fRsq (x.toNat % 2 ^ 32)).2).putS 4 (BitVec.ofNat 64 (fRsq (x.toNat % 2 ^ 32)).1) = .ok k) ∧
    (∃ s x k1 k, Ready (.xFcvt 0 4 2) .x 0 s ∧ (curBank s s.core).kxOf .x = some 0x90 ∧ (curBank s s.core).getS 2 = .ok (x, k1) ∧
      let r := convert 0 9 ((curBank s s.core).convMode 0x90 0) (x.toNat % 2 ^ fmtWidth 0)
      (k1.raiseFlags r.2).putS 4 (if fmtSigned 9 then BitVec.ofInt 64 (sx (fmtWidth 9) r.1) else BitVec.ofNat 64 r.1) = .ok k) ∧
    ∃ x k1 k, Ready (.xVfredadd 0 4 1) .x 0 floats ∧ (curBank floats 0).getV 1 = .ok (x, k1) ∧
      let r := (treeSum (redAdd (curBank floats 0)) 7 1 ((lanesOf x 32).map fun e => (e, 0))).headD (0, 0)
      (k1.raiseFlags r.2).putS 4 (BitVec.ofNat 64 r.1) = .ok k :=
  ⟨⟨_, .head _, _, _, _, _, _, ready_of rfl, rfl, rfl, rfl, rfl⟩, ⟨_, _, _, ready_of rfl, rfl, rfl⟩,
   ⟨_, _, _, ready_of rfl, rfl, rfl⟩, ⟨modCur floats 0 (withKx .x 0x90), _, _, _, ready_of rfl, rfl, rfl, rfl⟩,
   ⟨_, _, _, ready_of rfl, rfl, rfl⟩⟩

theorem witness_vectorFloatResults :
    (∃ p ∈ floatRows, ∃ x y k1 k2 k, Ready (p.1 0 0 4 1 2) .x 0 floats ∧ (curBank floats 0).getV 1 = .ok (x, k1) ∧
      k1.getV 2 = .ok (y, k2) ∧
      let res := tab (fun i => p.2 0 (curBank floats 0) 4 i (elem x.toNat 32 i) (elem y.toNat 32 i)) 0 128
      (k2.raiseFlags (enabledFlags noPred 0 res)).commit noPred 32 4 (res.map Prod.fst) = .ok k) ∧
    (∃ p ∈ floatOneRows, ∃ x k1 k, Ready (p.1 0 4 1) .x 0 floats ∧ (curBank floats 0).getV 1 = .ok (x, k1) ∧
      let res := tab (fun i => p.2 (curBank floats 0) 4 i (elem x.toNat 32 i)) 0 128
      (k1.raiseFlags (enabledFlags noPred 0 res)).commit noPred 32 4 (res.map Prod.fst) = .ok k) ∧
    ∃ x y k1 k2, Ready (.xVfcmp 0 0 3 1 2) .x 0 (modCur floats 0 (withKx .x 1)) ∧
      (curBank (modCur floats 0 (withKx .x 1)) 0).getV 1 = .ok (x, k1) ∧ k1.getV 2 = .ok (y, k2) :=
  ⟨⟨_, .head _, _, _, _, _, _, ready_of rfl, rfl, rfl, rfl⟩, ⟨_, .head _, _, _, _, ready_of rfl, rfl, rfl⟩,
   ⟨_, _, _, _, ready_of rfl, rfl, rfl⟩⟩

theorem witness_conversionResults :
    (∃ s x k1 k, Ready (.xVfcvt 0 4 1) .x 0 s ∧ (curBank s s.core).kxOf .x = some 0x10 ∧ (curBank s s.core).getV 1 = .ok (x, k1) ∧
      let res := tab (fun i => convert 0 1 ((curBank s s.core).convMode 0x10 i) (elem x.toNat 32 i)) 0 128
      (k1.raiseFlags (res.foldl (fun m r => m ||| r.2) 0)).putV 4 (BitVec.ofNat 4096 (pack 16 (res.map Prod.fst))) = .ok k) ∧
    (∃ x y k1 k2, Ready (.xVqscale 0 4 1 2) .x 0 floats ∧ (curBank floats 0).getV 1 = .ok (x, k1) ∧ k1.getV 2 = .ok (y, k2)) ∧
    (∃ x y k1 k2, Ready (.xVqpack 0 4 1 2) .x 0 floats ∧ (curBank floats 0).getV 1 = .ok (x, k1) ∧ k1.getV 2 = .ok (y, k2)) ∧
    (∃ x y k1 k2, Ready (.xVqunpk 0 4 1 2) .x 0 floats ∧ (curBank floats 0).getV 1 = .ok (x, k1) ∧ k1.getV 2 = .ok (y, k2)) ∧
    ∀ (b : Bank) (v : Vec), ∃ k, b.putV 4 v = .ok k :=
  ⟨⟨modCur floats 0 (withKx .x 0x10), _, _, _, ready_of rfl, rfl, rfl, rfl⟩, ⟨_, _, _, _, ready_of rfl, rfl, rfl⟩,
   ⟨_, _, _, _, ready_of rfl, rfl, rfl⟩, ⟨_, _, _, _, ready_of rfl, rfl, rfl⟩, fun _ _ => ⟨_, rfl⟩⟩

/-! ### Numbers -/

/-- Zeros, the smallest and the largest encodings, infinities and NaN of FP32 and E4M3; 2^-14/256 and the largest S12 scale. -/
theorem witness_numberRules :
    (∃ p ∈ floatFormats, ∃ s e f, s < 2 ∧ e < 2 ^ p.2.1 ∧ f < 2 ^ p.2.2.1 ∧ p.1 = 3 ∧ e = 2 ^ p.2.1 - 1 ∧ f = 6 ∧
      value (decodeF p.1 ((s * 2 ^ p.2.1 + e) * 2 ^ p.2.2.1 + f)) = some (-448)) ∧
    (decodeF 0 0 = .zero false ∧ value (decodeF 2 1) = some (1 / 16777216) ∧ decodeF 0 0xFF800000 = .inf true ∧
      decodeF 0 0x7F800001 = .nan ∧ decodeF 3 0x7F = .nan) ∧
    (s12Value 0xFFF = .nan ∧ value (s12Value 1) = some (1 / 4194304) ∧ value (s12Value 0xF00) = some 1) ∧
    (∃ v w, value (s12Value 0xF00) = some v ∧ value (decodeF 0 0x3F000000) = some w ∧
      value (nq4Value 15 0xF00 0x3F000000) = some (1 / 2)) ∧
    (∃ p ∈ floatFormats, ∃ b, b < 2 ^ fmtWidth p.1 ∧ decodeF p.1 b ≠ .nan ∧ value (decodeF p.1 b) ≠ none) ∧
    (∃ p ∈ floatFormats, ∃ x, value (.fin true 1 3 0) = some x ∧ (roundTo p.1 ⟨0, false, 0, 0, none⟩ (.fin true 1 3 0)).2 = 1) ∧
    ∃ p ∈ floatFormats, ∃ x, value (.fin false 1 1 200) = some x ∧ (roundTo p.1 ⟨0, true, 0, 0, none⟩ (.fin false 1 1 200)).2 = 5 :=
  ⟨⟨(3, 4, 3, 7, 0x7E), by decide, 1, 15, 6, by decide, by decide, by decide, rfl, rfl, rfl,
     by decide +kernel⟩,
   ⟨rfl, by decide +kernel, rfl, rfl, rfl⟩, ⟨rfl, by decide +kernel, by decide +kernel⟩, ⟨_, _, rfl, rfl, by decide +kernel⟩,
   ⟨_, .head _, 0x7F7FFFFF, by decide, by decide, by decide⟩, ⟨_, .head _, _, rfl, by decide⟩, ⟨_, .head _, _, rfl, by decide⟩⟩

/-- 127.5 lies above INT8, so that toward zero it gives 127 and no flag; 128.5 is clamped with NV; 1 + 1, Inf - Inf, 0 x Inf, -0 + 0. -/
theorem witness_arithmeticCases :
    (∃ x, value (.fin false 255 2 0) = some x ∧ roundTo 8 ⟨1, false, 0, 0, none⟩ (.fin false 255 2 0) = (127, 0)) ∧
    (∃ x, value (.fin false 257 2 0) = some x ∧ roundTo 8 ⟨4, false, 0, 0, none⟩ (.fin false 257 2 0) = (127, 16)) ∧
    convert 9 8 ⟨0, false, 0, 0, none⟩ 300 = (44, 0) ∧ (isFloat 0 = true ∧ convert 0 9 ⟨0, false, 0, 0, none⟩ 0x3FC00000 = (2, 1)) ∧
    fArith .add 0 ⟨0, false, 0, 0, none⟩ 0x7F800000 0xFF800000 0 = (0x7FC00000, 16) ∧
    fArith .mul 0 ⟨0, false, 0, 0, none⟩ 0 0x7F800000 0 = (0x7FC00000, 16) ∧
    fArith .add 0 ⟨2, false, 0, 0, none⟩ 0x80000000 0 0 = (0x80000000, 0) ∧
    (∃ x, value (decodeF 0 0x3F800000) = some x ∧ x + x ≠ 0 ∧ fArith .add 0 ⟨0, false, 0, 0, none⟩ 0x3F800000 0x3F800000 0 =
      (0x40000000, 0)) ∧
    (decodeF 0 0x7FC00001 = .nan ∧ fCompare 0 1 0x7FC00001 0 = (true, 0) ∧ fCompare 0 5 0x7FC00001 0 = (false, 16)) ∧
    (∃ x, value (decodeF 0 0xBF800000) = some x ∧ x < 0) ∧ (∃ x, value (decodeF 0 0x43000000) = some x ∧ 128 ≤ x) ∧
    (∃ x, value (decodeF 0 0xC30C0000) = some x ∧ x ≤ -140) ∧
    (∃ x, value (decodeF 0 0x40400000) = some x ∧ x ≠ 0 ∧ (fRcp 0x40400000).2 < 4 ∧ mag x ≤ pow2 126) ∧
    (decodeF 0 0x7F800000 = .inf false ∧ s12Value 0xFFF = .nan ∧ s12Value 0xF00 ≠ .nan) ∧
    (groupSum [.inf true, .zero false] (.fin false 1 1 0) = 0xFF800000 ∧ groupSum [.zero true] (.fin false 1 1 0) = 0) :=
  ⟨⟨_, rfl, by decide⟩, ⟨_, rfl, by decide⟩, by decide, ⟨rfl, by decide⟩, by decide, by decide, by decide,
   ⟨_, rfl, by decide +kernel, by decide⟩, ⟨rfl, by decide, by decide⟩, ⟨_, rfl, by decide +kernel⟩,
   ⟨_, rfl, by decide +kernel⟩, ⟨_, rfl, by decide +kernel⟩,
   ⟨_, rfl, by decide +kernel, by decide, by decide +kernel⟩, ⟨rfl, rfl, by decide⟩, by decide, by decide⟩

/-! ### Shared words and faults -/

/-- Three engines at offset 4, with two loop levels: a fixed trip count of 3, and s2 of X. -/
def loops (f : Bank → Bank) : State :=
  on .a fun b => f { b with
    kern := some { bareKernel 0 16 with levels := [⟨.temporal, 0, .fixed 3, 0, true, 0, 0, 1⟩, ⟨.temporal, 1, .reg .x 2, 0, false, 0, 0, 1⟩] }
    pc := Three.all 4 }

/-- The kernel of `withFetchWord` with one level of trip count `n`. -/
def loopText (w n : Nat) : State :=
  modCur (State.reset.withFetchWord 64 w) 0 fun b =>
    { b with kern := b.kern.map fun k => { k with levels := [⟨.temporal, 0, .fixed n, 0, false, 0, 0, 1⟩] } }

/-- A target on either side of the end of the text; a stack of 15, 16 and no entries. -/
theorem witness_branchesAndCalls :
    (Ready (.b 15) run.engine 0 run ∧ ((curBank run 0).wordPc run.engine + 4 * BitVec.ofInt 64 (widened 15 18 none)).toNat + 4 =
      (curBank run 0).textEnd) ∧
    (Ready (.b 16) run.engine 0 run ∧
      (curBank run 0).textEnd = ((curBank run 0).wordPc run.engine + 4 * BitVec.ofInt 64 (widened 16 18 none)).toNat) ∧
    (∃ s, Ready (.call 1) s.engine 0 s ∧ ((curBank s s.core).issue.rstk.get s.engine).length = 15) ∧
    (∃ s, Ready (.call 1) s.engine 0 s ∧ ((curBank s s.core).issue.rstk.get s.engine).length = 16) ∧
    (∃ s t l, Ready .ret s.engine 0 s ∧ (curBank s s.core).issue.rstk.get s.engine = t :: l) ∧
    ∃ s, Ready .ret s.engine 0 s ∧ (curBank s s.core).issue.rstk.get s.engine = [] :=
  ⟨⟨ready_of rfl, rfl⟩, ⟨ready_of rfl, rfl⟩, ⟨on .a fun b => b.setStack .a (List.replicate 15 4), ready_of rfl, rfl⟩,
   ⟨on .a fun b => b.setStack .a (List.replicate 16 4), ready_of rfl, rfl⟩,
   ⟨on .a fun b => b.setStack .a [8], _, _, ready_of rfl, rfl⟩, ⟨run, ready_of rfl, rfl⟩⟩

/-- BC NEZ on A, taken and not taken, and on X; BI on A and on X. -/
theorem witness_outcomeBranches :
    (∃ s v, Ready (.bc 0 1 1 15) s.engine 0 s ∧ engineOf 0 = some s.engine ∧ (curBank s s.core).oqRoom .a = true ∧
      (curBank s s.core).useReg .a 1 = .ok v ∧ branchCond 1 v = true ∧
      ((curBank s s.core).wordPc .a + 4 * BitVec.ofInt 64 (widened 15 7 none)).toNat < (curBank s s.core).textEnd) ∧
    (∃ s v, Ready (.bc 0 1 1 16) s.engine 0 s ∧ engineOf 0 = some s.engine ∧ (curBank s s.core).oqRoom .a = true ∧
      (curBank s s.core).useReg .a 1 = .ok v ∧ branchCond 1 v = false) ∧
    (∃ s v l, Ready (.bc 0 1 1 15) s.engine 0 s ∧ engineOf 0 = some .a ∧ Engine.a ≠ s.engine ∧
      (curBank s s.core).oq (oqKey .a s.engine) = v :: l) ∧
    (∃ s v, Ready (.bi 0 1) s.engine 0 s ∧ engineOf 0 = some s.engine ∧ (curBank s s.core).oqRoom .a = true ∧
      (curBank s s.core).useReg .a 1 = .ok v ∧ 4 * v.toNat + 4 = (curBank s s.core).textEnd) ∧
    ∃ s v l, Ready (.bi 0 1) s.engine 0 s ∧ engineOf 0 = some .a ∧ Engine.a ≠ s.engine ∧
      (curBank s s.core).oq (oqKey .a s.engine) = v :: l :=
  ⟨⟨on .a fun b => b.wa 1 1, _, ready_of rfl, rfl, rfl, rfl, rfl, by decide⟩,
   ⟨run, _, ready_of rfl, rfl, rfl, rfl, rfl⟩,
   ⟨on .x fun b => b.setOq (oqKey .a .x) [1], _, _, ready_of rfl, rfl, by decide, rfl⟩,
   ⟨on .a fun b => b.wa 1 15, _, ready_of rfl, rfl, rfl, rfl, rfl⟩,
   ⟨on .x fun b => b.setOq (oqKey .a .x) [3], _, _, ready_of rfl, rfl, by decide, rfl⟩⟩

/-- Trip counts 3 and 0, with and without an ENDL; a level inside no other; LC 1 and 2 of 3. -/
theorem witness_hardwareLoops :
    (∃ s v t b1, Ready (.loop 0) s.engine 0 s ∧ levelAt (curBank s s.core) 0 = some v ∧ v.kind = .temporal ∧
      nestAllows (curBank s s.core) s.engine v = true ∧ tripCount (curBank s s.core) s.engine v = .ok (t, b1) ∧ t ≠ 0) ∧
    (∃ s v t b1 p, Ready (.loop 0) s.engine 0 s ∧ levelAt (curBank s s.core) 0 = some v ∧ v.kind = .temporal ∧
      nestAllows (curBank s s.core) s.engine v = true ∧ tripCount (curBank s s.core) s.engine v = .ok (t, b1) ∧ t = 0 ∧
      findEndl s 0 (((curBank s s.core).textEnd - ((curBank s s.core).wordPc s.engine + 4).toNat) / 4)
        ((curBank s s.core).wordPc s.engine + 4) = .ok (some p)) ∧
    (∃ s v t b1, Ready (.loop 0) s.engine 0 s ∧ levelAt (curBank s s.core) 0 = some v ∧ v.kind = .temporal ∧
      nestAllows (curBank s s.core) s.engine v = true ∧ tripCount (curBank s s.core) s.engine v = .ok (t, b1) ∧ t = 0 ∧
      findEndl s 0 (((curBank s s.core).textEnd - ((curBank s s.core).wordPc s.engine + 4).toNat) / 4)
        ((curBank s s.core).wordPc s.engine + 4) = .ok none) ∧
    (∃ v : Level, v.trip = .fixed 3) ∧
    (∃ (b : Bank) (v : Level) (w : _), v.trip = .reg .x 2 ∧ b.oqRoom .x = true ∧ b.useReg .x 2 = .ok w) ∧
    (∃ s v, Ready (.loop 1) s.engine 0 s ∧ levelAt (curBank s s.core) 1 = some v ∧
      loopWaits (curBank s s.core) s.engine v = true) ∧
    (∃ s v, Ready (.loop 1) s.engine 0 s ∧ levelAt (curBank s s.core) 1 = some v ∧
      loopWaits (curBank s s.core) s.engine v = false ∧ nestAllows (curBank s s.core) s.engine v = false) ∧
    (∃ s, Ready (.loop 2) s.engine 0 s ∧ levelAt (curBank s s.core) 2 = none) ∧
    (∃ s u, Ready (.endl 0) s.engine 0 s ∧ levelAt (curBank s s.core) 0 = some u ∧
      (loopOf (curBank s s.core).issue s.engine 0).active = true ∧ innermost (curBank s s.core) s.engine = some u.pos.toNat ∧
      (loopOf (curBank s s.core).issue s.engine 0).lc = 1) ∧
    (∃ s u, Ready (.endl 0) s.engine 0 s ∧ levelAt (curBank s s.core) 0 = some u ∧
      (loopOf (curBank s s.core).issue s.engine 0).active = true ∧ innermost (curBank s s.core) s.engine = some u.pos.toNat ∧
      (loopOf (curBank s s.core).issue s.engine 0).lc = 2) ∧
    ∃ s u, Ready (.endl 0) s.engine 0 s ∧ levelAt (curBank s s.core) 0 = some u ∧
      (loopOf (curBank s s.core).issue s.engine 0).active = false :=
  ⟨⟨loops id, _, _, _, ready_of rfl, rfl, rfl, rfl, rfl, by decide⟩,
   ⟨loopText 0xC0200000C01C0000 0, _, _, _, _, ready_of rfl, rfl, rfl, rfl, rfl, rfl, rfl⟩,
   ⟨loopText 0xC0240000C01C0000 0, _, _, _, ready_of rfl, rfl, rfl, rfl, rfl, rfl, rfl⟩,
   ⟨⟨.temporal, 0, .fixed 3, 0, false, 0, 0, 1⟩, rfl⟩, ⟨Bank.zero, ⟨.temporal, 1, .reg .x 2, 0, false, 0, 0, 1⟩, _, rfl, rfl, rfl⟩,
   ⟨loops id, _, ready_of rfl, rfl, rfl⟩, ⟨loops fun b => b.setOq (oqKey .x .a) [2], _, ready_of rfl, rfl, rfl, rfl⟩,
   ⟨loops id, ready_of rfl, rfl⟩,
   ⟨loops fun b => b.putLoop .a 0 ⟨1, 3, 8, true⟩, _, ready_of rfl, rfl, rfl, rfl, rfl⟩,
   ⟨loops fun b => b.putLoop .a 0 ⟨2, 3, 8, true⟩, _, ready_of rfl, rfl, rfl, rfl, rfl⟩, ⟨loops id, _, ready_of rfl, rfl, rfl⟩⟩

/-- Core 0 runs privileged bank 1 while bank 0 waits on a service fault. -/
def driver : State :=
  { modCore State.reset 0 fun k => { k with
      active := true
      bank0 := { k.bank0 with st := .serviceWait, kern := some (bareKernel 0 16) }
      bank1 := { k.bank1 with st := .running, priv := true, kern := some (bareKernel 0 16) } } with phase := .eng .a }

theorem witness_joiningWords :
    (∀ i ∈ [Instr.exit, .resume, .trap 5, .round 0], ∃ s, Ready i s.engine 0 s ∧ (curBank s s.core).joined = false) ∧
    (∀ i ∈ [Instr.halt, .eret], ∃ s, Ready i s.engine 0 s ∧ (curBank s s.core).joined = false) ∧
    (∀ i ∈ [Instr.exit, .resume, .trap 0xFFFF], Ready i run.engine 0 run ∧ (curBank run 0).joined = true ∧
      (curBank run 0).trapActive = false) ∧
    (∃ s, Ready .resume s.engine 0 s ∧ (curBank s s.core).joined = true ∧ (curBank s s.core).trapActive = true) ∧
    (∃ s, Ready .halt s.engine 0 s ∧ (curBank s s.core).joined = true) ∧
    (Ready .eret driver.engine 0 driver ∧ (curBank driver 0).joined = true ∧ (getCore driver 0).active = true ∧
      (getCore driver 0).bank0.st = .serviceWait ∧ swf driver.cores 0 Core.zero = true) ∧
    (∃ s, Ready .eret s.engine 0 s ∧ (curBank s s.core).joined = true ∧ (getCore s s.core).active = true ∧
      (getCore s s.core).bank0.st = .stopped ∧ (getCore s s.core).bank0.svcPend = true ∧ swf s.cores 0 Core.zero = true) ∧
    (∃ s, Ready .eret s.engine 0 s ∧ (curBank s s.core).joined = true ∧ (getCore s s.core).active = false) ∧
    (∃ s, Ready .eret s.engine 0 s ∧ (curBank s s.core).joined = true ∧ (getCore s s.core).active = true ∧
      (getCore s s.core).bank0.st = .stopped ∧ (getCore s s.core).bank0.svcPend = false) ∧
    (∃ s : State, canIssue (getCore s s.core) (curBank s s.core) .a = true ∧ (curBank s s.core).skip.get .a = true ∧
      (curBank s s.core).slipBlocks .a ((curBank s s.core).pairLen .a) = false ∧ (curBank s s.core).tokReady .a 0 = true) ∧
    (canIssue (getCore run 0) (curBank run 0) run.engine = true ∧ (curBank run 0).skip.get run.engine = false ∧
      (curBank run 0).kxOf run.engine = none ∧ (curBank run 0).priv = false) :=
  let behind : Bank → Bank := fun b => { b with pc := ⟨4, 0, 4⟩ }
  ⟨by
    intro i h
    simp only [List.mem_cons, List.not_mem_nil, or_false] at h
    rcases h with rfl | rfl | rfl | rfl <;> exact ⟨on .a behind, ready_of rfl, rfl⟩,
   by
    intro i h
    simp only [List.mem_cons, List.not_mem_nil, or_false] at h
    rcases h with rfl | rfl <;> exact ⟨on .a fun b => { behind b with priv := true }, ready_of rfl, rfl⟩,
   by
    intro i h
    simp only [List.mem_cons, List.not_mem_nil, or_false] at h
    rcases h with rfl | rfl | rfl <;> exact ⟨ready_of rfl, rfl, rfl⟩,
   ⟨on .a fun b => { b with trapActive := true }, ready_of rfl, rfl, rfl⟩,
   ⟨on .a fun b => { b with priv := true }, ready_of rfl, rfl⟩, ⟨ready_of rfl, rfl, rfl, rfl, rfl⟩,
   ⟨modCore driver 0 fun k => { k with bank0 := { k.bank0 with st := .stopped, svcPend := true } }, ready_of rfl, rfl, rfl, rfl, rfl, rfl⟩,
   ⟨on .a fun b => { b with priv := true }, ready_of rfl, rfl, rfl⟩,
   ⟨modCore driver 0 fun k => { k with bank0 := { k.bank0 with st := .stopped } }, ready_of rfl, rfl, rfl, rfl, rfl⟩,
   ⟨on .a fun b => { b with skip := ⟨true, false, false⟩ }, rfl, rfl, rfl, rfl⟩, ⟨rfl, rfl, rfl, rfl⟩⟩

/-- SKIP on the engine of the word, and none after TRAPPED. -/
theorem test_skipEngines :
    skipEngines { Bank.zero with trapSkip := true, fault := ⟨0x01, 1, 0, 0, 0, 0, 9⟩ } = ⟨false, true, false⟩ ∧
    skipEngines { Bank.zero with trapSkip := true, fault := ⟨0x03, 3, 0, 0, 0, 0, 0⟩ } = ⟨false, false, false⟩ := ⟨rfl, rfl⟩

/-- A kernel with a handler at word 5. -/
def handler (f : Bank → Bank) : State :=
  on .a fun b => f { b with kern := some { bareKernel 0 16 with thv := true, trapOff := 5 } }

theorem witness_trapHandlerEntry :
    ∃ (s : State) (fr : FaultRec) (k : Kernel), swf s.cores 0 Core.zero = true ∧ isService fr.code = false ∧
      (curBank s 0).kern = some k ∧ k.thv = true ∧ (curBank s 0).trapActive = false ∧ fr.engine = Engine.tag .x ∧
      (curBank (takeFault s 0 fr none) 0).pc = Three.all 20 ∧ (curBank (takeFault s 0 fr none) 0).rpc = ⟨4, 12, 8⟩ :=
  ⟨handler fun b => { b with pc := ⟨4, 12, 8⟩ }, ⟨0x01, 1, 12, 0, 0, 0, 9⟩, _, rfl, rfl, rfl, rfl, rfl, rfl, rfl, rfl⟩

theorem witness_serviceFaultTaken :
    (∃ (s : State) (fr : FaultRec), swf s.cores 0 Core.zero = true ∧ isService fr.code = true ∧
      (getBank s 0 (!(getCore s 0).active)).st = .ready) ∧
    ∃ (s : State) (fr : FaultRec), swf s.cores 0 Core.zero = true ∧ isService fr.code = true ∧
      (getBank s 0 (!(getCore s 0).active)).st ≠ .ready :=
  ⟨⟨modBank run 0 true fun b => { b with st := .ready }, ⟨0x12, 0, 0, 0, 0, 0, 0⟩, rfl, rfl, rfl⟩,
   ⟨run, ⟨0x20, 0, 0, 0, 0, 0, 1⟩, rfl, rfl, by decide⟩⟩

theorem witness_illegalWordFaults :
    (∃ s w, canIssue (getCore s s.core) (curBank s s.core) s.engine = true ∧ (curBank s s.core).skip.get s.engine = false ∧
      ((curBank s s.core).pcOf s.engine).toNat < (curBank s s.core).textEnd ∧
      fetchWord s ((curBank s s.core).pcOf s.engine) = .ok w ∧ tagOf w = s.engine.tag ∧ decode w = .error .opcode) ∧
    (∃ s w, canIssue (getCore s s.core) (curBank s s.core) s.engine = true ∧ (curBank s s.core).skip.get s.engine = false ∧
      ((curBank s s.core).pcOf s.engine).toNat < (curBank s s.core).textEnd ∧
      fetchWord s ((curBank s s.core).pcOf s.engine) = .ok w ∧ tagOf w = 3 ∧ decode w = .error .dep) ∧
    (∃ s, canIssue (getCore s s.core) (curBank s s.core) s.engine = true ∧ (curBank s s.core).skip.get s.engine = false ∧
      (curBank s s.core).textEnd = ((curBank s s.core).pcOf s.engine).toNat) ∧
    (curBank run 0).inflight = [] ∧
    ∃ s : State, (curBank s 0).inflight ≠ [] ∧ swf s.cores 0 Core.zero = true :=
  ⟨⟨State.reset.withFetchWord 32 0x40000000, _, rfl, rfl, by decide, rfl, rfl, rfl⟩,
   ⟨State.reset.withFetchWord 32 0xC4040000, _, rfl, rfl, by decide, rfl, rfl, rfl⟩,
   ⟨on .a fun b => { b with pc := Three.all 64 }, rfl, rfl, rfl⟩, rfl,
   ⟨on .a fun b => { b with inflight := [loading] }, by decide, rfl⟩⟩

/-! ### The M engine and the array -/

/-- A slot of BF16 tiles with FP32 output, and one with NQ4 for B. -/
def slots : List FmtSlot := [⟨false, 0, 1, 1⟩, ⟨false, 0, 5, 3⟩]

def tile (fmt : BitVec 4) : TileEntry := ⟨0, 0, 0, false, 2, 2, fmt, []⟩

/-- Core 0 holds the hand of table 0 with two accumulators and the commands `l`; queues 0 and 8 hold an entry each. -/
def array (l : List Cmd) (f : Bank → Bank) : State :=
  let s := on .m fun b => f { b with
    kern := some { bareKernel 0 16 with levels := [⟨.temporal, 0, .fixed 3, 0, true, 1, 0, 1⟩], fmts := slots }
    mat := { b.mat with member := true, nacc := 2, shapeM := 2, shapeN := 2, shapeK := 2 } }
  modTable (modCore s 0 fun k => { k with granted := 2, accOwner := some 0, cmds := l }) 0 fun t =>
    { t with holder := some 0, queues := [(0, [tile 1]), (8, [tile 1])] }

/-- The record of command word `i`. -/
def cmd (i : Instr) : Cmd := (curBank (array [] id) 0).record 3 i

theorem witness_matrixScalarWords :
    Ready (.mMadd 0 1 2 3) .m 0 runM ∧
    (∃ s x l, Ready (.mMpop 0 1) .m 0 s ∧ (curBank s s.core).queue 6 = x :: l ∧ x.ready = true) ∧ Ready (.mMlc 0 1 15) .m 0 runM ∧
    (∃ s, Ready (.mTlook 0 1 2 3) .m 0 s ∧ (curBank s s.core).rm 1 = 255 ∧ (curBank s s.core).rm 2 = 0 ∧
      (curBank s s.core).rm 3 = 0) ∧ Ready (.mTstat 0 1 5) .m 0 runM ∧
    (∃ s, Ready (.mMshape 0 1 2 3) .m 0 s ∧ (curBank s s.core).rm 1 = 128 ∧ (curBank s s.core).rm 2 = 0 ∧
      (curBank s s.core).rm 3 = 0) ∧
    (∃ s, Ready (.mMshape 0 1 2 3) .m 0 s ∧ (curBank s s.core).rm 2 = 129) ∧
    (Ready (.mMfmt 0 1) .m 0 (array [] id) ∧ 1 < (curBank (array [] id) 0).slots.length) ∧
    (Ready (.mMfmt 0 2) .m 0 (array [] id) ∧ (curBank (array [] id) 0).slots.length = 2) ∧
    (∃ s k v, Ready (.mMfmtl 0 0) .m 0 s ∧ (curBank s s.core).kern = some k ∧ k.levels[0]? = some v ∧ v.fmtl = true ∧
      v.fbase.toNat + (loopOf (curBank s s.core).issue .m 0).lc.toNat + 1 = k.fmts.length) ∧
    ∃ s k v, Ready (.mMfmtl 0 0) .m 0 s ∧ (curBank s s.core).kern = some k ∧ k.levels[0]? = some v ∧ v.fmtl = true ∧
      v.fbase.toNat + (loopOf (curBank s s.core).issue .m 0).lc.toNat = k.fmts.length :=
  ⟨ready_of rfl, ⟨on .m fun b => b.setQueue 6 [num 5], _, _, ready_of rfl, rfl, rfl⟩, ready_of rfl,
   ⟨on .m fun b => b.wm 1 255, ready_of rfl, rfl, rfl, rfl⟩, ready_of rfl,
   ⟨on .m fun b => b.wm 1 128, ready_of rfl, rfl, rfl, rfl⟩, ⟨on .m fun b => b.wm 2 129, ready_of rfl, rfl⟩,
   ⟨ready_of rfl, by decide⟩, ⟨ready_of rfl, rfl⟩, ⟨array [] id, _, _, ready_of rfl, rfl, rfl, rfl, rfl⟩,
   ⟨array [] fun b => b.putLoop .m 0 ⟨1, 3, 4, true⟩, _, _, ready_of rfl, rfl, rfl, rfl, rfl⟩⟩

/-- The queue with 15 records, a held tile of B, and a core that is no member. -/
theorem witness_commandWords :
    (∃ s, (∀ i ∈ [Instr.mMrmode 0 2 1, .mMfence 0, .mMclr 0 1, .mMdrain 0 1 16, .mMldacc 0 0 0], Ready i .m 0 s) ∧
      (getCore s s.core).cmds.length = 15 ∧ MayUse (curBank s s.core) 1 ∧ (∃ f, Slot (curBank s s.core) f) ∧
      linkBound s 16 = true ∧ linkBound s 0 = true) ∧
    (∃ s f, Ready (.mMmul 0 1 0 127 0) .m 0 s ∧ Ready (.mMmulk 0 1 0 127 1) .m 0 s ∧ (getCore s s.core).cmds.length < 16 ∧
      MayUse (curBank s s.core) 1 ∧ Slot (curBank s s.core) f ∧ (curBank s s.core).mat.held = true ∧
      (curBank s s.core).mat.heldFmt = f.fb ∧ mulLinks s 0 127 = .ok ()) ∧
    (Ready (.mMclr 0 2) .m 0 (array [] id) ∧ ¬MayUse (curBank (array [] id) 0) 2) ∧
    Ready (.mMclr 0 0) .m 0 runM ∧ ¬MayUse (curBank runM 0) 0 :=
  ⟨⟨array (List.replicate 15 (cmd (.mMfence 0))) id, by
      intro i h
      simp only [List.mem_cons, List.not_mem_nil, or_false] at h
      rcases h with rfl | rfl | rfl | rfl | rfl <;> exact ready_of rfl,
     rfl, ⟨rfl, by decide⟩, ⟨_, rfl⟩, rfl, rfl⟩,
   ⟨array [] fun b => { b with mat := { b.mat with held := true, heldFmt := 1 } }, _, ready_of rfl, ready_of rfl, by decide,
     ⟨rfl, by decide⟩, rfl, rfl, rfl, rfl⟩,
   ⟨ready_of rfl, fun h => absurd h.2 (by decide)⟩, ready_of rfl, fun h => absurd h.1 (by decide)⟩

/-- A drain that begins and one that takes its last row; entries of the owner and of another; a multiplication behind one that has
begun. -/
theorem witness_matrixCommands :
    (∃ s m, getCmd s 0 0 = some m ∧ m.op = 0x32 ∧ m.stale = [] ∧ mayStart s 0 0 m = true ∧ m.want s (tableOf 0) = .go ∧ m.shapeM ≠ 0) ∧
    (∃ s m, getCmd s 0 0 = some m ∧ m.op = 0x32 ∧ m.stale = [] ∧ mayStart s 0 0 m = true ∧ m.want s (tableOf 0) = .go ∧ m.shapeM = 0) ∧
    (∃ s m, getCmd s 0 0 = some m ∧ m.op = 0x32 ∧ m.running = true ∧ arrayRuns s 0 0 = true ∧ m.ea = some (tile 3) ∧
      m.shapeM.toNat = (m.gnext + 1).toNat) ∧
    (∃ s m, getCmd s 0 0 = some m ∧ m.op = 0x34 ∧ mayStart s 0 0 m = true) ∧
    (∃ s m e s1, getCmd s 0 0 = some m ∧ m.op = 0x33 ∧ mayStart s 0 0 m = true ∧ m.want s (tableOf 0) = .go ∧
      popTile s (tableOf 0) m.qa = some (e, s1) ∧ e.owner = (getCore s1 0).arrayOwner) ∧
    (∃ s m e s1, getCmd s 0 0 = some m ∧ m.op = 0x33 ∧ mayStart s 0 0 m = true ∧ m.want s (tableOf 0) = .go ∧
      popTile s (tableOf 0) m.qa = some (e, s1) ∧ e.owner ≠ (getCore s1 0).arrayOwner) ∧
    (∃ s m, getCmd s 0 0 = some m ∧ m.isMul = true ∧ mayStart s 0 0 m = true ∧ m.want s (tableOf 0) = .go) ∧
    (∃ s m j, getCmd s 0 1 = some m ∧ mayStart s 0 1 m = true ∧ m.isMul = true ∧ j ∈ (getCore s 0).cmds.take 1 ∧ j.isMul = true) ∧
    (∃ s m l, (getCore s 0).cmds = m :: l ∧ m.finished = true) ∧
    (∃ s m l, (getCore s 0).cmds = m :: l ∧ m.op = 0x25 ∧ (getCore s 0).bank0.st = .running) ∧
    (∃ s m l, (getCore s 0).cmds = m :: l ∧ m.op = 0x35 ∧ (getCore s 0).bank0.st = .running) ∧
    ∃ s m l, (getCore s 0).cmds = m :: l ∧ m.op = 0x21 ∧ (getCore s 0).bank0.st = .running :=
  ⟨⟨array [cmd (.mMdrain 0 1 16)] id, _, rfl, rfl, rfl, rfl, rfl, by decide⟩,
   ⟨array [{ cmd (.mMdrain 0 1 16) with shapeM := 0 }] id, _, rfl, rfl, rfl, rfl, rfl, rfl⟩,
   ⟨array [{ cmd (.mMdrain 0 1 16) with begun := true, gnext := 1, ea := some (tile 3) }] id, _, rfl, rfl, rfl, rfl, rfl, rfl⟩,
   ⟨array [cmd (.mMclr 0 1)] id, _, rfl, rfl, rfl⟩,
   ⟨array [cmd (.mMldacc 0 1 0)] id, _, _, _, rfl, rfl, rfl, rfl, rfl, rfl⟩,
   ⟨modCore (array [cmd (.mMldacc 0 1 0)] id) 0 fun k => { k with accOwner := some 5 }, _, _, _, rfl, rfl, rfl, rfl, rfl, by decide⟩,
   ⟨array [cmd (.mMmul 0 1 0 8 0)] id, _, rfl, rfl, rfl, rfl⟩,
   ⟨array [{ cmd (.mMmul 0 1 1 9 0) with begun := true }, cmd (.mMmul 0 0 0 8 0)] id, _, _, rfl, rfl, rfl, .head _, rfl⟩,
   ⟨array [(cmd (.mMclr 0 1)).end_] id, _, _, rfl, rfl⟩,
   ⟨array [cmd (.mMrmode 0 1 1)] id, _, _, rfl, rfl, rfl⟩, ⟨array [cmd (.mMfence 0)] id, _, _, rfl, rfl, rfl⟩,
   ⟨array [cmd (.mMrels 0)] id, _, _, rfl, rfl, rfl⟩⟩

theorem witness_multiplyGroup :
    ∃ s m ea eb, swf s.cores 0 Core.zero = true ∧ swf (getCore s 0).accs 0 (0 : BitVec 32) = true ∧ getCmd s 0 0 = some m ∧
      m.isMul = true ∧ m.begun = true ∧ m.finished = false ∧ arrayRuns s 0 0 = true ∧ m.ea = some ea ∧ m.eb = some eb ∧
      m.shapeM.toNat ≤ 128 ∧ m.shapeN.toNat ≤ 128 :=
  ⟨array [{ cmd (.mMmul 0 1 0 8 0) with begun := true, ea := some (tile 1), eb := some (tile 1), shapeM := 128 }] id,
   _, _, _, rfl, rfl, rfl, rfl, rfl, rfl, rfl, rfl, rfl, by decide, by decide⟩

/-- Core 0 before it asks, while it is granted, and as a member; a request that fits and one of a former holder. -/
theorem witness_handWords :
    (Ready (.mMhand 0 8) .m 0 runM ∧ (getCore runM 0).active = false ∧ (curBank runM 0).mat.member = false ∧
      (getCore runM 0).releasing = false ∧ (getCore runM 0).granted = 0 ∧
      (getTable runM (tableOf 0)).reqs.any (fun r => r.core == 0) = false) ∧
    (∃ s, Ready (.mMhand 0 8) .m 0 s ∧ (getCore s s.core).active = false ∧ (curBank s s.core).mat.member = false ∧
      (getCore s s.core).releasing = false ∧ (getCore s s.core).granted = 8) ∧
    (Ready (.mMhand 0 1) .m 0 (array [] id) ∧ (curBank (array [] id) 0).mat.member = true) ∧
    (Ready (.mMrels 0) .m 0 runM ∧ (curBank runM 0).mat.member = false) ∧
    (Ready (.mMrels 0) .m 0 (array [] id) ∧ (curBank (array [] id) 0).mat.member = true ∧
      (getCore (array [] id) 0).cmds.length < 16) ∧
    (∃ s r l, Canonical s ∧ (getTable s 63).holder = none ∧ (getTable s 63).reqs = r :: l ∧ r.ready s 63 = true ∧
      tableOf r.core = 63 ∧ r.n = some 8) ∧
    ∃ s r l, Canonical s ∧ (getTable s 63).holder = none ∧ (getTable s 63).reqs = r :: l ∧ r.ready s 63 = true ∧
      tableOf r.core = 63 ∧ r.n = none :=
  ⟨⟨ready_of rfl, rfl, rfl, rfl, rfl, rfl⟩, ⟨modCore runM 0 fun k => { k with granted := 8 }, ready_of rfl, rfl, rfl, rfl, rfl⟩,
   ⟨ready_of rfl, rfl⟩, ⟨ready_of rfl, rfl⟩, ⟨ready_of rfl, rfl, by decide⟩,
   ⟨modTable run 63 fun t => { t with reqs := [⟨1023, some 8⟩] }, _, _, ⟨rfl, rfl, rfl, rfl⟩, rfl, rfl, rfl, rfl, rfl⟩,
   ⟨modTable run 63 fun t => { t with reqs := [⟨1008, none⟩] }, _, _, ⟨rfl, rfl, rfl, rfl⟩, rfl, rfl, rfl, rfl, rfl⟩⟩

/-- A context whose page tables map GLOBAL 0 on, with a slot of NQ4. -/
def mapped : State :=
  modCur { State.reset.withFetchWord 32 0x80040000 with phase := .eng .m } 0 fun b =>
    { b.wm 3 0x10000 with kern := b.kern.map fun k => { k with fmts := [⟨false, 0, 5, 3⟩] } }

theorem witness_tileQueues :
    (∃ f ps uses, Ready (.mMfeed 0 8 3) .m 0 mapped ∧ Slot (curBank mapped 0) f ∧ f.fb = 5 ∧ (curBank mapped 0).rm 3 = 0x10000 ∧
      aperture 0x10000 = .global ∧
      imagePlaces mapped (viewOf mapped 0 false) (tab (fun i => 0x10000 + BitVec.ofNat 64 (32 * i)) 0 273) = .ok (ps, uses) ∧
      firstPosition mapped (viewOf mapped 0 false) (tab (fun i => 0x10000 + BitVec.ofNat 64 (32 * i)) 0 273) = none ∧
      containerSize f.fb / 32 = 273 ∧ (getTable mapped (tableOf 0)).feeds.length < 32) ∧
    (∃ s f l, (getTable s 63).feeds = f :: l ∧ tileRoom s 63 f.q = true ∧ isLink f.q = false ∧
      remapHolds s f.cmd f.places = false) ∧
    ∃ s h l, swf s.tables 0 Table.zero = true ∧ swf (getTable s 0).queues 0 ([] : List TileEntry) = true ∧
      swf s.fabric.ports 0 Port.zero = true ∧ tileQueue s 0 8 = h :: l ∧ isLink 9 = false :=
  ⟨⟨_, _, _, ready_of rfl, rfl, rfl, rfl, rfl, rfl, rfl, rfl, by decide⟩,
   ⟨modTable run 63 fun t => { t with feeds := [⟨1008, 2, 8, 1, 0, [⟨.mem 64 0, 256, 256⟩], []⟩] }, _, _, rfl, rfl, rfl, rfl⟩,
   ⟨array [] id, _, _, rfl, rfl, rfl, rfl, rfl⟩⟩

/-! ### Tempo -/

/-- m1 to m8 of a session: period 64, two beats, queues 8 and 0 to 16, accumulators 0 and 1, group of two, FMASK of core 0. -/
def tempoRegs (b : Bank) : Bank :=
  ((((((((b.wm 1 64).wm 2 2).wm 3 0x800).wm 4 16).wm 5 8).wm 6 2).wm 7 0).wm 8 1)

/-- A session in phase `p` at beat `n`, its record at the head of the queue. -/
def session (p : SessionPhase) (n : Nat) (f : Session → Session) : State :=
  modCore (array [cmd (.mTempo 0)] id) 0 fun k =>
    { k with session := some (f { newSession (tempoRegs Bank.zero) none with phase := p, c := n }) }

/-- The session with m`r` at `v`. -/
def par (r : Nat) (v : Word) (z : Session) : Session := { z with par := sset z.par r v 0 }

/-- The record of the session marked stale for QA, which is link queue 32. -/
def staled (s : State) : State := modCore s 0 fun k => { k with cmds := k.cmds.map fun m => { m with stale := [32] } }

theorem witness_tempoWords :
    (∃ s f z, z = newSession (curBank s s.core) (launchOrder s s.core) ∧ Ready (.mTempo 0) .m 0 s ∧
      (curBank s s.core).mat.member = true ∧ (getCore s s.core).session = none ∧
      Slot (curBank s s.core) f ∧ (getCore s s.core).cmds.length < 16 ∧
      (∀ r, 1 ≤ r → r ≤ 8 → tempoRegBad f r (z.reg r) = false) ∧ z.accOf 0 ≠ z.accOf 1 ∧
      z.accOf 0 < (curBank s s.core).mat.nacc.toNat ∧ z.accOf 1 < (curBank s s.core).mat.nacc.toNat ∧
      (curBank s s.core).mat.shapeM ≠ 0 ∧ (curBank s s.core).mat.shapeN ≠ 0 ∧ (curBank s s.core).mat.shapeK ≠ 0 ∧ z.qb ≠ 127 ∧
      linkBound s z.qa = true ∧ linkBound s z.qb = true ∧ linkBound s z.qd = true) ∧
    (Ready (.mTcut 0 0) .m 0 runM ∧ (getCore runM 0).session = none) ∧
    (∃ s z, Ready (.mTcut 0 0) .m 0 s ∧ (getCore s s.core).session = some z ∧ z.cut = some true ∧ z.phase ≠ .waiting) ∧
    ∃ s z, Ready (.mTcut 0 0) .m 0 s ∧ (getCore s s.core).session = some z ∧ z.phase = .waiting ∧
      notReady s s.core { z with cut := some (0 == 1 || z.cut.getD false) } ≠ none :=
  ⟨⟨array [] tempoRegs, _, _, rfl, ready_of rfl, rfl, rfl, rfl, by decide, by
      intro r h1 h2
      have : r = 1 ∨ r = 2 ∨ r = 3 ∨ r = 4 ∨ r = 5 ∨ r = 6 ∨ r = 7 ∨ r = 8 := by omega
      rcases this with rfl | rfl | rfl | rfl | rfl | rfl | rfl | rfl <;> rfl,
     by decide, by decide, by decide, by decide, by decide, by decide, by decide, rfl, rfl, rfl⟩,
   ⟨ready_of rfl, rfl⟩, ⟨session .boundary 1 fun z => { z with cut := some true }, _, ready_of rfl, rfl, rfl, by decide⟩,
   ⟨session .waiting 1 (par 3 0x100), _, ready_of rfl, rfl, rfl, by decide⟩⟩

/-- A session at a boundary whose drain may be due. -/
def AtBoundary (s : State) (z : Session) (m : Cmd) : Prop :=
  tempoNow s 0 = some (z, m) ∧ z.phase = .boundary ∧ tempoMoves s 0 z = true ∧ (getCore s 0).heldEvents.length < 16

/-- The drain of the last group begins at this boundary, and not with the DRAINED of LOOKD = 0. -/
def Drains (s : State) (z : Session) (m : Cmd) : Prop :=
  z.c ≠ 0 ∧ 0 < z.kt ∧ z.c % z.kt = 0 ∧ z.pushed < z.c / z.kt ∧ drainLost s 0 z m = false ∧
    ((tempoOf s 0 z).lookd ≠ 0 ∨ z.c / z.kt - 1 < z.nd ∨ isLink z.qd = true)

/-- Boundary 0, boundary 1 with KT = 1 and 2, the last boundary with its drain and after it, cuts, an aborted launch and a stale
queue. -/
theorem witness_tempoBoundaries :
    (∃ s z m, tempoNow s 0 = some (z, m) ∧ z.phase = .queued ∧ tempoMoves s 0 z = true ∧ turnOver s 0 0 = false) ∧
    (∃ s z m, AtBoundary s z m ∧ z.c < z.limit ∧ z.cut = none ∧ z.kill = false ∧ beatLink s 0 z m = none ∧ z.c = 0) ∧
    (∃ s z m, AtBoundary s z m ∧ z.c < z.limit ∧ z.cut = none ∧ z.kill = false ∧ beatLink s 0 z m = none ∧ z.c % z.kt ≠ 0) ∧
    (∃ s z m, AtBoundary s z m ∧ z.c < z.limit ∧ z.cut = none ∧ z.kill = false ∧ beatLink s 0 z m = none ∧ z.kt = 1 ∧
      Drains s z m) ∧
    (∃ s z m, AtBoundary s z m ∧ z.c < z.limit ∧ z.cut = none ∧ z.kill = false ∧ beatLink s 0 z m = none ∧ z.kt = 1 ∧
      z.c ≠ 0 ∧ z.c % z.kt = 0 ∧ z.pushed < z.c / z.kt ∧ drainLost s 0 z m = false ∧ (tempoOf s 0 z).lookd = 0 ∧
      z.nd = z.c / z.kt - 1 ∧ isLink z.qd = false) ∧
    (∃ s z m, AtBoundary s z m ∧ z.c = z.limit ∧ z.c / z.kt = z.pushed) ∧
    (∃ s z m, AtBoundary s z m ∧ z.c = z.limit ∧ Drains s z m) ∧
    (∃ s z m, AtBoundary s z m ∧ z.c < z.limit ∧ z.cut = some true) ∧
    (∃ s z m, AtBoundary s z m ∧ z.c < z.limit ∧ z.cut = some false ∧ z.c % z.kt ≠ 0) ∧
    (∃ s z m, AtBoundary s z m ∧ z.c < z.limit ∧ z.cut = none ∧ z.kill = true) ∧
    ∃ s z m, AtBoundary s z m ∧ z.c < z.limit ∧ z.cut = none ∧ z.kill = false ∧ beatLink s 0 z m = some (4, 32) :=
  ⟨⟨session .queued 0 id, _, _, rfl, rfl, rfl, rfl⟩,
   ⟨session .boundary 0 id, _, _, ⟨rfl, rfl, rfl, by decide⟩, by decide, rfl, rfl, rfl, rfl⟩,
   ⟨session .boundary 1 id, _, _, ⟨rfl, rfl, rfl, by decide⟩, by decide, rfl, rfl, rfl, by decide⟩,
   ⟨session .boundary 1 fun z => { par 6 1 z with nd := 1 }, _, _, ⟨rfl, rfl, rfl, by decide⟩, by decide, rfl, rfl, rfl, rfl,
     by decide, by decide, by decide, by decide, rfl, .inr (.inl (by decide))⟩,
   ⟨session .boundary 1 (par 6 1), _, _, ⟨rfl, rfl, rfl, by decide⟩, by decide, rfl, rfl, rfl, rfl, by decide, by decide,
     by decide, rfl, rfl, rfl, rfl⟩,
   ⟨session .boundary 2 fun z => { z with pushed := 1, nd := 1 }, _, _, ⟨rfl, rfl, rfl, by decide⟩, rfl, rfl⟩,
   ⟨session .boundary 2 fun z => { z with nd := 1 }, _, _, ⟨rfl, rfl, rfl, by decide⟩, rfl,
     by decide, by decide, by decide, by decide, rfl, .inr (.inl (by decide))⟩,
   ⟨session .boundary 1 fun z => { z with cut := some true }, _, _, ⟨rfl, rfl, rfl, by decide⟩, by decide, rfl⟩,
   ⟨session .boundary 1 fun z => { z with cut := some false }, _, _, ⟨rfl, rfl, rfl, by decide⟩, by decide, rfl, by decide⟩,
   ⟨session .boundary 1 fun z => { z with kill := true }, _, _, ⟨rfl, rfl, rfl, by decide⟩, by decide, rfl, rfl⟩,
   ⟨staled (session .boundary 1 (par 3 0x820)), _, _, ⟨rfl, rfl, rfl, by decide⟩, by decide, rfl, rfl, rfl⟩⟩

/-- Sixteen events of core 0 that are held. -/
def fullHeld : List HeldEvent := List.replicate 16 ⟨0, 0, some 5, 0⟩

/-- What goOn does next: wait for places, run the beat, miss, or wait with the miss. -/
theorem witness_tempoSession :
    (∃ s z m, tempoNow s 0 = some (z, m) ∧ z.phase = .raising ∧ tempoEnds s 0 = true ∧ z.kill = false ∧
      (getCore s 0).heldEvents.length < 16) ∧
    (∃ s z, let d := raiseDue s 0 (heldRoom s 0) z
      nextDue (putSession d.1 0 d.2) 0 d.2 ≠ none) ∧
    (∃ s z, let d := raiseDue s 0 (heldRoom s 0) z
      nextDue (putSession d.1 0 d.2) 0 d.2 = none ∧ notReady (putSession d.1 0 d.2) 0 d.2 = none) ∧
    (∃ s z, let d := raiseDue s 0 (heldRoom s 0) z
      nextDue (putSession d.1 0 d.2) 0 d.2 = none ∧ notReady (putSession d.1 0 d.2) 0 d.2 ≠ none ∧
        roomForAll (putSession d.1 0 d.2) 0 d.2 = true) ∧
    (∃ s z, let d := raiseDue s 0 (heldRoom s 0) z
      nextDue (putSession d.1 0 d.2) 0 d.2 = none ∧ notReady (putSession d.1 0 d.2) 0 d.2 ≠ none ∧
        roomForAll (putSession d.1 0 d.2) 0 d.2 = false) ∧
    (∃ s z m, tempoNow s 0 = some (z, m) ∧ z.phase = .waiting ∧ tempoMoves s 0 z = true ∧ beatLink s 0 z m = some (4, 32)) ∧
    (∃ s z m, tempoNow s 0 = some (z, m) ∧ z.phase = .waiting ∧ tempoMoves s 0 z = true ∧ beatLink s 0 z m = none ∧
      notReady s 0 z = none) ∧
    ∃ s z m, tempoNow s 0 = some (z, m) ∧ z.phase = .waiting ∧ tempoMoves s 0 z = true ∧ beatLink s 0 z m = none ∧
      notReady s 0 z ≠ none ∧ z.cut = some true :=
  ⟨⟨session .raising 1 id, _, _, rfl, rfl, rfl, rfl, by decide⟩,
   ⟨modCore (session .raising 0 id) 0 fun k => { k with heldEvents := fullHeld }, newSession (tempoRegs Bank.zero) none, by decide⟩,
   ⟨session .raising 0 id, newSession (tempoRegs Bank.zero) none, by decide, by decide⟩,
   ⟨session .raising 0 id, par 3 0x100 (newSession (tempoRegs Bank.zero) none), by decide, by decide, by decide⟩,
   ⟨modCore (session .raising 0 id) 0 fun k => { k with heldEvents := fullHeld },
     { par 3 0x100 (newSession (tempoRegs Bank.zero) none) with na := 3, nb := 3 }, by decide, by decide, by decide⟩,
   ⟨staled (session .waiting 1 (par 3 0x820)), _, _, rfl, rfl, rfl, rfl⟩,
   ⟨session .waiting 1 id, _, _, rfl, rfl, rfl, rfl, rfl⟩,
   ⟨session .waiting 1 fun z => { par 3 0x100 z with cut := some true }, _, _, rfl, rfl, rfl, rfl, by decide, rfl⟩⟩

/-- A void entry that is due; ends after whole and after part of a group, and as ABORT and KILL. -/
theorem witness_tempoFinishes :
    (∃ s z m, tempoNow s 0 = some (z, m) ∧ z.phase = .finishing 1 ∧ tempoEnds s 0 = true ∧ z.pushed < z.nd ∧
      tileRoom s (tableOf 0) z.qd = true) ∧
    ∀ k ∈ [((1 : BitVec 3), 2), (3, 2), (5, 2), (2, 1)], ∃ (s : State) (z : _) (m : _), tempoNow s 0 = some (z, m) ∧
      z.phase = .finishing k.1 ∧ z.c = k.2 ∧ tempoEnds s 0 = true ∧ z.nd ≤ z.pushed ∧ roomForAll s 0 z = true ∧
      swf s.cores 0 Core.zero = true ∧ (getCore s 0).bank0.ctx = z.ctx :=
  ⟨⟨session (.finishing 1) 2 fun z => { z with nd := 1 }, _, _, rfl, rfl, rfl, by decide, rfl⟩, by
    intro k h
    simp only [List.mem_cons, List.not_mem_nil, or_false] at h
    rcases h with rfl | rfl | rfl | rfl
    · exact ⟨session (.finishing 1) 2 id, _, _, rfl, rfl, rfl, rfl, by decide, rfl, rfl, rfl⟩
    · exact ⟨session (.finishing 3) 2 id, _, _, rfl, rfl, rfl, rfl, by decide, rfl, rfl, rfl⟩
    · exact ⟨session (.finishing 5) 2 id, _, _, rfl, rfl, rfl, rfl, by decide, rfl, rfl, rfl⟩
    · exact ⟨session (.finishing 2) 1 id, _, _, rfl, rfl, rfl, rfl, by decide, rfl, rfl, rfl⟩⟩

/-- A launch that was dispatched as number 9, of one kernel group. -/
def launch : Launch := ⟨0, bareKernel 0 16, [], 9, 0, 0, 0, 1, [], [], true, [0], [], 0, [], []⟩

/-- Slot 5 holds that launch. -/
def dispatched : State :=
  { run with shoe := { run.shoe with launches := [(5, launch)] } }

/-- Events of that launch for cores `l`; core 1 runs a context of it with `n` events, core 2 runs none, core 3 has room. -/
def events (n : Nat) (l : List Nat) : State :=
  let s := modCore (modBank dispatched 0 false fun b => { b with launch := some 5 }) 0 fun k =>
    { k with heldEvents := l.map fun t => ⟨t, t, some 9, 0x80⟩
             session := some { newSession Bank.zero (some 9) with phase := .boundary } }
  modBank (modBank s 1 false fun b => { b with st := .running, launch := some 5, evq := List.replicate n 1 })
    3 false fun b => { b with st := .running, launch := some 5 }

theorem witness_eventsDelivered :
    (∃ s e l, swf s.cores 0 Core.zero = true ∧ (getCore s 0).bank0.st ≠ .stopped ∧ (getCore s 0).heldEvents = e :: l ∧
      e.arrives s = true ∧ (getBank s e.target false).evq.length = 63) ∧
    (∃ s e f l, swf s.cores 0 Core.zero = true ∧ (getCore s 0).bank0.st ≠ .stopped ∧ (getCore s 0).heldEvents = e :: f :: l ∧
      e.arrives s = true ∧ (getBank s e.target false).evq.length = 64 ∧ f.arrives s = true ∧
      (getBank s f.target false).evq.length < 64) ∧
    (∃ s e l z, swf s.cores 0 Core.zero = true ∧ (getCore s 0).bank0.st ≠ .stopped ∧ (getCore s 0).heldEvents = e :: l ∧
      (getBank s e.target false).st = .empty ∧ (getCore s 0).shownSession = some z ∧ z.launch = e.launch ∧
      (getCore s 0).bank0.ctx = z.ctx) ∧
    (∃ (e : HeldEvent) (s : State) (o : Nat), e.launch = some o ∧ (getBank s e.target false).st ≠ .empty) ∧
    Ready (.aEvpop 0 4) .a 0 run ∧ Ready (.aEvpeek 0 4) .a 0 run :=
  ⟨⟨events 63 [1], _, _, rfl, by decide, rfl, rfl, rfl⟩,
   ⟨events 64 [1, 3], _, _, _, rfl, by decide, rfl, rfl, rfl, rfl, by decide⟩,
   ⟨events 0 [2], _, _, _, rfl, by decide, rfl, rfl, rfl, rfl, rfl⟩,
   ⟨⟨0, 1, some 9, 0⟩, events 0 [1], 9, rfl, by decide⟩, ready_of rfl, ready_of rfl⟩

/-! ### Memory words -/

/-- Every place lies on this node. -/
def localB (ps : List Place) : Bool := ps.all fun p => match p.tgt with
  | .node _ _ => false
  | _ => true

theorem maySend_of {s : State} {f : Located} (h : localB f.places = true) : MaySend s f := by
  refine .inl fun p hp l o e => ?_
  have := List.all_eq_true.mp h p hp
  rw [e] at this
  cases this

/-- An address of core 0's scratchpad, one on node 1, and a number of unacknowledged write packets. -/
def own : Word := 0x8100000000000000
def afar : Word := 0xC000010000000000
def unacked (n : Nat) (s : State) : State := modCore s 0 fun k => { k with pathcnt := [(0, n)] }

/-- a1 holds `x`. -/
def at1 (x : Word) (f : Bank → Bank) : State := on .a fun b => f (b.wa 1 x)

/-- A load of a7 and into DQ0 at the end of the scratchpad, and one of no address; stores of SQ0, of a2 toward node 1 with 1,023 and
1,024 packets unacknowledged, and of no address. -/
theorem witness_scalarAccessesIssue :
    (∀ d ∈ [(7 : BitVec 6), 32], ∃ r ∈ loadRows, ∃ s v b1 f, Ready (r.1 0 d 1 0 0) .a 0 s ∧ (curBank s s.core).useA 1 = .ok v ∧
      takeDest (curBank s s.core) false (loadDest d s.seq) = .ok b1 ∧
      locateAll s (viewNow s) 0 0 r.2.1 true false false false [v + displacement r.2.1 ((curBank s s.core).kxOf .a)] = .ok f ∧
      f.places.length = 1) ∧
    (∃ r ∈ loadRows, ∃ s v b1 e, Ready (r.1 0 7 1 0 0) .a 0 s ∧ (curBank s s.core).useA 1 = .ok v ∧
      takeDest (curBank s s.core) false (loadDest 7 s.seq) = .ok b1 ∧
      (∀ page, e ≠ .walk page) ∧
      locateAll s (viewNow s) 0 0 r.2.1 true false false false [v + displacement r.2.1 ((curBank s s.core).kxOf .a)] = .error e) ∧
    (∃ r ∈ storeRows, ∃ s v w pops f, Ready (r.1 0 36 1 0 0) .a 0 s ∧ (curBank s s.core).useA 1 = .ok v ∧
      (curBank s s.core).getASq 36 = .ok (w, pops) ∧ pops = [4] ∧
      locateAll s (viewNow s) 0 0 r.2 false true false false [v + displacement r.2 ((curBank s s.core).kxOf .a)] = .ok f ∧
      MaySend s f) ∧
    (∃ r ∈ storeRows, ∃ s v w pops f, Ready (r.1 0 2 1 0 0) .a 0 s ∧ (curBank s s.core).useA 1 = .ok v ∧
      (curBank s s.core).getASq 2 = .ok (w, pops) ∧ pops = [] ∧
      locateAll s (viewNow s) 0 0 r.2 false true false false [v + displacement r.2 ((curBank s s.core).kxOf .a)] = .ok f ∧
      localB f.places = false ∧ MaySend s f) ∧
    (∃ r ∈ storeRows, ∃ s v w pops, Ready (r.1 0 2 1 0 0) .a 0 s ∧ (curBank s s.core).useA 1 = .ok v ∧
      (curBank s s.core).getASq 2 = .ok (w, pops) ∧
      isRemote s (v + displacement r.2 ((curBank s s.core).kxOf .a)) = true ∧ (getCore s s.core).pathTotal = 1024) ∧
    ∃ r ∈ storeRows, ∃ s v w pops e, Ready (r.1 0 2 1 0 0) .a 0 s ∧ (curBank s s.core).useA 1 = .ok v ∧
      (curBank s s.core).getASq 2 = .ok (w, pops) ∧ (∀ page, e ≠ .walk page) ∧
      locateAll s (viewNow s) 0 0 r.2 false true false false [v + displacement r.2 ((curBank s s.core).kxOf .a)] = .error e :=
  ⟨by
    intro d h
    simp only [List.mem_cons, List.not_mem_nil, or_false] at h
    rcases h with rfl | rfl <;> exact ⟨_, .head _, at1 0x810000000007FFFF id, _, _, _, ready_of rfl, rfl, rfl, rfl, rfl⟩,
   ⟨_, .head _, at1 0x8400000000000000 id, _, _, .fault .space 0x8400000000000000 0 0 _, ready_of rfl, rfl, rfl, nofun, rfl⟩,
   ⟨_, .head _, at1 own fun b => b.setQueue 4 [num 5], _, _, _, _, ready_of rfl, rfl, rfl, rfl, rfl, maySend_of rfl⟩,
   ⟨_, .head _, unacked 1023 (at1 afar id), _, _, _, _, ready_of rfl, rfl, rfl, rfl, rfl, rfl, .inr (by decide)⟩,
   ⟨_, .head _, unacked 1024 (at1 afar id), _, _, _, ready_of rfl, rfl, rfl, rfl, rfl⟩,
   ⟨_, .head _, at1 0x8100000000080000 id, _, _, _, .fault .space 0x8100000000080000 0 0 _, ready_of rfl, rfl, rfl, nofun, rfl⟩⟩

/-- A cached position leaf of virtual page 0 of core 0, with one plane of 32-bit elements, 100 positions, frame 0 at the start of the far tier. -/
def positions : State :=
  let s := modCore (at1 0 fun b => b.wa 2 9) 0 fun k =>
    { k with tlb := [⟨0, 0, 0, 1, 0x1F, BitVec.ofNat 512 (100 + 2 ^ 48 + 2 ^ 56 + 0x3FC4 * 2 ^ 128)⟩] }
  modTable s 0 fun t => { t with pfc := [⟨0, 0, 0, 0, 0, 0, 0x2000000001⟩] }

/-- A cached byte leaf of the page from 0xE000 on, and a PRIV window from `base` on of `size` bytes. -/
def windowOf (base size x : Word) : State :=
  modCore (at1 x fun b => { b with privBase := base, privSize := size }) 0 fun k =>
    { k with tlb := [⟨0, 0, 0x00000000E000, 1, 0x200000001B, 0⟩] }

/-- A window of 2^32 bytes that ends at the end of that page. -/
def windowEnd (x : Word) : State := windowOf 0xFFFF0000F000 0x100000000 x

theorem witness_wideAccessesIssue :
    (∃ s v b1 f, Ready (.aLdv 0 32 1 0 0) .a 0 s ∧ (curBank s s.core).useA 1 = .ok v ∧
      takeDest (curBank s s.core) true (loadDest 32 s.seq) = .ok b1 ∧
      locateVec s (viewNow s) 0 0 true false (v + displacement 512 ((curBank s s.core).kxOf .a)) = .ok f) ∧
    (∃ s v w f, Ready (.aStv 0 36 1 0 0) .a 0 s ∧ (curBank s s.core).useA 1 = .ok v ∧ (curBank s s.core).peekQ 4 = .ok w ∧
      locateVec s (viewNow s) 0 0 false true (v + displacement 512 ((curBank s s.core).kxOf .a)) = .ok f ∧ MaySend s f) ∧
    (∃ s v i b1 f, Ready (.aGath 0 32 1 0 0) .a 0 s ∧ (curBank s s.core).useA 1 = .ok v ∧ (curBank s s.core).peekQ 5 = .ok i ∧
      takeDest (curBank s s.core) true (loadDest 32 s.seq) = .ok b1 ∧
      locateLanes s (viewNow s) 0 0 true false (v + displacement 4 ((curBank s s.core).kxOf .a)) (lanesIdx i) = .ok f) ∧
    (∃ s v i w f, Ready (.aScat 0 1 0 0) .a 0 s ∧ (curBank s s.core).useA 1 = .ok v ∧ (curBank s s.core).peekQ 4 = .ok w ∧
      (curBank s s.core).peekQ 5 = .ok i ∧
      locateLanes s (viewNow s) 0 0 false true (v + displacement 4 ((curBank s s.core).kxOf .a)) (lanesIdx i) = .ok f ∧
      MaySend s f) ∧
    (∃ s v w pops f, Ready (.aSto 0 2 1 0 0) .a 0 s ∧ (curBank s s.core).useA 1 = .ok v ∧
      (curBank s s.core).getASq 2 = .ok (w, pops) ∧ aperture (v + displacement 8 ((curBank s s.core).kxOf .a)) = .node ∧
      (∀ j ∈ (getCore s s.core).jobs, j.holdsSto
        (BitVec.ofNat 22 ((v + displacement 8 ((curBank s s.core).kxOf .a)).toNat / 2 ^ 40 % 2 ^ 22)) = false) ∧
      locateAll s (viewNow s) 0 0 8 false true false false [v + displacement 8 ((curBank s s.core).kxOf .a)] = .ok f ∧ MaySend s f) ∧
    (∃ s v w pops, Ready (.aSto 0 2 1 0 0) .a 0 s ∧ (curBank s s.core).useA 1 = .ok v ∧
      (curBank s s.core).getASq 2 = .ok (w, pops) ∧ aperture (v + displacement 8 ((curBank s s.core).kxOf .a)) ≠ .node) :=
  ⟨⟨at1 (own + 0x7FE00) id, _, _, _, ready_of rfl, rfl, rfl, rfl⟩,
   ⟨at1 own fun b => b.setQueue 4 [vec 5], _, _, _, ready_of rfl, rfl, rfl, rfl, maySend_of rfl⟩,
   ⟨at1 own fun b => b.setQueue 5 [vec 1], _, _, _, _, ready_of rfl, rfl, rfl, rfl, rfl⟩,
   ⟨at1 own fun b => (b.setQueue 4 [vec 5]).setQueue 5 [vec 1], _, _, _, _, ready_of rfl, rfl, rfl, rfl, rfl, maySend_of rfl⟩,
   ⟨at1 afar id, _, _, _, _, ready_of rfl, rfl, rfl, rfl, fun _ h => (List.not_mem_nil h).elim, rfl, .inr (by decide)⟩,
   ⟨at1 own id, _, _, _, ready_of rfl, rfl, rfl, by decide⟩⟩

/-- A lane in a position region and one outside, a base on node 1, and PRIV windows with room for all and for one sector. -/
theorem witness_wideAddresses :
    (∃ s x, inPosition s (viewNow s) x = true) ∧ (∃ s x, isRemote s x = true) ∧ (∃ s x, isRemote s x = false) ∧
    (∃ s x, aperture x = .priv ∧ inPosition s (viewNow s) x = false ∧ windowRoom x = 512) ∧
    ∃ s x f, aperture x = .priv ∧ inPosition s (viewNow s) x = false ∧ windowRoom x = 32 ∧
      locateAll s (viewNow s) 0 0 32 true false false false
        (tab (fun i => x + BitVec.ofNat 64 (32 * i)) 0 ((windowRoom x + 31) / 32)) = .ok f :=
  ⟨⟨positions, 0, rfl⟩, ⟨run, afar, rfl⟩, ⟨run, own, rfl⟩, ⟨windowEnd 0, 0x80000000FFFFFE00, rfl, rfl, rfl⟩,
   ⟨windowEnd 0, 0x80000000FFFFFFE0, _, rfl, rfl, rfl, rfl⟩⟩

theorem witness_blocksFencesPointers :
    (∃ s v b1, Ready (.aLdvc 0 32 1 3 0) .a 0 s ∧ (curBank s s.core).useA 1 = .ok v ∧
      (v + displacement 32 ((curBank s s.core).kxOf .a)).toNat % 32 = 0 ∧
      takeDest (curBank s s.core) true (loadDest 32 s.seq) = .ok b1) ∧
    (∃ s v b1, Ready (.aLdvc 0 32 1 3 0) .a 0 s ∧ (curBank s s.core).useA 1 = .ok v ∧
      (v + displacement 32 ((curBank s s.core).kxOf .a)).toNat % 32 ≠ 0 ∧
      takeDest (curBank s s.core) true (loadDest 32 s.seq) = .ok b1) ∧
    Ready (.aSfence 0 0 0xFFFF) .a 0 run ∧ Ready (.aSfence 0 0 0) .a 0 run ∧
    (∃ s x b1, Ready (.aAspc 0 4 1) .a 0 s ∧ (curBank s s.core).useA 1 = .ok x ∧
      (curBank s s.core).putA 4 (aspcValue s.core x) = .ok b1 ∧ aperture x = .spad ∧ x.toNat / 2 ^ 38 % 2 ^ 10 = 0) ∧
    (∃ c x, aperture x = .spad ∧ x.toNat / 2 ^ 38 % 2 ^ 10 ≠ c) ∧
    (∃ s x b1, Ready (.aAcvt 0 4 1 3) .a 0 s ∧ (curBank s s.core).useA 1 = .ok x ∧
      (curBank s s.core).putA 4 (acvtValue s (viewNow s) x 3) = .ok b1 ∧ b1.ra 4 = 0x8200000000000040) :=
  ⟨⟨at1 own id, _, _, ready_of rfl, rfl, rfl, rfl⟩, ⟨at1 (own + 1) id, _, _, ready_of rfl, rfl, by decide, rfl⟩,
   ready_of rfl, ready_of rfl, ⟨at1 own id, _, _, ready_of rfl, rfl, rfl, rfl, rfl⟩, ⟨1, own, rfl, by decide⟩,
   ⟨at1 (own + 0x40) id, _, _, ready_of rfl, rfl, rfl, rfl⟩⟩

/-- Atomics at the end of the scratchpad, ACAS with its pair, on CHIP addresses with and without an unassigned bit, and a 64-bit one on
32-bit elements. -/
theorem witness_atomicsIssue :
    (∃ r ∈ atomicRows, ∃ s a v z b1 f l, Ready (r.1 0 7 1 2 1) .a 0 s ∧ (curBank s s.core).useA 1 = .ok a ∧
      (curBank s s.core).useA 2 = .ok v ∧ (if r.2 = 0x61 then (curBank s s.core).useA 3 else .ok 0) = .ok z ∧
      (a + (atomicKx 8 ((curBank s s.core).kxOf .a)).1).toNat / 2 ^ 56 ≠ 0x83 ∧
      atomicFits s (viewNow s) (a + (atomicKx 8 ((curBank s s.core).kxOf .a)).1) 8 = true ∧
      liftX (a + (atomicKx 8 ((curBank s s.core).kxOf .a)).1) 0 0
        (resolve s (viewNow s) (a + (atomicKx 8 ((curBank s s.core).kxOf .a)).1) 0 8 true true false) = .ok f ∧
      takeDest (curBank s s.core) false (loadDest 7 s.seq) = .ok b1 ∧
      locateAll s (viewNow s) 0 0 8 true true false false [a + (atomicKx 8 ((curBank s s.core).kxOf .a)).1] = .ok l ∧ MaySend s l) ∧
    (∃ r ∈ atomicRows, r.2 = 0x61 ∧ ∃ s z, Ready (r.1 0 7 1 2 0) .a 0 s ∧
      (if r.2 = 0x61 then (curBank s s.core).useA 3 else .ok 0) = .ok z ∧ z = 9) ∧
    (∀ x ∈ [(0x8300000000000000 : Word), 0x8301000000000000], ∃ r ∈ atomicRows, ∃ s a v z, Ready (r.1 0 7 1 2 0) .a 0 s ∧
      (curBank s s.core).useA 1 = .ok a ∧ a = x ∧
      (curBank s s.core).useA 2 = .ok v ∧ (if r.2 = 0x61 then (curBank s s.core).useA 3 else .ok 0) = .ok z ∧
      (a + (atomicKx 4 ((curBank s s.core).kxOf .a)).1).toNat / 2 ^ 56 = 0x83) ∧
    ∃ r ∈ atomicRows, ∃ s a v z f, Ready (r.1 0 7 1 2 1) .a 0 s ∧ (curBank s s.core).useA 1 = .ok a ∧
      (curBank s s.core).useA 2 = .ok v ∧ (if r.2 = 0x61 then (curBank s s.core).useA 3 else .ok 0) = .ok z ∧
      (a + (atomicKx 8 ((curBank s s.core).kxOf .a)).1).toNat / 2 ^ 56 ≠ 0x83 ∧
      liftX (a + (atomicKx 8 ((curBank s s.core).kxOf .a)).1) 0 0
        (resolve s (viewNow s) (a + (atomicKx 8 ((curBank s s.core).kxOf .a)).1) 0 8 true true false) = .ok f ∧
      atomicFits s (viewNow s) (a + (atomicKx 8 ((curBank s s.core).kxOf .a)).1) 8 = false :=
  ⟨⟨_, .head _, at1 (own + 0x7FFF8) id, _, _, _, _, _, _, ready_of rfl, rfl, rfl, rfl, by decide, rfl, rfl, rfl, rfl,
     maySend_of rfl⟩,
   ⟨(.aAcas, 0x61), by simp [atomicRows], rfl, at1 own fun b => b.wa 3 9, _, ready_of rfl, rfl, rfl⟩,
   fun x h => by
     simp only [List.mem_cons, List.not_mem_nil, or_false] at h
     rcases h with rfl | rfl
     · exact ⟨_, .head _, at1 0x8300000000000000 id, _, _, _, ready_of rfl, rfl, rfl, rfl, rfl, by decide⟩
     · exact ⟨_, .head _, at1 0x8301000000000000 id, _, _, _, ready_of rfl, rfl, rfl, rfl, rfl, by decide⟩,
   ⟨_, .head _, positions, _, _, _, _, ready_of rfl, rfl, rfl, rfl, by decide, rfl, rfl⟩⟩

theorem witness_atomicValues : (∃ w : Nat, w = 32 ∨ w = 64) ∧ (0x80000000 : BitVec 32).toInt < (1 : BitVec 32).toInt :=
  ⟨⟨32, .inl rfl⟩, by decide⟩

/-! ### Accesses in flight, and addresses -/

/-- An access of the word that A has passed last. -/
def acc (id : Nat) (op : AccessOp) (places : List Place) (todo : List Nat) (dest : Dest) : Access :=
  ⟨id, ⟨-4, -1, 1, 0⟩, op, 0, 0, places, [], todo, [], [], own.setWidth 4096, dest, 0, [], [], [], []⟩

/-- Bank 0 of core 0 with the accesses `l` in flight, and `f` made of it. -/
def flight (l : List Access) (f : Bank → Bank) : State := on .a fun b => f { b with inflight := l }

theorem mayGo_of {s : State} {k : Nat} {x : Access} (h1 : (getBank s 0 false).inflight[k]? = some x)
    (h2 : (decide ((getBank s 0 false).inflight.map fun y => y.id).Nodup && (getBank s 0 false).mayPerform k x &&
      !remapHolds s x.id x.places && x.places.all (fun p => !accBusy s p) && x.unsent.isEmpty && x.late.isEmpty) = true) : MayGo s 0 0 k x := by
  simp only [Bool.and_eq_true, Bool.not_eq_true', decide_eq_true_eq, List.all_eq_true, List.isEmpty_iff] at h2
  obtain ⟨⟨⟨⟨⟨h3, h4⟩, h5⟩, h6⟩, h7⟩, h8⟩ := h2
  exact ⟨by decide, h1, h3, h4, h5, h6, h7, by simp [h8]⟩

/-- Loads of one byte and of eight, into a register; whole and partial stores, an STO, and lanes 0 and 1 of a SCAT on one location. -/
theorem witness_loadsStoresPerform :
    (∀ n ∈ [8, 64], ∃ s x p sg d, MayGo s 0 0 0 x ∧ x.op = .load sg ∧ x.places = [p] ∧ (∀ l o, p.tgt ≠ .node l o) ∧
      x.todo = [0] ∧ x.got = [] ∧ x.dest = .areg d ∧ d ≠ 0 ∧ p.bits = n ∧ Canonical s ∧ swf (getBank s 0 false).a 0 (0 : Word) = true) ∧
    (∀ op ∈ [AccessOp.store, .sto, .scatter], ∃ s x, MayGo s 0 0 0 x ∧ Memory.wf s.mem = true ∧ x.op = op ∧ 0 ∈ x.todo ∧
      x.places[0]? = some ⟨.mem 64 4, 32, 28⟩ ∧ laneBeaten x 0 = false) ∧
    ∃ s x, MayGo s 0 0 0 x ∧ Memory.wf s.mem = true ∧ x.op = .scatter ∧ 0 ∈ x.todo ∧
      x.places[0]? = some ⟨.mem 64 0, 32, 32⟩ ∧ laneBeaten x 0 = true :=
  ⟨by
    intro n h
    simp only [List.mem_cons, List.not_mem_nil, or_false] at h
    rcases h with rfl | rfl
    · exact ⟨flight [acc 1 (.load true) [⟨.mem 64 0, 8, 8⟩] [0] (.areg 7)] id, _, _, _, _, mayGo_of rfl (by decide), rfl, rfl,
        nofun, rfl, rfl, rfl, by decide, rfl, ⟨rfl, rfl, rfl, rfl⟩, rfl⟩
    · exact ⟨flight [acc 1 (.load true) [⟨.mem 64 0, 64, 64⟩] [0] (.areg 7)] id, _, _, _, _, mayGo_of rfl (by decide), rfl, rfl,
        nofun, rfl, rfl, rfl, by decide, rfl, ⟨rfl, rfl, rfl, rfl⟩, rfl⟩, by
    intro op h
    simp only [List.mem_cons, List.not_mem_nil, or_false] at h
    rcases h with rfl | rfl | rfl
    · exact ⟨flight [acc 1 .store [⟨.mem 64 4, 32, 28⟩] [0] .none] id, _, mayGo_of rfl (by decide), rfl, rfl, .head _, rfl, by decide⟩
    · exact ⟨flight [acc 1 .sto [⟨.mem 64 4, 32, 28⟩] [0] .none] id, _, mayGo_of rfl (by decide), rfl, rfl, .head _, rfl, by decide⟩
    · exact ⟨flight [acc 1 .scatter [⟨.mem 64 4, 32, 28⟩, ⟨.mem 64 4, 32, 28⟩] [0, 1] .none] id, _, mayGo_of rfl (by decide), rfl,
        rfl, .head _, rfl, by decide⟩,
   ⟨flight [acc 1 .scatter [⟨.mem 64 0, 32, 32⟩, ⟨.mem 64 0, 32, 32⟩] [0] .none] id, _, mayGo_of rfl (by decide), rfl, rfl, .head _,
     rfl, by decide⟩⟩

/-- Core 0's scratchpad holds a compressed block whose only nonzero word is word 0. -/
def block (s : State) : State := { s with mem := [(2 ^ 40, 1), (2 ^ 40 + 16, 1), (2 ^ 40 + 17, 2), (2 ^ 40 + 32, 0xAB)] }

/-- A compressed load in flight that fills DQ0. -/
def expanding : Access := acc 1 (.expand 3) [⟨.mem 0 0, 0, 0⟩] [0] (.queue 0 1)

/-- What `expanding` makes of the block at its address. -/
def expanded (s : State) : Act Nat :=
  expandBlock ((expanding.data).setWidth 64) 0 3 fun i =>
    readSector s (viewOf s 0 false) 1 ((expanding.data).setWidth 64 + BitVec.ofNat 64 (32 * i)) 0

/-- Core 0 waits for flag 5 to reach 9 while its FLAGSET of 9 is in flight. -/
theorem witness_accessesPerform :
    (∃ s x p op w v z, MayGo s 0 0 0 x ∧ x.op = .atomic op w v z ∧ x.places = [p] ∧ (∀ l o, p.tgt ≠ .node l o) ∧ x.todo = [0]) ∧
    (∃ s n, MayGo s 0 0 0 expanding ∧ expanding.remote = false ∧ Canonical s ∧
      swf (getBank s 0 false).issue.queues 0 ([] : List QEntry) = true ∧ expanded s = .ok n ∧ n = 0xAB) ∧
    (∃ s code a p u i, MayGo s 0 0 0 expanding ∧ expanding.remote = false ∧ Canonical s ∧
      swf (getBank s 0 false).issue.queues 0 ([] : List QEntry) = true ∧ expanded s = .error (.fault code a p u i) ∧
      (getBank s 0 false).lastIssued expanding = true) ∧
    (∃ s x, MayGo s 0 0 0 x ∧ Canonical s ∧ swf (getCluster s 0).flags 0 Flag.zero = true ∧ x.op = .release true 5 9 0 ∧
      x.todo = [] ∧ (getBank s 0 false).wait = .flag 5 9 false) ∧
    (∃ s x, MayGo s 0 0 0 x ∧ x.op = .fence 1 ∧ x.todo = []) ∧
    (∃ (s : State) (x y : Access), (getBank s 0 false).inflight[1]? = some x ∧ (getBank s 0 false).inflight[0]? = some y ∧
      holdsBack y x = true) ∧
    (∃ x y : Access, x.op = .load true ∧ y.op = .store) ∧ (∃ x y : Access, x.op = .store ∧ y.op = .fence 1) ∧
    ∃ x y : Access, x.op = .fence 1 ∧ y.op = .store :=
  let ld := acc 1 (.load true) [⟨.mem 64 0, 8, 8⟩] [0] (.areg 7)
  let st := acc 2 .store [⟨.mem 64 0, 8, 8⟩] [0] .none
  let fe := acc 3 (.fence 1) [] [] .none
  ⟨⟨flight [acc 1 (.atomic 0x58 false 1 0) [⟨.mem 64 0, 32, 32⟩] [0] (.areg 7)] id, _, _, _, _, _, _, mayGo_of rfl (by decide), rfl,
     rfl, nofun, rfl⟩,
   ⟨block (flight [expanding] fun b => b.setQueue 0 [⟨true, 0, false, 1⟩]), _, mayGo_of rfl (by decide), rfl,
     ⟨rfl, rfl, rfl, rfl⟩, rfl, rfl, rfl⟩,
   ⟨flight [expanding] fun b => b.setQueue 0 [⟨true, 0, false, 1⟩], _, _, _, _, _, mayGo_of rfl (by decide), rfl,
     ⟨rfl, rfl, rfl, rfl⟩, rfl, rfl, by decide⟩,
   ⟨flight [acc 1 (.release true 5 9 0) [] [] .none] fun b => { b with wait := .flag 5 9 false }, _, mayGo_of rfl (by decide),
     ⟨rfl, rfl, rfl, rfl⟩, rfl, rfl, rfl, rfl⟩,
   ⟨flight [fe] id, _, mayGo_of rfl (by decide), rfl, rfl⟩, ⟨flight [st, ld] id, ld, st, rfl, rfl, by decide⟩,
   ⟨ld, st, rfl, rfl⟩, ⟨st, fe, rfl, rfl⟩, ⟨fe, st, rfl, rfl⟩⟩

/-- SPAD addresses past the scratchpad, of core 1, of a bank that the context does not hold and of one that it holds; PRIV at its
size, one below it across its end, and where the page tables stop; the byte and the position leaf, planes 0 and 1, an access across
POSCOUNT, one past it, and permissions. -/
theorem witness_addressResolution :
    (∃ x, aperture x = .malformed) ∧ (∃ x, aperture x = .clus ∧ x.toNat % alignOf 8 ≠ 0) ∧
    (∃ x : Word, aperture x = .spad ∧ x.toNat % alignOf 8 = 0 ∧ x.toNat % 2 ^ 19 + 8 = 0x80000) ∧
    (∃ x : Word, aperture x = .spad ∧ x.toNat % alignOf 32 = 0 ∧ 0x80000 < x.toNat % 2 ^ 19 + 64) ∧
    (∃ s x, aperture x = .spad ∧ x.toNat % 8 = 0 ∧ x.toNat / 2 ^ 38 % 2 ^ 10 ≠ (viewNow s).core) ∧
    (∃ s x, aperture x = .spad ∧ x.toNat / 2 ^ 38 % 2 ^ 10 = (viewNow s).core ∧
      spadBanks (x.toNat % 2 ^ 19) 8 (fun b => bit (spadMask s (viewNow s).core (viewNow s).bank) b) = false) ∧
    (∃ s x, aperture x = .spad ∧ x.toNat / 2 ^ 38 % 2 ^ 10 = (viewNow s).core ∧
      spadBanks (x.toNat % 2 ^ 19) 8 (fun b => bit (spadMask s (viewNow s).core (viewNow s).bank) b) = true) ∧
    (∃ s x, aperture x = .priv ∧ (viewNow s).privSize.toNat = x.toNat % 2 ^ 32) ∧
    (∃ s x e, aperture x = .priv ∧ x.toNat % 2 ^ 32 < (viewNow s).privSize.toNat ∧
      translate s (viewNow s) (((viewNow s).privBase.toNat + x.toNat % 2 ^ 32) % 2 ^ 48) 0 8 true false false = .error e) ∧
    (∃ s x f, aperture x = .priv ∧ x.toNat % 2 ^ 32 < (viewNow s).privSize.toNat ∧
      translate s (viewNow s) (((viewNow s).privBase.toNat + x.toNat % 2 ^ 32) % 2 ^ 48) 0 32 true false false = .ok f ∧
      (viewNow s).privSize.toNat < x.toNat % 2 ^ 32 + f.past) ∧
    (∃ s x f, aperture x = .priv ∧ x.toNat % 2 ^ 32 < (viewNow s).privSize.toNat ∧
      translate s (viewNow s) (((viewNow s).privBase.toNat + x.toNat % 2 ^ 32) % 2 ^ 48) 0 32 true false false = .ok f ∧
      x.toNat % 2 ^ 32 + f.past = (viewNow s).privSize.toNat) ∧ ∃ x, aperture x = .global :=
  ⟨⟨0x8400000000000000, rfl⟩, ⟨0x8200000000000001, rfl, by decide⟩, ⟨0x810000000007FFF8, rfl, rfl, rfl⟩,
   ⟨0x810000000007FFE0, rfl, rfl, by decide⟩, ⟨run, 0x8100004000000000, rfl, rfl, by decide⟩,
   ⟨modCore run 0 fun k => { k with spmask := 0 }, own, rfl, rfl, rfl⟩, ⟨run, own, rfl, rfl, rfl⟩,
   ⟨windowOf 0xD000 16 0, 0x8000000000000010, rfl, rfl⟩, ⟨windowOf 0xD000 16 0, 0x8000000000000000, _, rfl, by decide, rfl⟩,
   ⟨windowOf 0xE000 16 0, 0x8000000000000000, _, rfl, by decide, rfl, by decide⟩,
   ⟨windowEnd 0, 0x80000000FFFFFFE0, _, rfl, by decide, rfl, rfl⟩, ⟨0, rfl⟩⟩

/-- `positions` with plane 0 of the view code `c` and leaf `leaf`. -/
def regions (leaf c : Nat) : State :=
  modCore positions 0 fun k => { k with tlb := [⟨0, 0, 0, 1, BitVec.ofNat 64 leaf,
    BitVec.ofNat 512 (100 + 2 ^ 48 + 2 ^ 56 + (4 + 64 * c) * 2 ^ 128)⟩] }

theorem witness_leaves :
    (∃ s va level leaf psd wk, walk s (viewNow s) va = .ok ⟨level, leaf, psd, wk⟩ ∧ leaf / 4 % 2 = 0 ∧ va % alignOf 32 = 0 ∧
      permitted (viewNow s) leaf none true false = .ok () ∧
      backed s (leaf / 2 ^ 12 % 2 ^ 28 * 4096 + (va - va / 2 ^ leafShift level * 2 ^ leafShift level)) = true ∧
      backed s (leaf / 2 ^ 12 % 2 ^ 28 * 4096 + (va - va / 2 ^ leafShift level * 2 ^ leafShift level) + 32 - 1) = true) ∧
    (∃ s va level leaf psd wk, walk s (viewNow s) va = .ok ⟨level, leaf, psd, wk⟩ ∧ leaf / 4 % 2 = 0 ∧ va % alignOf 32 ≠ 0) ∧
    (∃ s va level leaf psd wk e, walk s (viewNow s) va = .ok ⟨level, leaf, psd, wk⟩ ∧ leaf / 4 % 2 = 0 ∧ va % alignOf 32 = 0 ∧
      permitted (viewNow s) leaf none false true = .error e) ∧
    (∃ s va level leaf psd wk, walk s (viewNow s) va = .ok ⟨level, leaf, psd, wk⟩ ∧ leaf / 4 % 2 = 0 ∧ va % alignOf 32 = 0 ∧
      permitted (viewNow s) leaf none true false = .ok () ∧
      backed s (leaf / 2 ^ 12 % 2 ^ 28 * 4096 + (va - va / 2 ^ leafShift level * 2 ^ leafShift level)) = false) ∧
    (∃ s va level leaf psd wk, walk s (viewNow s) va = .ok ⟨level, leaf, psd, wk⟩ ∧ leaf / 4 % 2 = 1 ∧ psdPlanes psd ≤ 1) ∧
    (∃ s va level leaf psd wk, walk s (viewNow s) va = .ok ⟨level, leaf, psd, wk⟩ ∧ leaf / 4 % 2 = 1 ∧ 0 < psdPlanes psd ∧
      8 * 2 < planeWidth (psdAttr psd 0)) ∧
    (∃ s va level leaf psd wk fr, walk s (viewNow s) va = .ok ⟨level, leaf, psd, wk⟩ ∧ leaf / 4 % 2 = 1 ∧ 0 < psdPlanes psd ∧
      planeWidth (psdAttr psd 0) ≤ 8 * 32 ∧
      (4096 * (leaf / 2 ^ 12 % 2 ^ 36) + (va - va / 2 ^ leafShift level * 2 ^ leafShift level)) % 8 = 0 ∧
      4096 * (leaf / 2 ^ 12 % 2 ^ 36) + (va - va / 2 ^ leafShift level * 2 ^ leafShift level) < psdPosCount psd ∧
      psdPosCount psd < 4096 * (leaf / 2 ^ 12 % 2 ^ 36) + (va - va / 2 ^ leafShift level * 2 ^ leafShift level) + 8 ∧
      permitted (viewNow s) leaf (some 3) true true = .ok () ∧
      frameOf s (viewNow s) (leaf / 2 ^ 48 % 2 ^ 16) psd 0 32 0 = .ok fr) ∧
    (∃ s va level leaf psd wk, walk s (viewNow s) va = .ok ⟨level, leaf, psd, wk⟩ ∧ leaf / 4 % 2 = 1 ∧
      psdPosCount psd ≤ 4096 * (leaf / 2 ^ 12 % 2 ^ 36) + (va - va / 2 ^ leafShift level * 2 ^ leafShift level)) ∧
    (∃ s va level leaf psd wk e, walk s (viewNow s) va = .ok ⟨level, leaf, psd, wk⟩ ∧ leaf / 4 % 2 = 1 ∧
      permitted (viewNow s) leaf (some (psdAttr psd 0 / 64 % 4)) true false = .error e) ∧
    (∃ leaf : Nat, leaf.testBit 4 = false ∧ leaf.testBit 3 = false) ∧ (∃ leaf : Nat, leaf.testBit 4 = true ∧ leaf.testBit 3 = true) :=
  ⟨⟨windowEnd 0, 0xE000, _, _, _, _, rfl, rfl, rfl, rfl, by decide, by decide⟩, ⟨windowEnd 0, 0xE008, _, _, _, _, rfl, rfl, by decide⟩,
   ⟨regions 0x2000000003 0, 0, _, _, _, _, _, rfl, rfl, rfl, rfl⟩, ⟨regions 0xFFFF00001B 0, 0, _, _, _, _, rfl, rfl, rfl, rfl, by decide⟩,
   ⟨positions, 0, _, _, _, _, rfl, rfl, by decide⟩, ⟨positions, 0, _, _, _, _, rfl, rfl, by decide, by decide⟩,
   ⟨positions, 96, _, _, _, _, _, rfl, rfl, by decide, by decide, rfl, by decide, by decide, rfl, rfl⟩,
   ⟨positions, 100, _, _, _, _, rfl, rfl, by decide⟩, ⟨regions 0x1F 0, 0, _, _, _, _, _, rfl, rfl, rfl⟩,
   ⟨0, by decide, by decide⟩, ⟨0x18, by decide, by decide⟩⟩

/-- An entry of level 2 at the start of the far tier: none, a pointer with a reserved bit set, a leaf and a pointer. -/
def tableWord (v : Byte) : State := { run with mem := if v = 0 then [] else [(2 ^ 37, v)] }

theorem witness_walks :
    (∃ s e, readStruct s (2 ^ 37 + 8 * (0 / 2 ^ leafShift 2 % 512)) 8 2 = .ok e ∧ e.testBit 0 = false) ∧
    (∃ s e, readStruct s (2 ^ 37 + 8 * (0 / 2 ^ leafShift 2 % 512)) 8 2 = .ok e ∧ e.testBit 0 = true ∧ entryBad 2 e = true) ∧
    (∃ s e, readStruct s (2 ^ 37 + 8 * (0 / 2 ^ leafShift 2 % 512)) 8 2 = .ok e ∧ e.testBit 0 = true ∧ entryBad 2 e = false ∧
      e.testBit 1 = true) ∧
    ∃ s e, readStruct s (2 ^ 37 + 8 * (0 / 2 ^ leafShift 2 % 512)) 8 2 = .ok e ∧ e.testBit 0 = true ∧ entryBad 2 e = false ∧
      e.testBit 1 = false :=
  ⟨⟨tableWord 0, 0, rfl, by decide⟩, ⟨tableWord 5, 5, rfl, by decide, rfl⟩, ⟨tableWord 3, 3, rfl, by decide, rfl, by decide⟩,
   ⟨tableWord 1, 1, rfl, by decide, rfl, by decide⟩⟩

/-! ### Synchronisation and system words -/

/-- Cell 0 of cluster 0 holds `v` of tenant `t`; a context of tenant 2 runs on core 1. -/
def cell (t : Tenant) (v : BitVec 32) : State :=
  setFlag (modBank run 1 false fun b => { b with st := .running, tenant := 2 }) 0 0 ⟨v, t, true⟩

/-- Core 0 runs a context of launch 5, and core `c` one of the same launch with `n` events. -/
def peers (c n : Nat) (f : Bank → Bank) : State :=
  modBank (on .a fun b => f { b with launch := some 5 }) c false fun b =>
    { b with st := .running, launch := some 5, evq := List.replicate n 1 }

theorem witness_flagAndEventWords :
    (∃ s, Ready (.aFlagset 0 0 5) .a 0 s ∧ flagDenied s 0 = false ∧ (flagCell s 0 0).valid = true) ∧
    (∃ s, Ready (.aFlagset 0 0 5) .a 0 s ∧ flagDenied s 0 = true) ∧
    (∃ s, Ready (.aFlagadd 0 63 0xFFF) .a 0 s ∧ flagDenied s 63 = false) ∧
    (∃ s, Ready (.aFlagwait 0 0 5) .a 0 s ∧ (∀ g w m, (curBank s s.core).wait ≠ .flag g w m) ∧ flagDenied s 0 = false ∧
      (flagCell s 0 0).valid = true ∧ (flagCell s 0 0).tag = (curBank s s.core).tenant ∧
      (flagKx 5 ((curBank s s.core).kxOf .a)).1 = (flagCell s 0 0).val ∧ swf s.clusters 0 Cluster.zero = true ∧
      swf (getCluster s 0).flags 0 Flag.zero = true) ∧
    (∃ s, Ready (.aFlagwait 0 0 5) .a 0 s ∧ (∀ g w m, (curBank s s.core).wait ≠ .flag g w m) ∧ flagDenied s 0 = false ∧
      (flagCell s 0 0).tag = (curBank s s.core).tenant ∧ (flagCell s 0 0).val < (flagKx 5 ((curBank s s.core).kxOf .a)).1 ∧
      swf s.clusters 0 Cluster.zero = true ∧ swf (getCluster s 0).flags 0 Flag.zero = true) ∧
    (∃ s, Ready (.aFlagwait 0 0 0) .a 0 s ∧ (∀ g w m, (curBank s s.core).wait ≠ .flag g w m) ∧ flagDenied s 0 = true) ∧
    (∀ m ∈ [true, false], ∃ s, Ready (.aFlagwait 0 0 5) .a 0 s ∧ (curBank s s.core).wait = .flag 0 5 m) ∧
    (∃ s x v, Ready (.aQpush 0 1 2) .a 0 s ∧ (curBank s s.core).useA 1 = .ok x ∧ (curBank s s.core).useA 2 = .ok v ∧ x.toNat = 64) ∧
    (∃ s x v, Ready (.aQpush 0 1 2) .a 0 s ∧ (curBank s s.core).useA 1 = .ok x ∧ (curBank s s.core).useA 2 = .ok v ∧
      x.toNat = 63 ∧ v.toNat / 2 ^ 56 = 0x7F) ∧
    (∃ s x v, Ready (.aQpush 0 1 2) .a 0 s ∧ (curBank s s.core).useA 1 = .ok x ∧ (curBank s s.core).useA 2 = .ok v ∧
      x.toNat = 63 ∧ v.toNat / 2 ^ 56 = 0x80 ∧ (curBank s s.core).inflight = [] ∧ (curBank s s.core).launch = some 5 ∧
      (getBank s 63 false).launch = some 5 ∧ (getBank s 63 false).st ≠ .empty ∧ (getBank s 63 false).evq.length = 63) ∧
    (∃ s x v, Ready (.aQpush 0 1 2) .a 0 s ∧ (curBank s s.core).useA 1 = .ok x ∧ (curBank s s.core).useA 2 = .ok v ∧
      x.toNat = 62 ∧ v.toNat / 2 ^ 56 = 0xFF ∧ (curBank s s.core).inflight = [] ∧ (curBank s s.core).launch = some 5 ∧
      (getBank s 62 false).st = .empty) ∧
    ∃ s x v, Ready (.aQpush 0 1 2) .a 0 s ∧ (curBank s s.core).useA 1 = .ok x ∧ (curBank s s.core).useA 2 = .ok v ∧
      x.toNat = 0 ∧ v.toNat / 2 ^ 56 = 0x80 ∧ (curBank s s.core).inflight = [] ∧ (curBank s s.core).launch = none :=
  ⟨⟨cell 0 5, ready_of rfl, rfl, rfl⟩, ⟨cell 2 5, ready_of rfl, rfl⟩, ⟨cell 2 5, ready_of rfl, rfl⟩,
   ⟨cell 0 5, ready_of rfl, nofun, rfl, rfl, rfl, rfl, rfl, rfl⟩, ⟨cell 0 4, ready_of rfl, nofun, rfl, rfl, by decide, rfl, rfl⟩,
   ⟨cell 2 5, ready_of rfl, nofun, rfl⟩, fun m _ => ⟨on .a fun b => { b with wait := .flag 0 5 m }, ready_of rfl, rfl⟩,
   ⟨at1 64 id, _, _, ready_of rfl, rfl, rfl, rfl⟩, ⟨at1 63 fun b => b.wa 2 0x7F00000000000000, _, _, ready_of rfl, rfl, rfl, rfl, rfl⟩,
   ⟨peers 63 63 fun b => (b.wa 1 63).wa 2 0x8000000000000000, _, _, ready_of rfl, rfl, rfl, rfl, rfl, rfl, rfl, rfl, by decide, rfl⟩,
   ⟨peers 63 63 fun b => (b.wa 1 62).wa 2 0xFF00000000000000, _, _, ready_of rfl, rfl, rfl, rfl, rfl, rfl, rfl, rfl⟩,
   ⟨at1 0 fun b => b.wa 2 0x8000000000000000, _, _, ready_of rfl, rfl, rfl, rfl, rfl, rfl, rfl⟩⟩

/-- A job with nothing in it, of context 0. -/
def job (kind : JobKind) (card : BitVec 512) : Job :=
  ⟨3, kind, 7, card, 0, 0, viewOf run 0 false, .accepted, [], [], [], [], [], [], [], [], [], [], [], none, 0, none, false, false, [], [], []⟩

/-- `run` with the jobs `l` on core 0. -/
def jobs (l : List Job) (f : Bank → Bank) : State := modCore (on .a f) 0 fun k => { k with jobs := l }

/-- A DEAL launch (`mode` 0) or RANGE launch (`mode` 1) of `n` indexes with `next` the first left. -/
def launchOf (mode : BitVec 512) (next n : Nat) (lo hi : SMap Nat) : Launch :=
  ⟨mode <<< 416, bareKernel 0 16, [], 0, 0, 0, next, n, lo, hi, true, [0], [], 0, [], []⟩

/-- Core 0 runs a context of launch 5, which is `l`. -/
def launched (l : Launch) (f : Bank → Bank) : State := setLaunch (on .a fun b => f { b with launch := some 5 }) 5 (some l)

/-- The record of a job's fault on channel 6. -/
def recorded : FaultRec := ⟨0x12, 0, 0, 0, 0, 0, 0⟩

theorem witness_waitingWords :
    (∃ s, Ready (.aTrick 0 0x1FFF) .a 0 s ∧ (∀ k, (curBank s s.core).wait ≠ .trick k) ∧ swf s.cores 0 Core.zero = true ∧
      trickClear (modCur (counted s) s.core fun b => { b with wait := .trick s.seq }) s.core s.seq 0x1FFF = true ∧
      (getCore s s.core).collErr = none) ∧
    (∃ s, Ready (.aTrick 0 0x80) .a 0 s ∧ (∀ k, (curBank s s.core).wait ≠ .trick k) ∧ swf s.cores 0 Core.zero = true ∧
      trickClear (modCur (counted s) s.core fun b => { b with wait := .trick s.seq }) s.core s.seq 0x80 = false) ∧
    (∃ s, Ready (.aTrick 0 0x7F) .a 0 s ∧ (curBank s s.core).wait = .trick 9 ∧ trickClear s s.core 9 0x7F = true ∧
      swf s.cores 0 Core.zero = true) ∧
    (∃ s j, trickClear s 0 9 0x7F = true ∧ j ∈ (getCore s 0).jobs ∧ j.id < 9 ∧ j.kind = .copy) ∧
    (∃ s, Ready (.aDrain 0 6) .a 0 s ∧ (∀ j ∈ (getCore s s.core).jobs, j.kind = .copy →
      j.ctx = (curBank s s.core).ctx → j.chan ≠ 6) ∧ (getCore s s.core).jobs ≠ [] ∧
      sget (getCore s s.core).errs 6 none = none) ∧
    (∃ s, Ready (.aDrain 0 6) .a 0 s ∧ (∀ j ∈ (getCore s s.core).jobs, j.kind = .copy →
      j.ctx = (curBank s s.core).ctx → j.chan ≠ 6) ∧ sget (getCore s s.core).errs 6 none = some recorded) ∧
    (∃ s j, Ready (.aDrain 0 7) .a 0 s ∧ j ∈ (getCore s s.core).jobs ∧ j.kind = .copy ∧ j.chan = 7 ∧
      j.ctx = (curBank s s.core).ctx) ∧
    (∃ s, Ready (.aRfence 0) .a 0 s ∧ (∀ j ∈ (getCore s s.core).jobs, j.kind ≠ .swap → j.nodes = []) ∧
      (getCore s s.core).jobs ≠ [] ∧ (getCore s s.core).bank0.sendsWrites = false ∧
      (getCore s s.core).bank1.sendsWrites = false ∧ (getCore s s.core).pathTotal = 0) ∧
    (∃ s, Ready (.aRfence 0) .a 0 s ∧ (getCore s s.core).pathTotal ≠ 0) ∧
    (∃ s l, Ready (.round 1) s.engine 0 s ∧ (curBank s s.core).joined = true ∧ (curBank s s.core).launch = some 5 ∧
      getLaunch s 5 = some l ∧ roundBad l 2 = false ∧ ownPartDone s s.core ((curBank s s.core).round.count.toNat + 1) = true) ∧
    (∃ s l, Ready (.round 0) s.engine 0 s ∧ (curBank s s.core).joined = true ∧ (curBank s s.core).launch = some 5 ∧
      getLaunch s 5 = some l ∧ roundBad l 1 = true) ∧
    (∃ s, Ready (.aWnext 0 4) .a 0 s ∧ ∀ x y, (curBank s s.core).wait ≠ .wnext x y) ∧
    (∃ s l p l2, (curBank s 0).wait = .wnext 4 0 ∧ canIssue (getCore s 0) (curBank s 0) .a = true ∧
      (curBank s 0).launch = some 5 ∧ getLaunch s 5 = some l ∧ l.nextIndex 0 = some (p, l2) ∧ wnextTurn s 5 0 l = true ∧
      l2.nextIndex 0 = none) ∧
    (∃ s l, (curBank s 0).wait = .wnext 4 0 ∧ canIssue (getCore s 0) (curBank s 0) .a = true ∧
      (curBank s 0).launch = some 5 ∧ getLaunch s 5 = some l ∧ l.nextIndex 0 = none ∧ wnextTurn s 5 0 l = true) ∧
    ∃ s l, (curBank s 1).wait = .wnext 4 0 ∧ (curBank s 1).launch = some 5 ∧ getLaunch s 5 = some l ∧
      recRange l.record = false ∧ (0 + 1024 - s.shoe.cptr.toNat) % 1024 < (1 + 1024 - s.shoe.cptr.toNat) % 1024 ∧
      asksDeal s 5 0 = true :=
  ⟨⟨run, ready_of rfl, nofun, rfl, rfl, rfl⟩, ⟨{ jobs [job .copy 0] id with seq := 9 }, ready_of rfl, nofun, rfl, rfl⟩,
   ⟨jobs [job .copy 0] fun b => { b with wait := .trick 9 }, ready_of rfl, rfl, rfl, rfl⟩,
   ⟨jobs [job .copy 0] id, _, rfl, .head _, by decide, rfl⟩, ⟨jobs [job .copy 0] id, ready_of rfl, by
      intro j h _ _
      rw [List.eq_of_mem_singleton h]
      decide, nofun, rfl⟩,
   ⟨modCore run 0 fun k => { k with errs := [(6, some recorded)] }, ready_of rfl, fun _ h => (List.not_mem_nil h).elim, rfl⟩,
   ⟨jobs [job .copy 0] id, _, ready_of rfl, .head _, rfl, rfl, rfl⟩,
   ⟨jobs [{ job .swap 0 with nodes := [1] }] id, ready_of rfl, by
      intro j h n
      rw [List.eq_of_mem_singleton h] at n
      exact absurd rfl n, nofun, rfl, rfl, rfl⟩,
   ⟨modCore run 0 fun k => { k with pathcnt := [(3, 1)] }, ready_of rfl, by decide⟩,
   ⟨launched (launchOf 1 0 1 [] []) id, _, ready_of rfl, rfl, rfl, rfl, rfl, rfl⟩,
   ⟨launched { launchOf 0 0 1 [] [] with kern := { bareKernel 0 16 with levels := [⟨.cores, 0, .fixed 1, 0, false, 0, 0, 1⟩] } } id,
     _, ready_of rfl, rfl, rfl, rfl, rfl⟩,
   ⟨run, ready_of rfl, nofun⟩,
   ⟨launched (launchOf 0 3 4 [] []) fun b => { b with wait := .wnext 4 0 }, _, _, _, rfl, rfl, rfl, rfl, rfl, rfl, rfl⟩,
   ⟨launched (launchOf 0 4 4 [] []) fun b => { b with wait := .wnext 4 0 }, _, rfl, rfl, rfl, rfl, rfl, rfl⟩,
   ⟨modBank (launched (launchOf 0 3 4 [] []) fun b => { b with wait := .wnext 4 0 }) 1 false fun b =>
      { b with st := .running, launch := some 5, wait := .wnext 4 0 }, _, rfl, rfl, rfl, rfl, by decide, rfl⟩⟩

/-- Core 62 has used up its range; core 61, the last around the ring, has one index left, then two. -/
theorem witness_nextIndex :
    (∃ l : Launch, recRange l.record = false ∧ l.next + 1 = l.total) ∧ (∃ l : Launch, recRange l.record = false ∧ l.total = l.next) ∧
    (∃ l : Launch, recRange l.record = true ∧ sget l.lo 63 0 + 1 = sget l.hi 63 0) ∧
    (∃ l : Launch, recRange l.record = true ∧ sget l.hi 62 0 = sget l.lo 62 0 ∧ sget l.hi 61 0 = sget l.lo 61 0 + 1 ∧
      ∀ i, i < 63 → sget l.hi ((62 + 1 + i) % 64) 0 < sget l.lo ((62 + 1 + i) % 64) 0 + 2) ∧
    ∃ l : Launch, recRange l.record = true ∧ sget l.hi 62 0 = sget l.lo 62 0 ∧ swf l.lo 0 0 = true ∧ swf l.hi 0 0 = true ∧
      (∀ i, i < 62 → sget l.hi ((62 + 1 + i) % 64) 0 < sget l.lo ((62 + 1 + i) % 64) 0 + 2) ∧
      sget l.lo 61 0 + 2 = sget l.hi 61 0 :=
  ⟨⟨launchOf 0 3 4 [] [], rfl, rfl⟩, ⟨launchOf 0 4 4 [] [], rfl, rfl⟩, ⟨launchOf 1 0 0 [] [(63, 1)], rfl, rfl⟩,
   ⟨launchOf 1 0 0 [] [(61, 1)], rfl, rfl, rfl, by decide⟩,
   ⟨launchOf 1 0 0 [(61, 1)] [(61, 3)], rfl, rfl, rfl, rfl, by decide, rfl⟩⟩

/-- A CSR that is privileged, one that is read only, one whose value is out of range, and one that takes its value. -/
theorem witness_csrWords :
    (∃ s, Ready (.aCsrr 0 4 0x080) .a 0 s ∧ csrPrivileged 0x080 = true ∧ (curBank s s.core).priv = true) ∧
    (∃ s, Ready (.aCsrr 0 4 0x080) .a 0 s ∧ (curBank s s.core).priv = false) ∧
    (∃ s v, Ready (.aCsrw 0 1 0x083) .a 0 s ∧ (curBank s s.core).useA 1 = .ok v ∧ csrPrivileged 0x083 = true ∧
      (curBank s s.core).priv = false) ∧
    (∃ s v, Ready (.aCsrw 0 1 0x000) .a 0 s ∧ (curBank s s.core).useA 1 = .ok v ∧ csrPrivileged 0 = false ∧
      csrWritable 0 = false) ∧
    (∃ s v, Ready (.aCsrw 0 1 0x010) .a 0 s ∧ (curBank s s.core).useA 1 = .ok v ∧ csrWritable 0x010 = true ∧
      csrAccepts (curBank s s.core) 0x010 v = false) ∧
    (∃ s v, Ready (.aCsrw 0 1 0x010) .a 0 s ∧ (curBank s s.core).useA 1 = .ok v ∧ csrPrivileged 0x010 = false ∧
      csrWritable 0x010 = true ∧ csrAccepts (curBank s s.core) 0x010 v = true ∧ v = 16) ∧
    (∃ s : State, swf s.cores 0 Core.zero = true ∧ (curBank s s.core).trapActive = true) ∧
    ∃ s : State, swf s.cores 0 Core.zero = true ∧ (curBank s s.core).trapActive = false :=
  ⟨⟨on .a fun b => { b with priv := true }, ready_of rfl, rfl, rfl⟩, ⟨run, ready_of rfl, rfl⟩,
   ⟨run, _, ready_of rfl, rfl, rfl, rfl⟩, ⟨run, _, ready_of rfl, rfl, rfl, rfl⟩, ⟨at1 15 id, _, ready_of rfl, rfl, rfl, rfl⟩,
   ⟨at1 16 id, _, ready_of rfl, rfl, rfl, rfl, rfl, rfl⟩, ⟨on .a fun b => { b with trapActive := true }, rfl, rfl⟩, ⟨run, rfl, rfl⟩⟩

/-- A cached leaf of 4 KiB at `v` for tenant 0, in a position region with PSDID 9. -/
def tlbEntry (v : Nat) : TlbEntry := ⟨0, 0, BitVec.ofNat 48 v, 1, 0x0009000000000004, 0⟩

/-- An access to 64 of suit 3 that was translated through page `v`. -/
def through (v : Nat) : Access :=
  { acc 7 .store [⟨.mem 64 0, 8, 8⟩] [0] .none with suit := 3, uses := [.leaf (BitVec.ofNat 48 v) 1 none none] }

theorem witness_systemWords :
    (∃ s x y, Ready (.aTlbi 0 0 1 2) .a 0 s ∧ (∀ d z m tn mk, (curBank s s.core).wait ≠ .tlbi d z m tn mk) ∧
      (curBank s s.core).useA 1 = .ok x ∧ (curBank s s.core).useA 2 = .ok y ∧ y.toNat / 2 ^ 49 = 1) ∧
    (∃ s x y, Ready (.aTlbi 0 0 1 2) .a 0 s ∧ (∀ d z m tn mk, (curBank s s.core).wait ≠ .tlbi d z m tn mk) ∧
      (curBank s s.core).useA 1 = .ok x ∧ (curBank s s.core).useA 2 = .ok y ∧ y.toNat / 2 ^ 49 = 0 ∧ x.toNat / 2 ^ 48 = 0 ∧
      x.toNat % 2 ^ 12 = 0 ∧ y.toNat % 2 ^ 32 = 0) ∧
    (∃ s x y, Ready (.aTlbi 0 0 1 2) .a 0 s ∧ (∀ d z m tn mk, (curBank s s.core).wait ≠ .tlbi d z m tn mk) ∧
      (curBank s s.core).useA 1 = .ok x ∧ (curBank s s.core).useA 2 = .ok y ∧ y.toNat / 2 ^ 49 = 0 ∧ x.toNat / 2 ^ 48 = 0 ∧
      x.toNat % 2 ^ 12 = 0 ∧ y.toNat % 2 ^ 32 ≠ 0 ∧
      shootDone (counted (invalidate s 0 x.toNat (y.toNat % 2 ^ 32) none)) ⟨0, x.toNat, y.toNat % 2 ^ 32, none, s.seq⟩ = true) ∧
    (∃ s x y, Ready (.aTlbi 0 2 1 2) .a 0 s ∧ (∀ d z m tn mk, (curBank s s.core).wait ≠ .tlbi d z m tn mk) ∧
      (curBank s s.core).useA 1 = .ok x ∧ (curBank s s.core).useA 2 = .ok y ∧ y.toNat / 2 ^ 49 = 0 ∧ x = 0 ∧
      y.toNat % 2 ^ 32 = 0 ∧ shootDone (counted (invalidate s 2 0 0 (some 0))) ⟨2, 0, 0, some 0, s.seq⟩ = false) ∧
    (∀ m ∈ [0, 9], ∃ s, Ready (.aTlbi 0 2 1 2) .a 0 s ∧ (curBank s s.core).wait = .tlbi 2 0 0 (some 0) m ∧
      shootDone s ⟨2, 0, 0, some 0, 9⟩ = false) ∧
    (∃ s d, shootDone s d = true ∧ (getBank s 0 false).inflight.length = 1) ∧
    (∃ s, swf s.cores 0 Core.zero = true ∧ swf s.tables 0 Table.zero = true ∧ (getCore s 0).tlb = [tlbEntry 0x1000, tlbEntry 0x3000] ∧
      coversLeaf 0 0x2000 1 none (tlbEntry 0x1000) = false ∧ coversLeaf 0 0x2000 2 none (tlbEntry 0x3000) = true) ∧
    (∃ s m, (curBank s 0).wait = .tlbi 2 0 0 none m ∧ shootDone s ⟨2, 0, 0, none, m⟩ = true) ∧
    (∃ s x, Ready (.aRemap 0 1) .a 0 s ∧ (∀ m n, (curBank s s.core).wait ≠ .remap m n) ∧ (curBank s s.core).useA 1 = .ok x ∧
      x.toNat = 1024) ∧
    (∃ s x, Ready (.aRemap 0 1) .a 0 s ∧ (∀ m n, (curBank s s.core).wait ≠ .remap m n) ∧ (curBank s s.core).useA 1 = .ok x ∧
      x.toNat = 1023 ∧ channelIdle (counted s) x.toNat s.seq = true) ∧
    (∃ s x, Ready (.aRemap 0 1) .a 0 s ∧ (∀ m n, (curBank s s.core).wait ≠ .remap m n) ∧ (curBank s s.core).useA 1 = .ok x ∧
      x.toNat = 0 ∧ channelIdle (counted s) x.toNat s.seq = false) ∧
    (∃ s, (curBank s 0).wait = .remap 1 9 ∧ channelIdle s 1 9 = true) ∧
    (∃ s : State, Memory.wf s.mem = true ∧ swf s.near 0 Near.zero = true ∧ rdByte s (2 ^ 27) = 1 ∧ rdByte s (2 ^ 27 - 1) = 2) ∧
    (∃ s x y, Ready (.aLqbind 0 21 1 2) .a 0 s ∧ (curBank s s.core).useA 1 = .ok x ∧ (curBank s s.core).useA 2 = .ok y ∧
      x.toNat < 2 ^ 8 ∧ y.toNat < 2 ^ 32 ∧ (x.getLsbD 6 = false → y.toNat % 2 ^ 16 ≠ 0) ∧ s.disc.ports.getLsbD 21 = true) ∧
    (∃ s x y, Ready (.aLqbind 0 21 1 2) .a 0 s ∧ (curBank s s.core).useA 1 = .ok x ∧ (curBank s s.core).useA 2 = .ok y ∧
      x.getLsbD 6 = false ∧ y.toNat % 2 ^ 16 = 0) ∧
    (∃ (p : Port) (x : Word), p.st = 2 ∧ x.getLsbD 6 = false) ∧ ∃ (p : Port) (x : Word), p.st ≠ 2 ∧ p.st ≠ 3 ∧ x.getLsbD 6 = true :=
  let priv : (Bank → Bank) → State := fun f => on .a fun b => { f b with priv := true }
  ⟨⟨priv fun b => b.wa 2 0x2000000000000, _, _, ready_of rfl, nofun, rfl, rfl, by decide⟩,
   ⟨priv fun b => b.wa 1 0x1000, _, _, ready_of rfl, nofun, rfl, rfl, by decide, by decide, by decide, by decide⟩,
   ⟨{ priv fun b => { b.wa 2 0x1000000000001 with inflight := [through 0x1000] } with seq := 9 }, _, _, ready_of rfl, nofun, rfl,
     rfl, by decide, by decide, by decide, by decide, by decide⟩,
   ⟨{ priv fun b => { b with inflight := [through 0x1000] } with seq := 9 }, _, _, ready_of rfl, nofun, rfl, rfl, by decide, rfl,
     by decide, rfl⟩, by
      intro m h
      simp only [List.mem_cons, List.not_mem_nil, or_false] at h
      rcases h with rfl | rfl
      · exact ⟨priv fun b => { b with wait := .tlbi 2 0 0 (some 0) 0, inflight := [through 0x1000] }, ready_of rfl, rfl, rfl⟩
      · exact ⟨priv fun b => { b with wait := .tlbi 2 0 0 (some 0) 9, inflight := [through 0x1000] }, ready_of rfl, rfl, rfl⟩,
   ⟨priv fun b => { b with inflight := [through 0x1000] }, ⟨0, 0x2000, 1, none, 9⟩, rfl, rfl⟩,
   ⟨modCore run 0 fun k => { k with tlb := [tlbEntry 0x1000, tlbEntry 0x3000] }, rfl, rfl, rfl, by decide, by decide⟩,
   ⟨priv fun b => { b with wait := .tlbi 2 0 0 none 9 }, _, rfl, rfl⟩,
   ⟨priv fun b => b.wa 1 1024, _, ready_of rfl, nofun, rfl, rfl⟩, ⟨priv fun b => b.wa 1 1023, _, ready_of rfl, nofun, rfl, rfl, rfl⟩,
   ⟨{ priv fun b => { b with inflight := [through 0x1000] } with seq := 9 }, _, ready_of rfl, nofun, rfl,
     rfl, rfl⟩,
   ⟨priv fun b => { b with wait := .remap 1 9, inflight := [through 0x1000] }, rfl, rfl⟩,
   ⟨{ run with mem := [(2 ^ 27 - 1, 2), (2 ^ 27, 1)] }, rfl, rfl, rfl, rfl⟩,
   ⟨{ priv fun b => (b.wa 1 0x3F).wa 2 0xFFFF0001 with disc := { State.reset.disc with ports := 0x200000 } }, _, _, ready_of rfl,
     rfl, rfl, by decide, by decide, by decide, by decide⟩,
   ⟨priv id, _, _, ready_of rfl, rfl, rfl, by decide, by decide⟩,
   ⟨{ Port.zero with st := 2 }, 0, rfl, by decide⟩, ⟨{ Port.zero with st := 0 }, 0x40, by decide, by decide, by decide⟩⟩

/-- A card (or record) with the listed values from the listed bits on. -/
def card (l : List (Nat × Nat)) : BitVec 512 := l.foldl (fun c p => c ||| BitVec.ofNat 512 (p.2 <<< p.1)) 0

/-- The card `c` at the start of core 0's scratchpad, whose address a1 holds. -/
def carded (c : BitVec 512) (s : State) : State := wrBytes s (2 ^ 40) (bytesOf c.toNat 64)

/-- A copy of one element of format 1 within the scratchpad; one with no rows. -/
def copyCard (rows : Nat) : BitVec 512 :=
  card [(0, own.toNat + 0x100), (64, own.toNat + 0x200), (192, rows), (208, 1), (224, 1), (240, 1), (256, 1), (260, 1), (504, 1)]

/-- A sum of one element across dimension 0. -/
def collCard : BitVec 512 :=
  card [(0, own.toNat + 0x100), (64, own.toNat + 0x200), (128, own.toNat + 0x300), (192, 1), (224, 1), (504, 1)]

/-- A swap of two frames of 512 bytes on the far tier, through the entries at its start. -/
def swapCard (ver : Nat) : BitVec 512 := card [(0, 2 ^ 37), (64, 2 ^ 37 + 8), (504, ver)]

/-- A node with a far tier, whose first two frame-table entries name the frames at 0x1000 and 0x2000 of it. -/
def frames (s : State) : State :=
  let s := { s with disc := { s.disc with far := 0x100000000, ports := 1 } }
  wrBytes (wrBytes s (2 ^ 37) (bytesOf (2 ^ 37 + 0x1003) 8)) (2 ^ 37 + 8) (bytesOf (2 ^ 37 + 0x2003) 8)

/-- Queue 15 of the shoe takes records from cores and holds `n` of one. -/
def shoeQueue (en : Bool) (n : BitVec 32) (s : State) : State :=
  setLq s 15 { LaunchQueue.zero with en := en, dev := true, log2 := 6, tail := n }

/-- A misaligned record; a queue that takes none from cores; a record to read, with room in the queue and with none; one read, for
a word that stalls and for a queue with room and with none; a word that holds its record, at both ends of the queue's room. -/
theorem witness_launchWord :
    (∃ s x, Ready (.aLaunch 0 1 15) .a 0 s ∧ (∀ p i w, (curBank s s.core).wait ≠ .launch p i w) ∧
      (curBank s s.core).useA 1 = .ok x ∧ x.toNat % 64 ≠ 0) ∧
    (∃ s x, Ready (.aLaunch 0 1 15) .a 0 s ∧ (∀ p i w, (curBank s s.core).wait ≠ .launch p i w) ∧
      (curBank s s.core).useA 1 = .ok x ∧ x.toNat % 64 = 0 ∧ (getLq s 15).en = false) ∧
    (∀ n ∈ [(63 : BitVec 32), 64], ∃ s x f, Ready (.aLaunch 0 1 15) .a 0 s ∧ (∀ p i w, (curBank s s.core).wait ≠ .launch p i w) ∧
      (curBank s s.core).useA 1 = .ok x ∧ x.toNat % 64 = 0 ∧ (getLq s 15).en = true ∧ (getLq s 15).dev = true ∧
      locateAll s (viewNow s) 0 0 64 true false false false [x] = .ok f ∧ (Room s 15 ↔ n = 63)) ∧
    (∃ s, ∃ x : Access, x.op = .record 15 true ∧ swf s.cores 0 Core.zero = true ∧ (getBank s 0 false).wait = .launch 15 x.id none) ∧
    (∃ s, ∃ x : Access, x.op = .record 15 false ∧
      ((getLq s 15).tail - (getLq s 15).head).toNat + 1 = 2 ^ (getLq s 15).log2.toNat) ∧
    (∃ s, ∃ x : Access, x.op = .record 15 false ∧
      2 ^ (getLq s 15).log2.toNat = ((getLq s 15).tail - (getLq s 15).head).toNat) ∧
    (∀ n ∈ [(63 : BitVec 32), 64], ∃ s w, Ready (.aLaunch 0 1 15) .a 0 s ∧ (curBank s s.core).wait = .launch 15 7 (some w) ∧
      (Room s 15 ↔ n = 63)) :=
  ⟨⟨shoeQueue true 0 (at1 (own + 32) id), _, ready_of rfl, nofun, rfl, by decide⟩,
   ⟨shoeQueue false 0 (at1 own id), _, ready_of rfl, nofun, rfl, rfl, rfl⟩, by
    intro n h
    simp only [List.mem_cons, List.not_mem_nil, or_false] at h
    rcases h with rfl | rfl
    · exact ⟨shoeQueue true 63 (at1 own id), _, _, ready_of rfl, nofun, rfl, rfl, rfl, rfl, rfl, by unfold Room; decide⟩
    · exact ⟨shoeQueue true 64 (at1 own id), _, _, ready_of rfl, nofun, rfl, rfl, rfl, rfl, rfl, by unfold Room; decide⟩,
   ⟨on .a fun b => { b with wait := .launch 15 7 none }, acc 7 (.record 15 true) [] [] .none, rfl, rfl, rfl⟩,
   ⟨shoeQueue true 63 run, acc 7 (.record 15 false) [] [] .none, rfl, by decide⟩,
   ⟨shoeQueue true 64 run, acc 7 (.record 15 false) [] [] .none, rfl, by decide⟩, by
    intro n h
    simp only [List.mem_cons, List.not_mem_nil, or_false] at h
    rcases h with rfl | rfl
    · exact ⟨shoeQueue true 63 (on .a fun b => { b with wait := .launch 15 7 (some 0) }), 0, ready_of rfl, rfl, by unfold Room; decide⟩
    · exact ⟨shoeQueue true 64 (on .a fun b => { b with wait := .launch 15 7 (some 0) }), 0, ready_of rfl, rfl, by unfold Room; decide⟩⟩

/-- Whether an action or a check answers `a`. -/
def givesB {ε α : Type} [DecidableEq α] (a : α) : Except ε α → Bool
  | .ok b => b == a
  | .error _ => false

theorem gives_of {ε α : Type} [DecidableEq α] {a : α} {x : Except ε α} (h : givesB a x = true) : x = .ok a := by
  cases x with
  | error e => cases h
  | ok b => rw [beq_iff_eq.mp h]

theorem witness_copyWord :
    ∃ s y k src dst, Ready (.aCpy 0 7 1) .a 0 s ∧ (curBank s s.core).useA 1 = .ok y ∧ readCard s y = .ok k ∧
      copyRegions s (viewNow s) k = .ok () ∧ cardChecks y (copyChecks s (viewNow s) k) = .ok () ∧ (getCore s s.core).jobs.length < 64 ∧
      copySource s (viewNow s) y k = .ok src ∧ copyDest s (viewNow s) y k = .ok dst ∧ dst.elems.length = 1 :=
  ⟨carded (copyCard 1) (at1 own id), _, copyCard 1, _, _, ready_of rfl, rfl, gives_of (by decide), rfl, rfl, by decide, rfl, rfl, rfl⟩

theorem witness_copyWordChecked :
    ∃ s y k, Ready (.aCpy 0 7 1) .a 0 s ∧ (curBank s s.core).useA 1 = .ok y ∧ readCard s y = .ok k ∧
      copyRegions s (viewNow s) k = .ok () ∧ cardChecks y (copyChecks s (viewNow s) k) = cardFault y 4 :=
  ⟨carded (copyCard 0) (at1 own id), _, copyCard 0, ready_of rfl, rfl, gives_of (by decide), rfl, rfl⟩

theorem witness_collectiveWord :
    ∃ s y k src dst tmp, Ready (.aColl 0 1) .a 0 s ∧ (curBank s s.core).useA 1 = .ok y ∧ readCard s y = .ok k ∧
      cardChecks y (collChecks s k) = .ok () ∧ (getCore s s.core).jobs.length < 64 ∧
      resolveSide s (viewNow s) y (collSuit k) (collSide k (collSrc k) true false) (cells 1 (collCount k)) = .ok src ∧
      resolveSide s (viewNow s) y (collSuit k) (collSide k (collDst k) false true) (cells 1 (collDstLen k)) = .ok dst ∧
      resolveSide s (viewNow s) y (collSuit k) (collSide k (collTmp k) true true) (cells 1 (collTmpLen k)) = .ok tmp :=
  ⟨carded collCard (frames (at1 own id)), _, collCard, _, _, _, ready_of rfl, rfl, gives_of (by decide), rfl, by decide, rfl, rfl, rfl⟩

theorem witness_swapWord :
    (∃ s y k, Ready (.aSwap 0 1) .a 0 s ∧ (curBank s s.core).useA 1 = .ok y ∧ readCard s y = .ok k ∧ swapOk s k = true ∧
      (getCore s s.core).jobs.length < 64) ∧
    ∃ s y k, Ready (.aSwap 0 1) .a 0 s ∧ (curBank s s.core).useA 1 = .ok y ∧ readCard s y = .ok k ∧ swapOk s k = false :=
  ⟨⟨carded (swapCard 1) (frames (at1 own fun b => { b with priv := true })), _, swapCard 1, ready_of rfl, rfl, gives_of (by decide), by decide, by decide⟩,
   ⟨carded (swapCard 0) (frames (at1 own fun b => { b with priv := true })), _, swapCard 0, ready_of rfl, rfl, gives_of (by decide), by decide⟩⟩

theorem witness_footprints : (∃ (rd : List (Nat × Nat)) (a : Nat), ∃ e ∈ rd, e.1 ≤ a ∧ a < e.1 + e.2) :=
  ⟨[(64, 8)], 71, (64, 8), .head _, by decide, by decide⟩

/-! ### What the device does by itself, and what the host does to it -/

/-- A ready node whose bank `b` of core 0 is `f` of a fresh one. -/
def banked (b : Bool) (f : Bank → Bank) : State :=
  let s := modBank State.reset 0 b f
  { s with disc := { s.disc with ready := true } }

theorem witness_drainedFaultsAndStops :
    (∀ c ∈ [(0x12 : BitVec 8), 0x01], ∃ s p, (curBank s 0).pend = some p ∧ p.abort = false ∧ (curBank s 0).st = .running ∧
      (curBank s 0).drained = true ∧ p.fr.code = c) ∧
    isService 0x12 = true ∧ isService 0x01 = false ∧
    (∃ s p, (curBank s 0).pend = some p ∧ (curBank s 0).drained = false) ∧
    (∃ s c p, (getBank s c false).pend = some p ∧ p.abort = true ∧ (getBank s c false).drained = true) ∧
    (∃ s c p, (getBank s c false).pend = some p ∧ p.abort = false) ∧
    (∃ s r l, (curBank s 0).due = r :: l ∧ r.engine = Engine.tag .m ∧ (curBank s 0).st = .running ∧ (curBank s 0).stopping = false ∧
      (curBank s 0).pend = none ∧ (curBank s 0).drained = true ∧ (curBank s 0).round.waiting = false) ∧
    (∃ s, swf s.cores 0 Core.zero = true ∧ (getBank s 0 false).stopping = true ∧ (getBank s 0 false).drained = true ∧
      (getBank s 0 false).pend = none ∧ (getCore s 0).arrayStill = true ∧ (getBank s 0 false).st = .running ∧
      (getCore s 0).active = false ∧ (getBank s 0 true).st = .ready) ∧
    ∃ s, swf s.cores 0 Core.zero = true ∧ (getBank s 0 true).stopping = true ∧ (getBank s 0 true).drained = true ∧
      (getBank s 0 true).pend = none :=
  let rec_ := fun c => (⟨c, 2, 0, 0, 0, 0, 0⟩ : FaultRec)
  ⟨fun c _ => ⟨on .a fun b => { b with pend := some ⟨rec_ c, none, false⟩ }, _, rfl, rfl, rfl, rfl, rfl⟩, by decide, by decide,
   ⟨on .a fun b => { b with pend := some ⟨rec_ 0x01, none, false⟩, inflight := [acc 1 .store [] [] .none] }, _, rfl, rfl⟩,
   ⟨on .a fun b => { b with pend := some ⟨rec_ 0x01, none, true⟩ }, 0, _, rfl, rfl, rfl⟩,
   ⟨on .a fun b => { b with pend := some ⟨rec_ 0x01, none, false⟩ }, 0, _, rfl, rfl⟩,
   ⟨on .a fun b => { b with due := [rec_ 0x40] }, _, _, rfl, rfl, rfl, rfl, rfl, rfl, rfl⟩,
   ⟨modBank (on .a fun b => { b with stopping := true }) 0 true fun b => { b with st := .ready }, rfl, rfl, rfl, rfl, rfl, rfl, rfl, rfl⟩,
   ⟨banked true fun b => { b with st := .halted, stopping := true }, rfl, rfl, rfl, rfl⟩⟩

/-- A header of version 0x0103 that names core `c`. -/
def header (c : Nat) : Word := BitVec.ofNat 64 (0x0103 + c * 2 ^ 38)

theorem witness_controlCommands :
    (∀ st ∈ [BankState.running, .ready, .halted, .serviceWait, .stopped, .empty, .restoring], ∀ b ∈ [false, true], ∃ s : State,
      s.disc.ready = true ∧ swf s.cores 0 Core.zero = true ∧ (getBank s 0 b).st = st) ∧
    (∃ s : State, s.disc.ready = true ∧ (getBank s 0 false).st = .running ∧ (getBank s 0 false).pe = true) ∧
    (∃ s : State, s.disc.ready = true ∧ (getBank s 0 false).st = .running ∧ (getBank s 0 false).pe = false) ∧
    (∃ s : State, (getBank s 0 true).st = .stopped ∧ (getBank s 0 true).hdr.toNat % 2 ^ 16 ≠ 0x0103) ∧
    (∃ s : State, (getBank s 0 true).st = .stopped ∧ (getBank s 0 true).hdr.toNat % 2 ^ 16 = 0x0103 ∧
      (getBank s 0 true).hdr.toNat / 2 ^ 38 % 2 ^ 10 = 1023) ∧
    (∃ s : State, (getBank s 0 true).st = .stopped ∧ (getBank s 0 true).hdr.toNat % 2 ^ 16 = 0x0103 ∧
      (getBank s 0 true).hdr.toNat / 2 ^ 38 % 2 ^ 10 = 0 ∧ (getBank s 0 true).svcPend = true) ∧
    (∃ s : State, (getBank s 0 false).st = .empty ∧ (getBank s 0 false).hdrw.toNat / 2 ^ 32 % 16 = 0 ∧
      (getBank s 0 false).owner ≠ some ((getBank s 0 false).hdrw.extractLsb' 48 16)) ∧
    (∃ s : State, (getBank s 0 false).st = .empty ∧ (getBank s 0 false).hdrw.toNat / 2 ^ 32 % 16 = 0 ∧
      (getBank s 0 false).owner = some ((getBank s 0 false).hdrw.extractLsb' 48 16)) ∧
    (∃ s : State, (getBank s 0 true).st = .empty ∧ (getBank s 0 true).hdrw.toNat / 2 ^ 32 % 16 ≠ 0) ∧
    (∀ p ∈ [true, false], ∀ q ∈ [true, false], ∀ b ∈ [true, false], ∃ s : State, (getBank s 0 b).st = .stopped ∧
      (getBank s 0 b).svcPend = p ∧ (getBank s 0 b).svcSeen = q) ∧
    (∃ s : State, (getBank s 0 false).st = .running ∧ (getBank s 0 false).svcSeen = true) ∧
    ∃ s : State, (getBank s 0 false).st = .running ∧ (getBank s 0 false).svcSeen = false :=
  ⟨fun st _ b _ => ⟨banked b fun x => { x with st := st }, rfl, by cases b <;> cases st <;> rfl, by cases b <;> cases st <;> rfl⟩,
   ⟨banked false fun b => { b with st := .running, pe := true }, rfl, rfl, rfl⟩,
   ⟨banked false fun b => { b with st := .running }, rfl, rfl, rfl⟩, ⟨banked true fun b => { b with st := .stopped, hdr := 0x0102 }, rfl, by decide⟩,
   ⟨banked true fun b => { b with st := .stopped, hdr := header 1023 }, rfl, by decide, by decide⟩,
   ⟨banked true fun b => { b with st := .stopped, hdr := header 0, svcPend := true }, rfl, by decide, by decide, rfl⟩,
   ⟨banked false id, rfl, by decide, by decide⟩, ⟨banked false fun b => { b with owner := some 0 }, rfl, by decide, rfl⟩,
   ⟨banked true fun b => { b with hdrw := 0x100000000 }, rfl, by decide⟩,
   fun p _ q _ b _ => ⟨banked b fun x => { x with st := .stopped, svcPend := p, svcSeen := q }, by cases b <;> rfl, by cases b <;> rfl,
     by cases b <;> rfl⟩,
   ⟨banked false fun b => { b with st := .running, svcSeen := true }, rfl, rfl⟩,
   ⟨banked false fun b => { b with st := .running }, rfl, rfl⟩⟩

/-- Core 0 with one job. -/
def oneJob (j : Job) : State := jobs [j] id

/-- A job in phase `p`. -/
def jobIn (kind : JobKind) (c : BitVec 512) (p : JobPhase) : Job := { job kind c with phase := p }

/-- A copy that begins; one that reads half a byte; one that pushes; one that writes; what transposition and the valid part make of
an element; a swap that starts, exchanges and does. -/
theorem witness_copiesAndSwaps :
    (∃ s j, getJob s 0 0 = some j ∧ j.kind = .copy ∧ j.phase = .accepted ∧ mayBegin s 0 j (cardSuit j.card) = true ∧
      channelTurn s 0 j = true) ∧
    (∃ s : State, ∃ j : Job, swf s.cores 0 Core.zero = true ∧ cardQsrc j.card = false ∧ cardDc j.card = false ∧
      j.src = [⟨.mem 64 4, 4, 4⟩] ∧ j.tagHolds s ⟨.mem 64 4, 4, 4⟩ = true ∧ placeFault s true false ⟨.mem 64 4, 4, 4⟩ = none ∧
      j.unsent = [] ∧ j ∈ (getCore s 0).jobs) ∧
    (∃ s j, getJob s 0 0 = some j ∧ j.kind = .copy ∧ j.phase = .pushing ∧ j.sent = [] ∧ j.unsent = [] ∧
      tileRoom s (tableOf 0) (cardDst j.card).toNat = true) ∧
    (∃ s j, getJob s 0 0 = some j ∧ j.kind = .copy ∧ j.phase = .reading ∧ j.sent = [] ∧ j.unsent = [] ∧ cardDc j.card = false ∧
      j.dst.length = 1 ∧ ∀ p ∈ j.dst, accBusy s p = false) ∧
    (∃ j : Job, j.entry = none ∧ cardDc j.card = false ∧ cardCv j.card = false ∧ j.lost = [] ∧ cardTr j.card = true ∧
      cardVrows j.card = 2 ∧ cardVcols j.card = 1) ∧
    (∃ s j, getJob s 0 0 = some j ∧ j.kind = .swap ∧ j.phase = .accepted ∧ swapTurn s j = true ∧
      (swapEntries j.card).all (fun pa => !bit (entryAt s pa) 2) = true ∧ mayBegin s 0 j (swapSuit j.card) = true) ∧
    (∃ s j, getJob s 0 0 = some j ∧ j.kind = .swap ∧ j.phase = .reading ∧ entriesIdle s j = true) ∧
    ∃ s k, Memory.wf s.mem = true ∧ swapMove k = false ∧ swapOk s k = true ∧
      ∀ e ∈ [swapEnta k, swapEntb k], ∀ f ∈ [(swapFrames s k).1, (swapFrames s k).2], e + 8 ≤ f ∨ f + swapSize k ≤ e :=
  ⟨⟨oneJob (jobIn .copy (copyCard 1) .accepted), jobIn .copy (copyCard 1) .accepted, rfl, rfl, rfl, rfl, rfl⟩,
   ⟨modCore run 0 fun k => { k with jobs := [{ job .copy (copyCard 1) with src := [⟨.mem (2 ^ 40 + 64) 4, 4, 4⟩] },
      { job .copy (copyCard 1) with src := [⟨.mem 64 4, 4, 4⟩] }] },
    { job .copy (copyCard 1) with src := [⟨.mem 64 4, 4, 4⟩] }, rfl, by decide, by decide, rfl, rfl, rfl, rfl, .tail _ (.head _)⟩,
   ⟨oneJob (jobIn .copy (card [(64, 1), (271, 1)]) .pushing), jobIn .copy (card [(64, 1), (271, 1)]) .pushing, rfl, rfl, rfl, rfl, rfl, by decide⟩,
   ⟨oneJob { jobIn .copy (copyCard 1) .reading with dst := [⟨.mem 64 0, 8, 8⟩] }, { jobIn .copy (copyCard 1) .reading with dst := [⟨.mem 64 0, 8, 8⟩] },
     rfl, rfl, rfl, rfl, rfl, by decide, rfl, by
      intro p h
      rw [List.eq_of_mem_singleton h]
      rfl⟩,
   ⟨job .copy (card [(192, 2), (208, 3), (224, 7), (240, 1), (264, 1)]), rfl, by decide, by decide, rfl, by decide, by decide, by decide⟩,
   ⟨frames (oneJob (jobIn .swap (swapCard 1) .accepted)), jobIn .swap (swapCard 1) .accepted, rfl, rfl, rfl, rfl, by decide, by decide⟩,
   ⟨frames (oneJob (jobIn .swap (swapCard 1) .reading)), jobIn .swap (swapCard 1) .reading, rfl, rfl, rfl, by decide⟩,
   ⟨frames run, swapCard 1, rfl, by decide, by decide, by decide⟩⟩

/-- A running sum across dimension 0, with the partner's message `m`. -/
def sum (m : Option ReadyMsg) : Job := { job .coll collCard with phase := .reading, mine := true, partner := m }

theorem witness_jobMoves :
    (∃ s j, firstColl s 0 = some j ∧ j.phase = .accepted ∧ j.stop = false ∧ mayBegin s 0 j (collSuit j.card) = true ∧
      ∀ p ∈ j.dst, accBusy s p = false) ∧
    (∃ s j, firstColl s 0 = some j ∧ j.phase = .writing ∧ j.sent = [] ∧ j.unsent = [] ∧ ∀ p ∈ j.dst, accBusy s p = false) ∧
    (∃ s j, firstColl s 0 = some j ∧ j.phase = .reading ∧ j.stop = false ∧ collPartner s j = some (0, 1) ∧ (getPort s 0).st = 0 ∧
      ∀ p ∈ j.dst, accBusy s p = false) ∧
    (∃ s j, ∃ m : ReadyMsg, (getCore s 0).jobs.find? (fun j => j.kind == .coll && collTag j.card == m.tag) = some j ∧
      collPartner s j = some (0, m.src) ∧ j.partner = none ∧ j.stop = false ∧ m.op.toNat = collOp j.card ∧
      m.fmt.toNat = collFmt j.card ∧ m.count.toNat = collCount j.card ∧ m.stepNo = j.stepNo) ∧
    (∃ s j, ∃ m : ReadyMsg, (getCore s 0).jobs.find? (fun j => j.kind == .coll && collTag j.card == m.tag) = some j ∧
      collPartner s j = some (0, m.src) ∧ j.partner = none ∧ j.stop = false ∧ m.stepNo ≠ j.stepNo) ∧
    (∃ s j m, ∃ data : CollData, firstColl s 0 = some j ∧ collPartner s j = some (0, 1) ∧ j.stop = false ∧ j.phase = .reading ∧
      j.partner = some m ∧ j.mine = true ∧ collGather j.card = false ∧
      data.bytes.length = collCount j.card * collWidth j.card / 8 ∧ ∀ p ∈ j.dst, accBusy s p = false) ∧
    ∃ j : Job, collGather j.card = false ∧ swf j.got 0 0 = true ∧ 0 < collCount j.card :=
  let message : Nat → ReadyMsg := fun n => { src := 1, tag := 0, op := 0, fmt := 0, count := 1, stepNo := n, tmp := 0 }
  ⟨⟨oneJob (jobIn .coll collCard .accepted), jobIn .coll collCard .accepted, rfl, rfl, rfl, rfl, fun _ h => (List.not_mem_nil h).elim⟩,
   ⟨oneJob (jobIn .coll collCard .writing), jobIn .coll collCard .writing, rfl, rfl, rfl, rfl, fun _ h => (List.not_mem_nil h).elim⟩,
   ⟨frames (oneJob (sum none)), sum none, rfl, rfl, rfl, by decide, by decide, fun _ h => (List.not_mem_nil h).elim⟩,
   ⟨frames (oneJob (sum none)), sum none, message 0, rfl, by decide, rfl, rfl, by decide, by decide, by decide, rfl⟩,
   ⟨frames (oneJob (sum none)), sum none, message 1, rfl, by decide, rfl, rfl, by decide⟩,
   ⟨frames (oneJob (sum (some (message 0)))), sum (some (message 0)), message 0, ⟨[0, 0, 0, 0], []⟩, rfl, by decide, rfl, rfl, rfl,
     rfl, by decide, by decide, fun _ h => (List.not_mem_nil h).elim⟩,
   ⟨job .coll collCard, by decide, rfl, by decide⟩⟩

/-- What an action or a check that answers shows of its answer. -/
theorem answer_of {ε α : Type} {x : Except ε α} {P : α → Bool}
    (h : (match x with | .ok a => P a | .error _ => false) = true) : ∃ a, x = .ok a ∧ P a = true := by
  cases x with
  | error e => cases h
  | ok a => exact ⟨a, rfl, h⟩

/-- A tenant record of tenant 0 whose page tables map GLOBAL 0 on, and a kernel descriptor at GLOBAL 0x9000. -/
def tenants : State :=
  let s := State.reset.withFetchWord 32 0
  let s := wrBytes s (placeBase + 0x8000) (bytesOf placeBase 8)
  let s := wrBytes s (placeBase + 0x9000) (bytesOf (card [(0, 0x100), (64, 0x4000), (128, 2)]).toNat 64)
  { s with shoe := { s.shoe with tentabBase := BitVec.ofNat 64 (placeBase + 0x8000), tentabCount := 1 }
           disc := { s.disc with ready := true } }

/-- The record of that kernel, and one of version 0. -/
def record (ver : Nat) : BitVec 512 := card [(0, 0x9000), (504, ver)]

/-- Queue 3 with room for two records at GLOBAL 0xA000, changed by `f`. -/
def queued (f : LaunchQueue → LaunchQueue) : State :=
  setLq tenants 3 (f { LaunchQueue.zero with en := true, dev := true, log2 := 1, base := 0xA000 })

/-- Queue 3 holds the record `r`, read and eligible. -/
def headed (r : BitVec 512) : State :=
  queued fun l => { l with tail := 1, copy := some r, copyOk := true, eligible := true }

theorem witness_launchQueues :
    (∃ s : State, ∃ v : BitVec 32, s.disc.ready = true ∧ (getLq s 3).en = true ∧
      (v - (getLq s 3).head).toNat = 2 ^ (getLq s 3).log2.toNat) ∧
    (∃ s : State, ∃ v : BitVec 32, s.disc.ready = true ∧ (getLq s 3).en = true ∧
      (v - (getLq s 3).head).toNat = 2 ^ (getLq s 3).log2.toNat + 1) ∧
    (∃ s : State, s.disc.ready = true ∧ (getLq s 0).en = false) ∧
    (∃ s : State, ∃ v : BitVec 32, s.disc.ready = true ∧ v.getLsbD 4 = false ∧ v.getLsbD 5 = false ∧ v.getLsbD 0 = true ∧
      (getLq s 3).log2 ≠ 0) ∧
    (∃ s, (getLq s 3).rej = true) ∧ (∃ s, (getLq s 3).rej = false) ∧
    (∃ s x n, (getLq s 3).en = true ∧ (getLq s 3).rej = false ∧ (getLq s 3).copy = none ∧ (getLq s 3).head ≠ (getLq s 3).tail ∧
      tenantXlat s (getLq s 3).ten = some x ∧
      readNum s (tenantView (getLq s 3).ten x) ((getLq s 3).slotVa (getLq s 3).head) 64 = some n ∧
      swf s.shoe.lq 0 LaunchQueue.zero = true) ∧
    (∀ b ∈ [true, false], ∃ s r, (getLq s 3).copy = some r ∧ (getLq s 3).dies = 2 ∧ (getLq s 3).sent = (getLq s 3).acked ∧
      (getLq s 3).acked = 2 ∧ (getLq s 3).banksBad = b) ∧
    (∃ s r, (getLq s 3).copy = some r ∧ (getLq s 3).dies = 2 ∧ (getLq s 3).sent = (getLq s 3).acked ∧ (getLq s 3).acked = 1 ∧
      replicaLabel r 1 ≠ s.fabric.label) ∧
    (∃ s r, (getLq s 3).copy = some r ∧ (getLq s 3).dies = 2 ∧ (getLq s 3).sent = (getLq s 3).acked ∧ (getLq s 3).acked = 0 ∧
      replicaLabel r 0 = s.fabric.label ∧ (getLq s 3).en = false) ∧
    (∃ s r, (getLq s 3).copy = some r ∧ (getLq s 3).dies = 2 ∧ (getLq s 3).sent = (getLq s 3).acked ∧ (getLq s 3).acked = 0 ∧
      replicaLabel r 0 = s.fabric.label ∧ (getLq s 3).en = true ∧ (getLq s 3).dev = true ∧ queueFull s 3 = true) ∧
    (∃ s, (getLq s 3).en = true ∧ (getLq s 3).dev = true ∧ queueFull s 3 = false) ∧
    ∃ s, (getLq s 3).en = true ∧ (getLq s 3).dev = true ∧ queueFull s 3 = true :=
  ⟨⟨queued id, 2, rfl, rfl, rfl⟩, ⟨queued id, 3, rfl, rfl, rfl⟩, ⟨queued id, rfl, rfl⟩,
   ⟨queued id, 1, rfl, by decide, by decide, by decide, by decide⟩, ⟨queued fun l => { l with rej := true }, rfl⟩, ⟨queued id, rfl⟩,
   ⟨queued fun l => { l with tail := 1 }, _, _, rfl, rfl, rfl, by decide, rfl, rfl, rfl⟩,
   fun b _ => ⟨queued fun l => { l with copy := some (record 1), dies := 2, sent := 2, acked := 2, banksBad := b }, record 1, rfl, rfl,
     rfl, rfl, rfl⟩,
   ⟨queued fun l => { l with copy := some (record 1), dies := 2, sent := 1, acked := 1 }, record 1, rfl, rfl, rfl, rfl, by decide⟩,
   ⟨queued fun l => { l with en := false, copy := some (record 1), dies := 2 }, record 1, rfl, rfl, rfl, rfl, by decide, rfl⟩,
   ⟨queued fun l => { l with tail := 2, copy := some (record 1), dies := 2 }, record 1, rfl, rfl, rfl, rfl, by decide, rfl, rfl, rfl⟩,
   ⟨queued fun l => { l with tail := 1 }, rfl, rfl, rfl⟩, ⟨queued fun l => { l with tail := 2 }, rfl, rfl, rfl⟩⟩

/-- The kernel with the loop entry `e` and an image of `n` bytes, on a node where core 5 has no scratchpad bank. -/
def kernelWith (e n : Nat) : State :=
  let s := headed (record 1)
  let s := wrBytes s (placeBase + 0x9000) (bytesOf (card [(0, 0x100), (16, 1), (64, 0x4000), (128, 2), (256, 0x9040),
    (384, if n = 0 then 0 else 0x9000), (448, n)]).toNat 64)
  modCore (wrBytes s (placeBase + 0x9040) (bytesOf e 16)) 5 fun k => { k with spmask := 0 }

/-- Whether the head record of queue 3 is admitted with `p` of what the checks find. -/
def admitted (s : State) (p : Admitted → Bool) : Prop :=
  ∃ a, admission s (getLq s 3).copyOk (getLq s 3).copyRepl ((getLq s 3).copy.getD 0) = .ok a ∧
    p a = true

/-- A record of version 0; two iterations of a DIES level; an image that core 5 has no bank for; no iteration; one. -/
theorem witness_launchDispatch :
    (∃ s n, chooseQueue s = some 3 ∧ freeSlot s = some 0 ∧
      admission s (getLq s 3).copyOk (getLq s 3).copyRepl ((getLq s 3).copy.getD 0) = .error n) ∧
    (∀ n ∈ [0, 32], ∀ e ∈ [0x200000002, 0x100000001], chooseQueue (kernelWith e n) = some 3 ∧ freeSlot (kernelWith e n) = some 0 ∧
      (getLq (kernelWith e n) 3).copyRepl = false) ∧
    admitted (kernelWith 0x200000002 32) (fun a => a.kern.hasDies && a.dies == 2 && a.total == 1 && a.banksBad) ∧
    admitted (kernelWith 0x100000001 32) (fun a => !a.kern.hasDies && a.total == 1 && a.banksBad) ∧
    admitted (kernelWith 0x000000001 0) (fun a => !a.kern.hasDies && a.total == 0 && !a.banksBad) ∧
    admitted (kernelWith 0x000000002 0) (fun a => a.kern.hasDies && a.dies == 0 && !a.banksBad) ∧
    admitted (kernelWith 0x100000001 0) fun a => !a.kern.hasDies && a.total == 1 && !a.banksBad :=
  ⟨⟨headed (record 0), _, by decide, by decide, rfl⟩, by
    intro n h e k
    simp only [List.mem_cons, List.not_mem_nil, or_false] at h k
    rcases h with rfl | rfl <;> rcases k with rfl | rfl <;> exact ⟨by decide, by decide, by decide⟩,
   answer_of (by decide), answer_of (by decide), answer_of (by decide), answer_of (by decide), answer_of (by decide)⟩

/-- Core 0 waits at a round of launch 5, which core 1 has left. -/
def atRound (f : Launch → Launch) : State :=
  launched (f { launchOf 1 0 2 [] [] with started := [0, 1], exited := [1] }) fun b => { b with round := { b.round with waiting := true } }

/-- Core 0 has joined an EXIT. -/
def leaving (errs : SMap (Option FaultRec)) : State :=
  modCore (on .a fun b => { b with exiting := true }) 0 fun k => { k with errs := errs }

theorem witness_retiringLaunches :
    (∃ (s : State) (r : BitVec 512), swf s.shoe.cc 0 (0 : BitVec 32) = true ∧ recBen r = true) ∧
    (∃ (s : State) (r : BitVec 512), swf s.shoe.cc 0 (0 : BitVec 32) = true ∧ recBen r = false) ∧
    (∃ s l, swf s.cores 0 Core.zero = true ∧ (getCore s 0).active = false ∧ (getBank s 0 false).launch = some 5 ∧
      getLaunch s 5 = some l) ∧
    (∀ m ∈ [(0 : BitVec 512), 1], ∃ s l, getLaunch s 5 = some l ∧
      ((recRange l.record = true ∧ l.began = true) ∨ (recRange l.record = false ∧ l.next = l.total)) ∧ l.started ≠ [] ∧
      l.exited.length = l.started.length ∧ recRange l.record = (m == 1)) ∧
    (∃ s l, getLaunch s 5 = some l ∧ l.started ≠ [] ∧ l.exited.length ≠ l.started.length) ∧
    (∃ s, swf s.cores 0 Core.zero = true ∧ (getBank s 0 false).drained = true ∧ ∀ m ∈ (getCore s 0).cmds, m.begun = false) ∧
    (∃ s, swf s.cores 0 Core.zero = true ∧ (getBank s 0 false).drained = true ∧ ∃ m ∈ (getCore s 0).cmds, m.begun = true) :=
  ⟨⟨run, card [(415, 1)], rfl, by decide⟩, ⟨run, 0, rfl, by decide⟩, ⟨launched (launchOf 1 0 1 [] []) id, _, rfl, rfl, rfl, rfl⟩, by
    intro m h
    simp only [List.mem_cons, List.not_mem_nil, or_false] at h
    rcases h with rfl | rfl
    · exact ⟨launched { launchOf 0 1 1 [] [] with exited := [0] } id, _, rfl, .inr ⟨rfl, rfl⟩, nofun, rfl, rfl⟩
    · exact ⟨launched { launchOf 1 1 1 [] [] with exited := [0] } id, _, rfl, .inl ⟨rfl, rfl⟩, nofun, rfl, rfl⟩,
   ⟨launched (launchOf 1 0 1 [] []) id, _, rfl, nofun, by decide⟩, ⟨run, rfl, rfl, fun _ h => (List.not_mem_nil h).elim⟩,
   ⟨modCore run 0 fun k => { k with cmds := [{ cmd (.mMclr 0 1) with begun := true }] }, rfl, rfl, _, .head _, rfl⟩⟩

theorem witness_shoeMoves :
    (∃ s : State, swf s.shoe.lq 0 LaunchQueue.zero = true) ∧
    (∃ s n l, coreFree s 1023 = true ∧ dealLaunch s 1023 = some (n, l) ∧ dealTurn s n 1023 = true) ∧
    (∃ s l, getLaunch s 63 = some l ∧ recRange l.record = true ∧ l.began = false ∧
      (recCores l.record).all (fun c => coreFree s c && !reservedAgainst s l c) = true) ∧
    (∃ s, (curBank s 0).st = .running ∧ (curBank s 0).exiting = true ∧ (curBank s 0).stopping = false ∧ (curBank s 0).pend = none ∧
      (curBank s 0).due = [] ∧ exitReady s 0 = true ∧ takeError (getCore s 0) = none) ∧
    (∃ s r k, (curBank s 0).st = .running ∧ (curBank s 0).exiting = true ∧ (curBank s 0).stopping = false ∧ (curBank s 0).pend = none ∧
      (curBank s 0).due = [] ∧ exitReady s 0 = true ∧ takeError (getCore s 0) = some (r, k)) ∧
    (∃ s l, swf s.cores 0 Core.zero = true ∧ getLaunch s 5 = some l ∧ l.roundScope ≠ 2 ∧ l.started.Nodup ∧
      l.started.all (hasArrived s 5 l) = true ∧ roundWaiters s 5 l = [0]) ∧
    (∃ s l, getLaunch s 5 = some l ∧ l.started.all (hasArrived s 5 l) = false) ∧ ∃ s l, getLaunch s 63 = some l :=
  ⟨⟨queued id, rfl⟩, ⟨setLaunch { run with shoe := { run.shoe with cptr := 1023 } } 7 (some (launchOf 0 0 1 [] [])), _, _, rfl, rfl, rfl⟩,
   ⟨setLaunch run 63 (some { launchOf 1 0 1 [] [] with began := false, record := card [(416, 1), (428, 0x8000)] }),
     { launchOf 1 0 1 [] [] with began := false, record := card [(416, 1), (428, 0x8000)] }, by decide, by decide, rfl, by decide⟩,
   ⟨leaving [], rfl, rfl, rfl, rfl, rfl, rfl, rfl⟩,
   ⟨leaving [(7, some ⟨0x10, 0, 0, 0, 0, 0, 1⟩)], _, _, rfl, rfl, rfl, rfl, rfl, rfl, rfl⟩,
   ⟨atRound id, _, rfl, rfl, by decide, by decide, rfl, rfl⟩,
   ⟨atRound fun l => { l with exited := [] }, _, rfl, rfl⟩, ⟨setLaunch run 63 (some (launchOf 1 0 1 [] [])), _, rfl⟩⟩

/-- A store of 8 bytes from node 1 to this node's window, the packet number `n` of its stream. -/
def packet (kind : PacketKind) (n : BitVec 32) : Packet :=
  { blankPacket run 5 0 2 kind 0 0x40 with src := 1, num := n, size := 8, data := [1, 2, 3, 4, 5, 6, 7, 8] }

/-- `tenants` with a window of one page. -/
def served : State := { tenants with fabric := { tenants.fabric with winSize := 4096 } }

/-- Stream 2 of core 5 toward node 1 with packet 0 unacknowledged and resent `n` times. -/
def sending (n : Nat) : State :=
  { run with fabric := { run.fabric with e2eRetry := 8, sends := [⟨5, 1, 2, 1, [{ packet .store 0 with src := 0, dst := 1 }], [(0, n)]⟩] } }

/-- Stream 2 of core 5 of node 1, of which packet 2 has been delivered, on a node whose port 0 is in state `n`. -/
def received (n : BitVec 2) : State :=
  setPort { run with fabric := { run.fabric with recvs := [⟨1, 5, 2, 3, [(2, .data [] false)]⟩] } } 0 { Port.zero with st := n }

theorem witness_packetsDelivered :
    (∃ s : State, ∃ p : Packet, p.dst ≠ s.fabric.label) ∧
    (∃ s : State, ∃ p : Packet, p.dst = s.fabric.label ∧ (p.num - (getRecv s p.src p.core p.sclass).expect).toInt < 0 ∧
      (getRecv s p.src p.core p.sclass).saved.find? (fun x => x.1 == p.num) = none) ∧
    (∀ n ∈ [(2 : BitVec 2), 0], ∃ s : State, ∃ p : Packet, ∃ m r x l, p.dst = s.fabric.label ∧
      (p.num - (getRecv s p.src p.core p.sclass).expect).toInt < 0 ∧
      (getRecv s p.src p.core p.sclass).saved.find? (fun x => x.1 == p.num) = some (m, r) ∧ p.rclass = some 0 ∧
      path s.fabric.label.toNat p.src.toNat 0 = (x, 0) :: l ∧ (getPort s 0).st = n) ∧
    (∃ s : State, ∃ p : Packet, p.dst = s.fabric.label ∧ 0 < (p.num - (getRecv s p.src p.core p.sclass).expect).toInt ∧
      p.kind ≠ .sto) ∧
    (∃ s : State, ∃ p : Packet, ∃ u r, p.dst = s.fabric.label ∧ (p.num - (getRecv s p.src p.core p.sclass).expect).toInt = 0 ∧
      p.kind ≠ .sto ∧ p.parts ≤ 1 ∧ serveOne (heardFrom s p.src p.dst p.rclass) p false = some (u, r)) ∧
    (∃ s : State, ∃ p : Packet, p.dst = s.fabric.label ∧ (p.num - (getRecv s p.src p.core p.sclass).expect).toInt = 0 ∧
      p.kind = .sto ∧ marksReached s p = true) ∧
    (∃ s : State, ∃ p : Packet, p.dst = s.fabric.label ∧ (p.num - (getRecv s p.src p.core p.sclass).expect).toInt = 0 ∧
      p.kind = .sto ∧ marksReached s p = false ∧ s.fabric.heldSto = []) ∧
    (∃ s : State, ∃ p : Packet, p.dst = s.fabric.label ∧ (p.num - (getRecv s p.src p.core p.sclass).expect).toInt = 5 ∧
      p.kind = .sto ∧ s.fabric.heldSto = []) ∧
    (∃ (s : State) (a b : Label) (k : BitVec 2) (x : Nat),
      (path a.toNat b.toNat k.toNat).find? (fun h => h.1 ^^^ 2 ^ h.2 == s.fabric.label.toNat) = some (x, 0)) :=
  ⟨⟨run, { packet .store 0 with dst := 1 }, by decide⟩, ⟨received 2, packet .store 1, rfl, by decide, by decide⟩, by
    intro n h
    simp only [List.mem_cons, List.not_mem_nil, or_false] at h
    rcases h with rfl | rfl
    · exact ⟨received 2, { packet .store 2 with rclass := some 0 }, _, _, _, _, rfl, by decide, rfl, rfl, rfl, rfl⟩
    · exact ⟨received 0, { packet .store 2 with rclass := some 0 }, _, _, _, _, rfl, by decide, rfl, rfl, rfl, rfl⟩,
   ⟨received 2, packet .store 4, rfl, by decide, by decide⟩, ⟨run, packet .store 0, _, _, rfl, by decide, by decide, by decide, rfl⟩,
   ⟨run, { packet .sto 0 with mark := [0, 0, 0, 0] }, rfl, by decide, rfl, by decide⟩,
   ⟨run, { packet .sto 0 with mark := [0, 1, 0, 0] }, rfl, by decide, rfl, by decide, rfl⟩,
   ⟨run, { packet .sto 5 with mark := [0, 0, 0, 0] }, rfl, by decide, rfl, rfl⟩, ⟨run, 1, 0, 0, 1, by decide⟩⟩

/-- Core 5 has a store in flight whose packet 0 of stream 2 toward node 1 has no answer; `l` follows it. -/
def awaiting (l : List Access) : State :=
  modBank (sending 0) 5 false fun b =>
    { b with inflight := { acc 1 .store [⟨.node 1 0x40, 64, 64⟩] [0] .none with sent := [(0, 1, 2, 0)] } :: l }

theorem witness_packetMoves :
    (∃ s : State, ∃ p : Packet, p.kind ≠ .replica ∧ requestView s p = none) ∧
    (∀ wr ∈ [true, false], ∃ s v f, ∃ p : Packet, p.kind = (if wr then PacketKind.store else .load) ∧ p.ebits = 0 ∧ p.lane = false ∧
      p.dst = s.fabric.label ∧ requestView s p = some v ∧
      locate s v s.seq (BitVec.ofNat 64 (3 * 2 ^ 62 + p.dst.toNat * 2 ^ 40 + p.off.toNat)) p.plane p.suit p.size (!wr) wr false =
        .ok f ∧ p.op ≠ 0x4D ∧ remapHolds s s.seq f.places = false) ∧
    (∃ s p, s.fabric.heldSto.find? (fun q => q.src == 1 && q.core == 5 && q.sclass == 2 && q.num == (getRecv s 1 5 2).expect) =
      some p ∧ marksReached s p = true) ∧
    (∃ s p, s.fabric.heldSto.find? (fun q => q.src == 1 && q.core == 5 && q.sclass == 2 && q.num == (getRecv s 1 5 2).expect) =
      some p ∧ marksReached s p = false) ∧
    (∃ s, (getSend s 5 1 2).unacked.find? (fun p => p.num == 1) = none ∧ (getSend s 5 1 2).unacked ≠ []) ∧
    (∃ s p, (getSend s 5 1 2).unacked.find? (fun p => p.num == 0) = some p ∧ mayAnswer s p (.fault (unreachable p)) = true) ∧
    (∃ s p, (getSend s 5 1 2).unacked.find? (fun p => p.num == 0) = some p ∧ mayAnswer s p (.fault (unreachable p)) = false) ∧
    (∃ s p l, (getSend s 5 1 2).unacked = p :: l ∧ s.fabric.e2eRetry.toNat = sget (getSend s 5 1 2).resends p.num.toNat 0 ∧
      mayAnswer s p (.fault (unreachable p)) = true) ∧
    (∃ s p l, (getSend s 5 1 2).unacked = p :: l ∧ sget (getSend s 5 1 2).resends p.num.toNat 0 + 1 = s.fabric.e2eRetry.toNat) ∧
    (∃ s, (getSend s 5 1 2).unacked = []) ∧ (∃ s : State, s.fabric.heldSto = []) ∧
    (∃ s : State, ((1, 2) : Label × BitVec 2) ∉ s.fabric.marks) ∧ (∃ s : State, ((1, 2) : Label × BitVec 2) ∈ s.fabric.marks) ∧
    (∃ s : State, ∃ p : Packet, ∃ k, p.rclass = some k ∧ (path p.src.toNat p.dst.toNat k.toNat).find? (fun h => h.1 == s.fabric.label.toNat) =
      some (s.fabric.label.toNat, 1) ∧ (getPort s 1).st = 2) ∧
    (∃ s : State, ∃ p : Packet, ∃ k, p.rclass = some k ∧ (path p.src.toNat p.dst.toNat k.toNat).find? (fun h => h.1 == s.fabric.label.toNat) =
      some (s.fabric.label.toNat, 1) ∧ (getPort s 1).st ≠ 2) ∧
    (∃ s : State, s.disc.ready = true ∧ ∀ p ∈ s.fabric.ports, p.2.lockSt = 0) ∧
    ∃ s : State, s.disc.ready = true ∧ ∃ p ∈ s.fabric.ports, p.2.lockSt ≠ 0 :=
  let hop : Packet := { packet .load 0 with src := 1, dst := 2, rclass := some 0 }
  ⟨⟨run, packet .store 0, by decide, rfl⟩, by
    intro wr h
    simp only [List.mem_cons, List.not_mem_nil, or_false] at h
    rcases h with rfl | rfl
    · exact ⟨served, _, _, packet .store 0, rfl, rfl, rfl, rfl, rfl, rfl, by decide, rfl⟩
    · exact ⟨served, _, _, packet .load 0, rfl, rfl, rfl, rfl, rfl, rfl, by decide, rfl⟩,
   ⟨{ run with fabric := { run.fabric with heldSto := [{ packet .sto 0 with mark := [0, 0, 0, 0] }] } },
     { packet .sto 0 with mark := [0, 0, 0, 0] }, rfl, by decide⟩,
   ⟨{ run with fabric := { run.fabric with heldSto := [{ packet .sto 0 with mark := [0, 1, 0, 0] }] } },
     { packet .sto 0 with mark := [0, 1, 0, 0] }, rfl, by decide⟩,
   ⟨sending 0, rfl, nofun⟩, ⟨awaiting [], { packet .store 0 with src := 0, dst := 1 }, rfl, by decide⟩,
   ⟨awaiting [acc 2 .store [] [] .none], { packet .store 0 with src := 0, dst := 1 }, rfl, by decide⟩, ⟨sending 8, { packet .store 0 with src := 0, dst := 1 }, [], rfl, rfl, by decide⟩,
   ⟨sending 7, _, _, rfl, rfl⟩, ⟨run, rfl⟩, ⟨run, rfl⟩,
   ⟨run, by decide⟩, ⟨{ run with fabric := { run.fabric with marks := [(1, 2)] } }, by decide⟩,
   ⟨setPort run 1 { Port.zero with st := 2 }, hop, 0, rfl, by decide, rfl⟩, ⟨run, hop, 0, rfl, by decide, by decide⟩,
   ⟨tenants, rfl, by decide⟩, ⟨setPort tenants 21 { Port.zero with lockSt := 3 }, rfl, (21, { Port.zero with lockSt := 3 }), .head _, by decide⟩⟩

/-- The two labels that differ in every bit. -/
theorem witness_pathsReach :
    (∃ src dst : Nat, src < 2 ^ 22 ∧ dst < 2 ^ 22 ∧ (path src dst 3).length = 22) ∧ path 5 5 1 = [] ∧
      path 0 0x41 1 = [(0, 6), (64, 0)] :=
  ⟨⟨0, 0x3FFFFF, by decide, by decide, by decide⟩, by decide, by decide⟩

/-- A ready node with all ports populated, firmware running, and port 21 as given. -/
def ported (p : Port) : State :=
  let s := setPort run 21 p
  { s with disc := { s.disc with ready := true, ports := 0x3FFFFF }, mgmt := { s.mgmt with st := 2 } }

theorem witness_portMoves :
    (∀ st : BitVec 2, ∀ lockSt : BitVec 2, ∀ en quiesce bound lost : Bool, ∃ s : State, s.disc.ready = true ∧ s.mgmt.st = 2 ∧
      swf s.fabric.ports 0 Port.zero = true ∧ s.disc.ports.getLsbD 21 = true ∧ (getPort s 21).st = st ∧
      (getPort s 21).lockSt = lockSt ∧ (getPort s 21).en = en ∧ (getPort s 21).quiesce = quiesce ∧
      (getPort s 21).bound = bound ∧ (getPort s 21).lost = lost) ∧
    (∃ s : State, s.disc.ready = true ∧ swf s.fabric.ports 0 Port.zero = true ∧ (getPort s 21).lockSt = 0 ∧
      (getPort s 21).en = false ∧ s.disc.ports.getLsbD 21 = false) ∧
    (∃ s : State, ∃ l : Label, (getPort s 21).lockSt = 2 ∧ l = s.fabric.label ^^^ (1 : BitVec 22) <<< 21) ∧
    (∃ s : State, (getPort s 21).st = 2 ∧ (getPort s 21).flitFails = 14) ∧
    (∃ s : State, (getPort s 21).st = 2 ∧ (getPort s 21).flitFails = 15) ∧
    ∃ s : State, (getPort s 21).st = 2 ∧ (getPort s 21).spared = true :=
  ⟨fun st l en q b lo => ⟨ported { Port.zero with st := st, lockSt := l, en := en, quiesce := q, bound := b, lost := lo, round := true },
     by decide +revert⟩,
   ⟨{ run with disc := { run.disc with ready := true, ports := 1 } }, rfl, rfl, rfl, rfl, by decide⟩,
   ⟨ported { Port.zero with lockSt := 2 }, _, rfl, rfl⟩,
   ⟨ported { Port.zero with st := 2, flitFails := 14 }, rfl, rfl⟩, ⟨ported { Port.zero with st := 2, flitFails := 15 }, rfl, rfl⟩,
   ⟨ported { Port.zero with st := 2, spared := true }, rfl, rfl⟩⟩

theorem witness_lockMoves :
    (∀ st : BitVec 2, ∀ lockSt : BitVec 2, ∃ s : State, s.disc.ready = true ∧ s.mgmt.st = 2 ∧ (getPort s 21).st = st ∧
      (getPort s 21).lockSt = lockSt) ∧
    (∃ s : State, (getPort s 21).lockSt = 1 ∧ s.mgmt.st = 2 ∧ (getPort s 21).st = 1 ∧
      (getPort s 21).peer = s.fabric.label ^^^ (1 : BitVec 22) <<< 21) ∧
    (∃ s : State, (getPort s 21).lockSt = 1 ∧ s.mgmt.st ≠ 2) ∧
    (∃ s : State, (getPort s 21).lockSt = 2 ∧ (getPort s 21).st = 2 ∧ (getPort s 21).tagsIn = 2 ∧ (getPort s 21).tagsOut = 3) ∧
    (∃ s : State, (getPort s 21).lockSt = 2 ∧ (getPort s 21).st = 2 ∧ (getPort s 21).tagsIn = 3 ∧ (getPort s 21).tagsOut = 2) ∧
    ∃ s : State, swf s.fabric.ports 0 Port.zero = true ∧ (getPort s 21).bound = false :=
  ⟨fun st l => ⟨ported { Port.zero with st := st, lockSt := l, round := true }, by decide +revert⟩,
   ⟨ported { Port.zero with st := 1, lockSt := 1, peer := 0x200000 }, rfl, rfl, rfl, by decide⟩,
   ⟨setPort run 21 { Port.zero with lockSt := 1 }, rfl, by decide⟩,
   ⟨ported { Port.zero with st := 2, lockSt := 2, tagsIn := 2, tagsOut := 3 }, rfl, rfl, rfl, rfl⟩,
   ⟨ported { Port.zero with st := 2, lockSt := 2, tagsIn := 3, tagsOut := 2 }, rfl, rfl, rfl, rfl⟩, ⟨ported Port.zero, rfl, rfl⟩⟩

/-- A first and a second transfer that may begin, under the last credit; inbound transfers of the port's job and of another. -/
theorem witness_transferMoves :
    (∀ n ∈ [0, 1], ∃ s e, (getPort s 21).bound = true ∧ (getPort s 21).lost = false ∧ (getPort s 21).st = 2 ∧
      (getPort s 21).quiesce = false ∧ (getPort s 21).credit = 1 ∧ (getPort s 21).sending = n ∧
      (getPort s 21).outq[(getPort s 21).sending]? = some e) ∧
    (∃ s : State, (getPort s 21).bound = true ∧ (getPort s 21).credit = 0) ∧
    (∃ s : State, (getPort s 21).bound = true ∧ (getPort s 21).credit = 1 ∧ (getPort s 21).outq.length = (getPort s 21).sending) ∧
    (∃ s : State, (getPort s 21).lost = true) ∧ (∃ s : State, (getPort s 21).lost = false ∧ (getPort s 21).st = 0) ∧
    (∃ (s : State) (n : BitVec 32), n ≠ (getPort s 21).rxNum ∧ n ≠ (getPort s 21).txNum ∧ (getPort s 21).st = 2 ∧
      (getPort s 21).lost = false) ∧
    (∃ s : State, ∃ e : TileEntry, (getPort s 21).st = 2 ∧ (getPort s 21).lost = false ∧ (getPort s 21).bound = true ∧
      e.job = (getPort s 21).job ∧ advertised s 21 = 1) ∧
    (∃ s : State, (getPort s 21).bound = false) ∧
    (∃ s : State, ∃ e : TileEntry, (getPort s 21).st = 2 ∧ (getPort s 21).lost = false ∧ (getPort s 21).bound = true ∧
      e.job ≠ (getPort s 21).job) ∧
    ∃ s : State, (getPort s 21).st = 2 ∧ (getPort s 21).lost = false ∧ (getPort s 21).sending ≠ 0 :=
  ⟨by
    intro n h
    simp only [List.mem_cons, List.not_mem_nil, or_false] at h
    rcases h with rfl | rfl
    · exact ⟨ported { Port.zero with st := 2, bound := true, credit := 1, outq := [tile 1, tile 2] }, _, rfl, rfl, rfl, rfl, rfl, rfl, rfl⟩
    · exact ⟨ported { Port.zero with st := 2, bound := true, credit := 1, sending := 1, outq := [tile 1, tile 2] }, _, rfl, rfl, rfl,
        rfl, rfl, rfl, rfl⟩,
   ⟨ported { Port.zero with bound := true }, rfl, rfl⟩,
   ⟨ported { Port.zero with bound := true, credit := 1, sending := 1, outq := [tile 1] }, rfl, rfl, rfl⟩,
   ⟨ported { Port.zero with lost := true }, rfl⟩, ⟨ported Port.zero, rfl, rfl⟩,
   ⟨ported { Port.zero with st := 2 }, 1, by decide, by decide, rfl, rfl⟩,
   ⟨ported { Port.zero with st := 2, bound := true, inq := [tile 1, tile 1, tile 1] }, tile 1, rfl, rfl, rfl, rfl, rfl⟩,
   ⟨ported Port.zero, rfl⟩,
   ⟨ported { Port.zero with st := 2, bound := true, job := 1 }, tile 1, rfl, rfl, rfl, by decide⟩,
   ⟨ported { Port.zero with st := 2, sending := 1, outq := [tile 1] }, rfl, rfl, by decide⟩⟩

/-- The walk of page 1 by bank 0 of core 0, which has come to `r`, and the reading of the root table. -/
def walkAt (r : Reading) (waiters : List Waiter) (stale : Bool) : Walk := ⟨0, 0, 0, 0, 1, r, 254, waiters, stale⟩
def rootRead : Reading := ⟨4, 0, 0, 0⟩

/-- `n` such walks of cluster 0, at their start. -/
def walking (n : Nat) : State :=
  setCluster (State.reset.withFetchWord 32 0) 0 { Cluster.zero with walks := List.replicate n (walkAt rootRead [] false) }

/-- A walk that has come to a table of level 1 at the start of the far tier, whose entry of page 1 is a byte leaf. -/
def leafRead : Reading := ⟨1, 0x2000000000, 0, 0⟩
def leafTable : State := { run with mem := [(2 ^ 37 + 8, 0x1B), (2 ^ 37 + 12, 0x20)] }

theorem witness_walksMove :
    (∀ n ∈ [127, 128], ∃ s, (getBank s 0 false).st ≠ .empty ∧ (getCore s 0).gated = false ∧
      ((getCore s 0).tlb ++ (getTable s 0).tlb).any (tlbHit (viewOf s 0 false) 0x2000) = false ∧
      (getCluster s 0).walks.any (fun w => w.is 0 0 (getBank s 0 false).tenant 2) = false ∧ (getCluster s 0).walks.length = n) ∧
    (∃ s w l, (getBank s 0 false).st ≠ .empty ∧ (getCore s 0).gated = false ∧
      ((getCore s 0).tlb ++ (getTable s 0).tlb).any (tlbHit (viewOf s 0 false) 0x1000) = false ∧
      (getCluster s 0).walks = w :: l ∧ w.is 0 0 (getBank s 0 false).tenant 1 = true ∧
      ∀ x ∈ l, x.is 0 0 (getBank s 0 false).tenant 1 = false) ∧
    (∃ s w, (getCluster s 0).walks[127]? = some w) ∧
    (∃ s : State, ∃ w : Walk, (viewOf s w.core (w.bank == 1)).tenant ≠ w.tenant) ∧
    (∃ s : State, ∃ w : Walk, ∃ r, (viewOf s w.core (w.bank == 1)).tenant = w.tenant ∧ (getBank s w.core (w.bank == 1)).st ≠ .empty ∧
      (getCore s w.core).gated = false ∧
      readOn s (viewOf s w.core (w.bank == 1)) (4096 * w.vpage.toNat) w.at_ = .ok (.inl r)) ∧
    (∃ s : State, ∃ w : Walk, ∃ code info a, (viewOf s w.core (w.bank == 1)).tenant = w.tenant ∧
      (getBank s w.core (w.bank == 1)).st ≠ .empty ∧ (getCore s w.core).gated = false ∧ w.waiters = [.fetch .a 7] ∧
      readOn s (viewOf s w.core (w.bank == 1)) (4096 * w.vpage.toNat) w.at_ = .error (.fault code info a)) ∧
    (∀ b ∈ [true, false], ∃ s : State, ∃ w : Walk, ∃ lev leaf psd, w.stale = b ∧ (viewOf s w.core (w.bank == 1)).tenant = w.tenant ∧
      (getBank s w.core (w.bank == 1)).st ≠ .empty ∧ (getCore s w.core).gated = false ∧ swf s.cores 0 Core.zero = true ∧
      readOn s (viewOf s w.core (w.bank == 1)) (4096 * w.vpage.toNat) w.at_ = .ok (.inr (lev, leaf, psd))) ∧
    (∃ b : Bank, b.stands (.word .x 0) = true) ∧ (∃ b : Bank, b.stands (.access 0) = false) ∧
    (∃ s w, walkAnswer s (viewNow s) (.word .a 0) 1 = some w) ∧
    (∃ s w, takeDelivery s (viewNow s) (.word .a 0) 1 = some w) ∧
    (∃ s w, takeDelivery s (viewNow s) (.word .a 0) 1 = none ∧
      ((getCluster s 0).walks.take 128).find? (fun w => w.is 0 0 0 1) = some w) ∧
    (∃ s, takeDelivery s (viewNow s) (.word .a 0) 2 = none ∧ 128 ≤ (getCluster s 0).walks.length ∧
      ((getCluster s 0).walks.take 128).find? (fun w => w.is 0 0 0 2) = none ∧ 0 < walksToMeet s (viewNow s)) ∧
    ∃ (s : State) (w : Walk), ∃ r, walkFrom s (viewNow s) (4096 * w.vpage.toNat) 5 w.at_ = .ok r :=
  ⟨by
    intro n h
    simp only [List.mem_cons, List.not_mem_nil, or_false] at h
    rcases h with rfl | rfl
    · exact ⟨walking 127, by decide, rfl, rfl, by decide, by decide⟩
    · exact ⟨walking 128, by decide, rfl, rfl, by decide, by decide⟩,
   ⟨walking 1, _, _, by decide, rfl, rfl, rfl, rfl, fun _ h => (List.not_mem_nil h).elim⟩, ⟨walking 128, _, rfl⟩,
   ⟨run, { walkAt rootRead [] false with tenant := 1 }, by decide⟩,
   ⟨tableWord 1, walkAt ⟨2, 0x2000000000, 0, 0⟩ [] false, _, rfl, by decide, rfl, rfl⟩,
   ⟨run, walkAt leafRead [.fetch .a 7] false, _, _, _, rfl, by decide, rfl, rfl, rfl⟩, by
    intro b h
    simp only [List.mem_cons, List.not_mem_nil, or_false] at h
    rcases h with rfl | rfl
    · exact ⟨leafTable, walkAt leafRead [] true, _, _, _, rfl, rfl, by decide, rfl, rfl, rfl⟩
    · exact ⟨leafTable, walkAt leafRead [] false, _, _, _, rfl, rfl, by decide, rfl, rfl, rfl⟩,
   ⟨curBank run 0, by decide⟩, ⟨curBank run 0, by decide⟩,
   ⟨setCluster leafTable 0 { Cluster.zero with walks := [walkAt leafRead [] false] }, _, rfl⟩,
   ⟨modBank run 0 false fun b => { b with walked := [⟨.word .a 0, 1, .fault .gap 0⟩] }, _, rfl⟩,
   ⟨walking 1, _, by decide, rfl⟩, ⟨walking 128, by decide, by decide, by decide, by decide⟩,
   ⟨leafTable, walkAt leafRead [] false, _, rfl⟩⟩

/-- A PSD at the start of the far tier: one plane of 8-bit elements whose frame table is at 0x1000 of that tier, and in
that table the frame at 0x4000. -/
def planes : State :=
  let s := on .a fun b => { b with xlat := { b.xlat with psdt := 0x2000000000, psdn := 1 } }
  let s := { s with disc := { s.disc with far := 0x100000000 } }
  let s := wrBytes s 0x2000000000 (bytesOf (card [(0, 0x100), (32, 0x100), (48, 1), (56, 1), (128, 2), (256, 0x20000010)]).toNat 64)
  wrBytes s 0x2000001000 (bytesOf (0x2000004000 + 3) 8)

theorem witness_storageMoves :
    (∃ d e, (getBank planes 0 false).st ≠ .empty ∧ 0 < (viewOf planes 0 false).xlat.psdn.toNat ∧ (getTable planes 0).pfc = [] ∧
      readStruct planes ((viewOf planes 0 false).xlat.psdt.toNat / 64 * 64 + 64 * 0) 64 5 = .ok d ∧ psdBad d = false ∧
      0 < psdPlanes d ∧ readStruct planes (psdFtb d 0 * 256 + 8 * 0) 8 0 = .ok e ∧
      cacheable planes e (planeWidth (psdAttr d 0)) = true) ∧
    (∃ s : State, s.disc.ready = true) ∧
    (∃ s : State, (nearMap s 1023).live.getLsbD 15 = true ∧ swf s.near 0 Near.zero = true) ∧
    ∃ s loc, loc < 2 ^ 40 ∧ backed s loc = true ∧ sectorUsers s loc = [] ∧ framesOf s [loc / 32 * 32] = [] :=
  ⟨⟨card [(0, 0x100), (32, 0x100), (48, 1), (56, 1), (128, 2), (256, 0x20000010)] |>.toNat, 0x2000004003, by decide, by decide, rfl,
     gives_of (by decide), by decide, by decide, gives_of (by decide), by decide⟩,
   ⟨tenants, rfl⟩, ⟨{ run with near := [(1023, ⟨0x8000, 0x8000⟩)] }, by decide, rfl⟩, ⟨planes, 0x2000000000, by decide, by decide, rfl, rfl⟩⟩

/-- BAR2 shows the first 4 GiB of the far tier. -/
def hosted : State := { planes with mgmt := { planes.mgmt with hostwin := 0x2000000000 } }

/-- BAR2 shows the near tier, of whose channel 0 the one bank has retired. -/
def retiring : State := { run with near := [(0, { Near.zero with ilv := 1 })] }

/-- The last 64 bytes and the last sector of the window, poisoned, retired, and where nothing is backed. -/
theorem witness_hostWindow :
    (∃ s : State, ∃ pa, pa = s.mgmt.hostwin.toNat / 2 ^ 32 % 256 * 2 ^ 32 + 0xFFFFFFC0 ∧ Memory.wf s.mem = true ∧
      ∀ i, i < 64 → backed s (pa + i) = true ∧ backed s ((pa + i) / 32 * 32) = true ∧ retired s (pa + i) = false ∧
        poisoned s (pa + i) = false ∧ retired s ((pa + i) / 32 * 32) = false ∧ poisoned s ((pa + i) / 32 * 32) = false) ∧
    (∃ s : State, ∃ pa, pa = s.mgmt.hostwin.toNat / 2 ^ 32 % 256 * 2 ^ 32 + 0xFFFFFFE0 ∧ pa % 32 + 32 ≤ 32 ∧ backed s pa = true ∧
      retired s pa = false ∧ poisoned s pa = true) ∧
    (∃ s : State, ∃ pa, pa = s.mgmt.hostwin.toNat / 2 ^ 32 % 256 * 2 ^ 32 + 0 ∧ pa % 32 + 32 ≤ 32 ∧ backed s pa = true ∧
      retired s pa = true) ∧
    (∃ s : State, ∃ pa, pa = s.mgmt.hostwin.toNat / 2 ^ 32 % 256 * 2 ^ 32 + 0xFFFFFFFF ∧ pa % 32 + 1 ≤ 32 ∧ backed s pa = false) ∧
    (∃ l : List Byte, 1 ≤ l.length ∧ l.length ≤ 64 ∧ 0xFFFFFFC0 + l.length ≤ 2 ^ 32) :=
  ⟨⟨hosted, _, rfl, rfl, by decide⟩, ⟨setPoison hosted 0x20FFFFFFE0 true, _, rfl, by decide, by decide, by decide, by decide⟩,
   ⟨retiring, _, rfl, by decide, by decide, by decide⟩, ⟨run, _, rfl, by decide, by decide⟩,
   ⟨List.replicate 64 0, by decide, by decide, by decide⟩⟩

/-- Management loads a firmware image of one byte and version 7 from the far tier. -/
def loadingImage (f : State → State) : State :=
  let s := wrBytes { hosted with mgmt := { hosted.mgmt with st := 1, img := 0x2000000000 } } 0x2000000000 (bytesOf 0x34445746 4)
  f (wrBytes s 0x2000000004 (bytesOf (0x100 + 7 * 2 ^ 32 + 2 ^ 64) 12))

/-- The device's fused hashes are those of the staged image's keys, with `m` and `n` added, and its fused SVN is `v`. -/
def fuse (s : State) (m n : BitVec 384) (v : BitVec 32) : State :=
  { s with disc := { s.disc with
    rsaHash := Config.sha384 (imageRsaKey s) + m, slhHash := Config.sha384 (imageSlhKey s) + n, minSvn := v } }

theorem fuse_same (s : State) (v : BitVec 32) : imageFormatOk (fuse s 0 0 v) = imageFormatOk s ∧
    Config.sha384 (imageRsaKey (fuse s 0 0 v)) = (fuse s 0 0 v).disc.rsaHash ∧
    Config.sha384 (imageSlhKey (fuse s 0 0 v)) = (fuse s 0 0 v).disc.slhHash ∧
    rdNum (fuse s 0 0 v) (imageAt (fuse s 0 0 v) + 8) 4 = rdNum s (imageAt s + 8) 4 ∧ (fuse s 0 0 v).disc.minSvn = v :=
  ⟨rfl, (BitVec.add_zero _).symm, (BitVec.add_zero _).symm, rfl, rfl⟩

theorem fuse_other (s : State) (v : BitVec 32) : imageFormatOk (fuse s 1 1 v) = imageFormatOk s ∧
    Config.sha384 (imageRsaKey (fuse s 1 1 v)) ≠ (fuse s 1 1 v).disc.rsaHash ∧
    Config.sha384 (imageSlhKey (fuse s 1 1 v)) ≠ (fuse s 1 1 v).disc.slhHash := by
  have other : ∀ x : BitVec 384, x ≠ x + 1 := by bv_omega
  exact ⟨rfl, other _, other _⟩

theorem loadingImage_format : imageFormatOk (loadingImage id) = true ∧ rdNum (loadingImage id) (imageAt (loadingImage id) + 8) 4 = 7 := by
  decide

theorem witness_firmware :
    (∃ s : State, s.mgmt.st = 1) ∧ (∃ s : State, s.mgmt.staged = true) ∧ (∃ s : State, s.mgmt.staged = false) ∧
    (∃ s : State, imageFormatOk s = false) ∧
    (∃ s : State, imageFormatOk s = true ∧ Config.sha384 (imageRsaKey s) ≠ s.disc.rsaHash ∧
      Config.sha384 (imageSlhKey s) ≠ s.disc.slhHash) ∧
    ∀ v : BitVec 32, ∃ s : State, imageFormatOk s = true ∧ Config.sha384 (imageRsaKey s) = s.disc.rsaHash ∧
      Config.sha384 (imageSlhKey s) = s.disc.slhHash ∧ rdNum s (imageAt s + 8) 4 = 7 ∧ s.disc.minSvn = v :=
  ⟨⟨{ run with mgmt := { run.mgmt with st := 1 } }, rfl⟩, ⟨{ run with mgmt := { run.mgmt with staged := true } }, rfl⟩, ⟨run, rfl⟩,
   ⟨run, by decide⟩,
   ⟨fuse (loadingImage id) 1 1 0, (fuse_other _ _).1.trans loadingImage_format.1, (fuse_other _ _).2.1, (fuse_other _ _).2.2⟩,
   fun v => ⟨fuse (loadingImage id) 0 0 v, (fuse_same _ _).1.trans loadingImage_format.1, (fuse_same _ _).2.1, (fuse_same _ _).2.2.1,
     (fuse_same _ _).2.2.2.1.trans loadingImage_format.2, rfl⟩⟩

theorem witness_platformMoves :
    (∃ s : State, ∃ x l, s.mbox.held = x :: l ∧ s.mbox.full = false) ∧ (∃ s : State, ∃ x l, s.mbox.held = x :: l ∧ s.mbox.full = true) ∧
    (∃ m : Mailbox, m.full = false ∧ m.held = []) ∧
    (∃ s : State, ∃ x : Block, x ≠ .readback ∧ x ≠ .power ∧ x ≠ .management ∧ s.disc.ready = false) ∧
    (∃ s : State, s.disc.ready = false ∧ s.mgmt.st = 2 ∧ s.mgmt.deferred = []) ∧ (∃ s : State, s.mgmt.st ≠ 2) :=
  ⟨⟨{ run with mbox := { run.mbox with held := [5], en := true, log2 := 4 } }, _, _, rfl, by decide⟩,
   ⟨{ run with mbox := { run.mbox with held := [5], en := true, log2 := 4, tail := 16 } }, _, _, rfl, by decide⟩,
   ⟨{ run.mbox with en := true, log2 := 4, tail := 15 }, by decide, rfl⟩, ⟨run, .shoe, by decide, by decide, by decide, rfl⟩,
   ⟨{ run with mgmt := { run.mgmt with st := 2 } }, rfl, rfl, rfl⟩, ⟨run, by decide⟩⟩

theorem witness_powerMoves :
    (∃ s : State, s.power.effective + 1 = s.power.parts * s.power.avg.toNat ∧ s.power.npkg = 2) ∧
    (∃ s : State, s.power.parts * s.power.avg.toNat * 20 < 19 * s.power.effective) ∧
    (∃ s : State, s.power.parts * s.power.avg.toNat = s.power.effective) ∧ (∃ p : Power, p.npkg = 0 ∧ p.parts = 1) ∧
    (∃ p : Power, p.reports ≠ [] ∧ ∀ r ∈ p.reports, r.1 ≠ 2) ∧ (∃ p : Power, p.gid = 0) ∧ (∃ p : Power, p.gid ≠ 0 ∧ p.cap = 100) ∧
    (∃ s : State, s.power.level = false) ∧ (∃ s : State, s.power.level = true) ∧
    (∃ s : State, s.mgmt.st = 2 ∧ s.power.gid ≠ 0 ∧ 13 < s.power.npkg.toNat - 1) ∧
    (∃ s : State, (getCore s 0).bank0.st = .empty ∧ (getCore s 0).bank1.st = .empty ∧ (getCore s 0).jobs = [] ∧
      (getCore s 0).cmds = [] ∧ (getCore s 0).session = none) ∧
    ∃ s : State, (getCore s 0).bank0.st ≠ .empty :=
  let power : (Power → Power) → State := fun f => { run with power := f run.power }
  ⟨⟨power fun p => { p with gid := 1, npkg := 2, budget := 2001, avg := 1001 }, by decide, rfl⟩, ⟨power fun p => { p with avg := 2659 }, by decide⟩,
   ⟨power fun p => { p with avg := 2800 }, by decide⟩, ⟨run.power, by decide, rfl⟩,
   ⟨{ run.power with reports := [(1, 5)] }, nofun, by decide⟩, ⟨run.power, by decide⟩, ⟨{ run.power with gid := 1, cap := 100 }, by decide, rfl⟩,
   ⟨run, rfl⟩, ⟨power fun p => { p with level := true }, rfl⟩,
   ⟨{ ported Port.zero with power := { run.power with gid := 1, npkg := 15 } }, rfl, by decide, by decide⟩,
   ⟨State.reset, rfl, rfl, rfl, rfl, rfl⟩, ⟨run, by decide⟩⟩

/-! ### Reset and invariants -/

theorem witness_stepKeepsMemory : ∃ s u, Memory.wf s.mem = true ∧ step s = .next u :=
  ⟨State.reset.withFetchWord 32 0x00A01005, _, rfl, rfl⟩

theorem witness_wordsNeverStop : ∃ i, isWord i = true := ⟨.halt, rfl⟩

theorem witness_unprivilegedWordsKeepNode :
    ∃ i s u, isWord i = true ∧ (curBank s s.core).priv = false ∧ exec i s = .next u := ⟨.aLqbind 0 0 1 2, run, _, rfl, rfl, rfl⟩

/-! ### Targets outside the text, and skipped words -/

/-- CALL, a BC that is taken and BI to the end of the text. -/
theorem witness_targetsOutside :
    (Ready (.call 16) run.engine 0 run ∧
      (curBank run 0).textEnd = ((curBank run 0).wordPc run.engine + 4 * BitVec.ofInt 64 (widened 16 18 none)).toNat) ∧
    (∃ s v, Ready (.bc 0 1 1 16) s.engine 0 s ∧ engineOf 0 = some s.engine ∧ (curBank s s.core).oqRoom .a = true ∧
      (curBank s s.core).useReg .a 1 = .ok v ∧ branchCond 1 v = true ∧
      (curBank s s.core).textEnd = ((curBank s s.core).wordPc .a + 4 * BitVec.ofInt 64 (widened 16 7 none)).toNat) ∧
    ∃ s v, Ready (.bi 0 1) s.engine 0 s ∧ engineOf 0 = some s.engine ∧ (curBank s s.core).oqRoom .a = true ∧
      (curBank s s.core).useReg .a 1 = .ok v ∧ (curBank s s.core).textEnd = 4 * v.toNat :=
  ⟨⟨ready_of rfl, rfl⟩, ⟨on .a fun b => b.wa 1 1, _, ready_of rfl, rfl, rfl, rfl, rfl, rfl⟩,
   ⟨on .a fun b => b.wa 1 16, _, ready_of rfl, rfl, rfl, rfl, rfl⟩⟩

/-- A store, words of X and M, and a shared word, each skipped by its engine. -/
theorem witness_skippedWords :
    ∀ p ∈ [(Instr.aStD 0 2 1 0 0, Engine.a), (.xVadd 0 1 4 1 2, .x), (.mMclr 0 1, .m), (.exit, .a)], ∃ w s,
      encode p.1 = some w ∧ isKx w = false ∧ (tagOf w = p.2.tag ∨ (tagOf w = 3 ∧ p.2 = s.engine)) ∧
      canIssue (getCore s s.core) (curBank s s.core) p.2 = true ∧ (curBank s s.core).skip.get p.2 = true ∧
      (curBank s s.core).slipBlocks p.2 ((curBank s s.core).pairLen p.2) = false ∧
      (curBank s s.core).tokReady p.2 (dep w) = true := by
  let all := fun e => on e fun b => { b with skip := ⟨true, true, true⟩ }
  intro p h
  simp only [List.mem_cons, List.not_mem_nil, or_false] at h
  rcases h with rfl | rfl | rfl | rfl
  · exact ⟨_, all .a, rfl, rfl, .inl rfl, rfl, rfl, rfl, rfl⟩
  · exact ⟨_, all .x, rfl, rfl, .inl rfl, rfl, rfl, rfl, rfl⟩
  · exact ⟨_, all .m, rfl, rfl, .inl rfl, rfl, rfl, rfl, rfl⟩
  · exact ⟨_, all .a, rfl, rfl, .inr ⟨rfl, rfl⟩, rfl, rfl, rfl, rfl⟩

/-! ### The array's queue -/

/-- The words that name an accumulator, on a core that is no member and on one whose accumulators end before it. -/
theorem witness_accumulatorRefused :
    ∀ i ∈ [Instr.mMdrain 0 2 16, .mMldacc 0 2 0, .mMmul 0 2 0 8 0, .mMmulk 0 2 0 8 0],
      (Ready i .m 0 runM ∧ ¬MayUse (curBank runM 0) 2) ∧ Ready i .m 0 (array [] id) ∧ ¬MayUse (curBank (array [] id) 0) 2 := by
  intro i h
  simp only [List.mem_cons, List.not_mem_nil, or_false] at h
  rcases h with rfl | rfl | rfl | rfl <;>
    exact ⟨⟨ready_of rfl, fun h => absurd h.1 (by decide)⟩, ready_of rfl, fun h => absurd h.2 (by decide)⟩

/-- Bank 1 of core 0 runs, with `n` commands of its own behind one of bank 0. -/
def second (n : Nat) : State :=
  modCore (array [cmd (.mMfence 0)] id) 0 fun k => { k with
    active := true
    cmds1 := List.replicate n (cmd (.mMfence 0))
    bank1 := { k.bank1 with st := .running, kern := some (bareKernel 0 16) } }

/-- Fences of both banks, with room for one more; the head of the two queues; bank 1's behind a stopped bank 0. -/
theorem witness_bothQueues :
    (∃ s, Ready (.mMfence 0) .m 0 s ∧ (getCore s s.core).active = true ∧ (getCore s s.core).queued = 15) ∧
    (∃ k : Core, ∃ m l, k.cmds = m :: l ∧ k.bank0.still = false ∧ k.cmds1 ≠ [] ∧ ∀ j ∈ k.inQueue, m.id ≤ j.id) ∧
    (∀ i ∈ [Instr.mMrmode 0 1 1, .mMfence 0, .mMrels 0], ∃ s m l, swf s.cores 0 Core.zero = true ∧ (getCore s 0).head false = some m ∧
      (getCore s 0).cmds = m :: l ∧ (getCore s 0).cmds1 = [] ∧ m.op = (cmd i).op) ∧
    (∃ s m l, (getCore s 0).head false = some m ∧ (getCore s 0).cmds = m :: l ∧ m.finished = true) ∧
    ∃ s m l, (getCore s 0).cmds1 = m :: l ∧ (getCore s 0).cmds ≠ [] ∧ (getCore s 0).bank0.still = true ∧
      (getCore s 0).bank1.still = false ∧ (∀ j ∈ l, m.id ≤ j.id) ∧ m.op = 0x35 :=
  ⟨⟨second 14, ready_of rfl, rfl, rfl⟩, ⟨getCore (second 1) 0, _, _, rfl, rfl, nofun, by decide⟩, by
    intro i h
    simp only [List.mem_cons, List.not_mem_nil, or_false] at h
    rcases h with rfl | rfl | rfl <;> exact ⟨array [cmd _] id, _, _, rfl, rfl, rfl, rfl, rfl⟩,
   ⟨array [(cmd (.mMclr 0 1)).end_] id, _, _, rfl, rfl, rfl⟩,
   ⟨modCore (second 1) 0 fun k => { k with bank0 := { k.bank0 with st := .stopped } }, _, _, rfl, nofun, rfl, rfl,
     fun _ h => (List.not_mem_nil h).elim, rfl⟩⟩

/-- Drains behind an earlier one that has not yet pushed into their queue: one that could begin, one at its last row and one that
has taken all its rows; and the last without that one. -/
theorem witness_drainsInOrder :
    (∃ s m, getCmd s 0 1 = some m ∧ m.op = 0x32 ∧ m.stale = [] ∧ laterPush ((getCore s 0).cmds.take 1) m = true ∧
      mayStart s 0 1 m = true ∧ m.want s (tableOf 0) = .go) ∧
    (∀ n ∈ [(1 : BitVec 8), 2], ∃ s m x, getCmd s 0 1 = some m ∧ m.op = 0x32 ∧ m.stale = [] ∧
      laterPush ((getCore s 0).cmds.take 1) m = true ∧ m.running = true ∧ arrayRuns s 0 1 = true ∧ m.ea = some x ∧ m.gnext = n ∧
      m.shapeM = 2) ∧
    ∃ s m x, getCmd s 0 0 = some m ∧ m.op = 0x32 ∧ m.stale = [] ∧ laterPush ((getCore s 0).cmds.take 0) m = false ∧
      m.running = true ∧ arrayRuns s 0 0 = true ∧ m.ea = some x ∧ m.gnext = 2 ∧ m.shapeM = 2 :=
  let drain := fun (a : BitVec 3) => cmd (.mMdrain 0 a 16)
  let begun := fun (a : BitVec 3) (n : BitVec 8) => { drain a with begun := true, gnext := n, ea := some (tile 3) }
  ⟨⟨array [begun 0 0, drain 1] id, _, rfl, by decide, by decide, by decide, by decide, by decide⟩, by
    intro n h
    simp only [List.mem_cons, List.not_mem_nil, or_false] at h
    rcases h with rfl | rfl
    · exact ⟨array [begun 0 0, begun 1 1] id, _, _, rfl, by decide, rfl, by decide, rfl, rfl, rfl, rfl, rfl⟩
    · exact ⟨array [begun 0 0, begun 1 2] id, _, _, rfl, by decide, rfl, by decide, rfl, rfl, rfl, rfl, rfl⟩,
   ⟨array [begun 1 2] id, _, _, rfl, by decide, rfl, by decide, rfl, rfl, rfl, rfl, rfl⟩⟩

/-! ### What loads deliver, and where addresses lie -/

/-- A load into DQ0; the last place of an LDV and of a GATH. -/
theorem witness_loadsDeliver :
    (∃ s x p sg, MayGo s 0 0 0 x ∧ x.op = .load sg ∧ x.places = [p] ∧ (∀ l o, p.tgt ≠ .node l o) ∧ x.todo = [0] ∧ x.got = [] ∧
      x.dest = .queue 0 1 ∧ x.pops = [] ∧ p.bits = 32 ∧ Canonical s ∧
      swf (getBank s 0 false).issue.queues 0 ([] : List QEntry) = true) ∧
    (∃ s x p, MayGo s 0 0 0 x ∧ x.remote = false ∧ x.op = .loadVec ∧ 256 * x.places.length = 4096 ∧
      (∀ r ∈ x.places, r.bits = 256) ∧ x.todo = [15] ∧ x.places[15]? = some p ∧ x.dest = .queue 0 1 ∧ 0 ∉ x.pops ∧ Canonical s ∧
      swf x.got 0 (0 : Nat) = true ∧ swf (getBank s 0 false).issue.queues 0 ([] : List QEntry) = true) ∧
    ∃ s x p, MayGo s 0 0 0 x ∧ x.remote = false ∧ x.op = .gather ∧ x.places.length = 128 ∧ x.todo = [127] ∧
      x.places[127]? = some p ∧ x.dest = .queue 0 1 ∧ 0 ∉ x.pops ∧ Canonical s ∧ swf x.got 0 (0 : Nat) = true ∧
      swf (getBank s 0 false).issue.queues 0 ([] : List QEntry) = true :=
  let q := fun b : Bank => b.setQueue 0 [⟨true, 0, false, 1⟩]
  ⟨⟨flight [acc 1 (.load true) [⟨.mem 64 0, 32, 32⟩] [0] (.queue 0 1)] q, _, _, _, mayGo_of rfl (by decide), rfl, rfl, nofun, rfl, rfl,
     rfl, rfl, rfl, ⟨rfl, rfl, rfl, rfl⟩, rfl⟩,
   ⟨flight [{ acc 1 .loadVec (tab (fun i => ⟨.mem (64 + 32 * i) 0, 256, 256⟩) 0 16) [15] (.queue 0 1) with got := [(0, 7)] }] q, _, _,
     mayGo_of rfl (by decide), rfl, rfl, rfl, by decide, rfl, rfl, rfl, by decide, ⟨rfl, rfl, rfl, rfl⟩, rfl, rfl⟩,
   ⟨flight [{ acc 1 .gather (tab (fun i => ⟨.mem (64 + 8 * i) 0, 32, 32⟩) 0 128) [127] (.queue 0 1) with pops := [5] }]
      fun b => (q b).setQueue 5 [vec 1], _, _, mayGo_of rfl (by decide), rfl, rfl, rfl, rfl, rfl, rfl, by decide,
     ⟨rfl, rfl, rfl, rfl⟩, rfl, rfl⟩⟩

/-- The region of a base, whose page is found; lanes on this node; an LDV at the end of the scratchpad. -/
theorem witness_lanesAndSectors :
    (∀ b ∈ [true, false], ∃ s x, regionOf s (viewNow s) x = .ok b) ∧
    (∃ s x va r, globalVa s (viewNow s) x = some va ∧ walk s (viewNow s) va = .ok r ∧ r.leaf.testBit 2 = true) ∧
    (∃ s x a, isRemote s x = false ∧ laneAddrs s (viewNow s) x 0 0 [5] = .ok a) ∧
    ∃ s x, aperture x = .spad ∧ x.toNat % 32 = 0 ∧ x.toNat / 2 ^ 38 % 2 ^ 10 = (viewNow s).core ∧
      x.toNat % 2 ^ 19 + 512 = 0x80000 ∧
      spadBanks (x.toNat % 2 ^ 19) 512 (fun b => bit (spadMask s (viewNow s).core (viewNow s).bank) b) = true ∧
      ∀ i, i < 16 → placeFault s true false ⟨.mem (spadLoc (viewNow s).core (x.toNat % 2 ^ 19 + 32 * i)) 0, 256, 256⟩ = none := by
  refine ⟨?_, ⟨positions, 0, 0, _, rfl, rfl, by decide⟩, ⟨run, own, _, rfl, rfl⟩, ⟨run, own + 0x7FE00, rfl, by decide, rfl, by decide, rfl, by decide⟩⟩
  intro b h
  simp only [List.mem_cons, List.not_mem_nil, or_false] at h
  rcases h with rfl | rfl
  · exact ⟨positions, 0, rfl⟩
  · exact ⟨run, own, rfl⟩

/-- `run` where the scratchpad banks of core 5 are tenant 0's and core 0 has none. -/
def shared : State :=
  modCore (modCore run 0 fun k => { k with spmask := 0, spadOwner := [(0, some 0)] }) 5 fun k => { k with spadOwner := [(15, some 0)] }

/-- CLUS past the scratchpad, of another owner, of the context's own core outside its banks, and of another core of the cluster; the
last bytes of each. -/
theorem witness_clusterAddresses :
    (∃ x : Word, aperture x = .clus ∧ x.toNat % alignOf 512 = 0 ∧ 0x80000 < x.toNat % 2 ^ 19 + 512) ∧
    (∃ s x, aperture x = .clus ∧ x.toNat % alignOf 8 = 0 ∧ x.toNat % 2 ^ 19 + 8 ≤ 0x80000 ∧
      spadBanks (x.toNat % 2 ^ 19) 8 (fun b => sget (getCore s (x.toNat / 2 ^ 40 % 2 ^ 6)).spadOwner b none ==
        some (viewNow s).tenant) = false) ∧
    (∃ s x, aperture x = .clus ∧ x.toNat / 2 ^ 40 % 2 ^ 6 = (viewNow s).core ∧
      spadBanks (x.toNat % 2 ^ 19) 8 (fun b => bit (spadMask s (viewNow s).core (viewNow s).bank) b) = false) ∧
    (∃ s x, aperture x = .clus ∧ x.toNat / 2 ^ 40 % 2 ^ 6 = 5 ∧ x.toNat % 2 ^ 19 + 8 = 0x80000 ∧ (viewNow s).core = 0 ∧
      spadBanks (x.toNat % 2 ^ 19) 8 (fun b => sget (getCore s 5).spadOwner b none == some (viewNow s).tenant) = true) ∧
    ∃ x : Word, (aperture x = .spad ∨ aperture x = .clus ∨ aperture x = .chip) ∧ x.toNat % alignOf 8 = 0 :=
  ⟨⟨0x820005000007FFE0, rfl, rfl, by decide⟩, ⟨shared, 0x8200040000000000, rfl, rfl, by decide, rfl⟩,
   ⟨shared, 0x8200000000000000, rfl, rfl, rfl⟩, ⟨shared, 0x820005000007FFF8, rfl, rfl, rfl, rfl, rfl⟩, ⟨own, .inl rfl, rfl⟩⟩

/-- CHIP at and past the end of the vector registers and past the banked kinds; with no grant, as a privileged view, and granted. -/
theorem witness_chipAddresses :
    (∃ x : Word, aperture x = .chip ∧ x.toNat % alignOf 512 = 0 ∧ x.toNat / 2 ^ 35 % 8 = 1 ∧ x.toNat % 2 ^ 34 + 512 = 0x6400) ∧
    (∃ x : Word, aperture x = .chip ∧ x.toNat % alignOf 512 = 0 ∧ x.toNat / 2 ^ 35 % 8 = 1 ∧ 0x6400 < x.toNat % 2 ^ 34 + 512) ∧
    (∃ x : Word, aperture x = .chip ∧ x.toNat / 2 ^ 35 % 8 = 3 ∧ x.toNat.testBit 34 = true) ∧
    (∃ s x, aperture x = .chip ∧ (viewNow s).priv = false ∧ (viewNow s).grant.getLsbD (x.toNat / 2 ^ 35 % 8) = false) ∧
    (∃ s : State, (viewNow s).priv = true) ∧
    ∃ s x, aperture x = .chip ∧ (viewNow s).grant.getLsbD 2 = true ∧ (viewNow s).grant.getLsbD 8 = true ∧
      x.toNat / 2 ^ 35 % 8 = 2 ∧ x.toNat / 2 ^ 38 % 2 ^ 10 / 64 = (viewNow s).core / 64 ∧
      ((getCore s 0).bank (chipBank (getCore s 0) 2 (x.toNat % 2 ^ 35))).st ≠ .empty ∧
      ((getCore s 0).bank (chipBank (getCore s 0) 2 (x.toNat % 2 ^ 35))).tenant = (viewNow s).tenant :=
  ⟨⟨0x8300000800006200, rfl, rfl, rfl, rfl⟩, ⟨0x8300000800006220, rfl, rfl, rfl, by decide⟩, ⟨0x8300001C00000000, rfl, rfl, by decide⟩,
   ⟨run, 0x8300000000000000, rfl, rfl, by decide⟩, ⟨on .a fun b => { b with priv := true }, rfl⟩,
   ⟨on .a fun b => { b with chipGrant := 0x3FF }, 0x8300001000000000, rfl, by decide, by decide, rfl, rfl, by decide, rfl⟩⟩

/-- `tenants` with a window of `n` bytes. -/
def windowed (n : Word) : State := { tenants with fabric := { tenants.fabric with winSize := n } }

/-- NODE: another label; this node's at the end of the window, across it, and where the page tables stop. -/
theorem witness_nodeAddresses :
    (∃ s : State, ∃ x, aperture x = .node ∧ x.toNat / 2 ^ 40 % 2 ^ 22 ≠ s.fabric.label.toNat) ∧
    (∃ s : State, ∃ x, aperture x = .node ∧ x.toNat / 2 ^ 40 % 2 ^ 22 = s.fabric.label.toNat ∧ s.fabric.winSize.toNat = x.toNat % 2 ^ 40) ∧
    (∃ s : State, ∃ x e, aperture x = .node ∧ x.toNat / 2 ^ 40 % 2 ^ 22 = s.fabric.label.toNat ∧ x.toNat % 2 ^ 40 < s.fabric.winSize.toNat ∧
      translate s (viewNow s) ((s.fabric.winBase.toNat + x.toNat % 2 ^ 40) % 2 ^ 48) 0 32 true false false = .error e) ∧
    (∀ n ∈ [(0x1000 : Word), 0xFF0], ∃ s : State, ∃ x f, aperture x = .node ∧ x.toNat / 2 ^ 40 % 2 ^ 22 = s.fabric.label.toNat ∧
      x.toNat % 2 ^ 40 < s.fabric.winSize.toNat ∧ s.fabric.winSize = n ∧
      translate s (viewNow s) ((s.fabric.winBase.toNat + x.toNat % 2 ^ 40) % 2 ^ 48) 0 32 true false false = .ok f ∧
      x.toNat % 2 ^ 40 + f.past = 0x1000) := by
  refine ⟨⟨run, afar, rfl, by decide⟩, ⟨windowed 0x1000, 0xC000000000001000, rfl, rfl, rfl⟩,
    ⟨{ run with fabric := { run.fabric with winSize := 0x1000 } }, 0xC000000000000FE0, _, rfl, rfl, by decide, rfl⟩, ?_⟩
  intro n h
  simp only [List.mem_cons, List.not_mem_nil, or_false] at h
  rcases h with rfl | rfl
  · exact ⟨windowed 0x1000, 0xC000000000000FE0, _, rfl, rfl, by decide, rfl, rfl, rfl⟩
  · exact ⟨windowed 0xFF0, 0xC000000000000FE0, _, rfl, rfl, by decide, rfl, rfl, rfl⟩

/-- The running context has one PSD, and page tables at the start of the far tier. -/
def onePsd (s : State) : State :=
  modCur s 0 fun b => { b with xlat := { b.xlat with root := 0x2000000000, psdt := 0x2000001000, psdn := 1 } }

/-- A position leaf, beyond PSDN and below it; the PSD that it names, good and bad. -/
theorem witness_readings :
    (∃ s e, readStruct s (2 ^ 37 + 8 * (0 / 2 ^ leafShift 2 % 512)) 8 2 = .ok e ∧ e.testBit 0 = true ∧ entryBad 2 e = false ∧
      e.testBit 1 = true ∧ e.testBit 2 = true ∧ (viewNow s).xlat.psdn.toNat = e / 2 ^ 48 % 2 ^ 16) ∧
    (∃ s e, readStruct s (2 ^ 37 + 8 * (0 / 2 ^ leafShift 2 % 512)) 8 2 = .ok e ∧ e.testBit 0 = true ∧ entryBad 2 e = false ∧
      e.testBit 1 = true ∧ e.testBit 2 = true ∧ e / 2 ^ 48 % 2 ^ 16 + 1 = (viewNow s).xlat.psdn.toNat) ∧
    (∃ s e, readStruct s ((viewNow s).xlat.root.toNat / 4096 * 4096 + 8 * (0 / 2 ^ leafShift 4 % 512)) 8 4 = .ok e ∧
      e.testBit 0 = true ∧ entryBad 4 e = false) ∧
    ∀ b ∈ [true, false], ∃ s d, readStruct s ((viewNow s).xlat.psdt.toNat / 64 * 64 + 64 * 0) 64 5 = .ok d ∧ psdBad d = b := by
  refine ⟨⟨tableWord 7, 7, rfl, by decide, rfl, by decide, by decide, rfl⟩,
    ⟨onePsd (tableWord 7), 7, gives_of (by decide), by decide, rfl, by decide, by decide, rfl⟩, ⟨onePsd (tableWord 1), 1, gives_of (by decide), by decide, rfl⟩, ?_⟩
  intro b h
  simp only [List.mem_cons, List.not_mem_nil, or_false] at h
  rcases h with rfl | rfl
  · exact ⟨onePsd run, 0, gives_of (by decide), rfl⟩
  · exact ⟨planes, card [(0, 0x100), (32, 0x100), (48, 1), (56, 1), (128, 2), (256, 0x20000010)] |>.toNat, gives_of (by decide), by decide⟩

/-! ### Tempo -/

/-- A miss that is the last one a strict session takes; one of a session that is cut, killed or neither; and a boundary of a killed
session that still raises. -/
theorem witness_tempoMisses :
    (∃ s, ∃ z : Session, z.strict = true ∧ ((tempoOf s 0 z).consec + 1).toNat = z.maxMiss ∧ (tempoOf s 0 z).consec ≠ 255 ∧
      (getBank s 0 false).ctx = z.ctx) ∧
    (∀ abt ∈ [true, false], ∃ z : Session, z.strict = false ∧ z.cut = some abt) ∧
    (∃ z : Session, z.strict = false ∧ z.cut = none ∧ z.kill = true) ∧
    (∃ z : Session, z.strict = false ∧ z.cut = none ∧ z.kill = false) ∧
    (∃ s z m, tempoNow s 0 = some (z, m) ∧ z.phase = .raising ∧ tempoEnds s 0 = true ∧ z.kill = true ∧
      (getCore s 0).heldEvents.length < 16) ∧
    Ready (.mTstat 0 1 5) .m 0 runM ∧ (curBank runM 0).tempo.lookd.toNat = 0 :=
  let z := newSession (tempoRegs Bank.zero) none
  ⟨⟨run, par 7 0x101 z, by decide, by decide, by decide, by decide⟩, fun abt _ => ⟨{ z with cut := some abt }, rfl, rfl⟩,
   ⟨{ z with kill := true }, rfl, rfl, rfl⟩, ⟨z, rfl, rfl, rfl⟩,
   ⟨session .raising 1 fun z => { z with kill := true }, _, _, rfl, rfl, rfl, rfl, by decide⟩, ready_of rfl, rfl⟩

/-! ### Late answers, jobs, replicas and packets -/

/-- An ABORT after the bank's latest service fault was answered, in a context that has had none, and in a bank that never had one. -/
theorem witness_lateAnswers :
    (∀ p ∈ [true, false], ∃ s : State, s.disc.ready = true ∧ (getBank s 0 false).st = .running ∧ (getBank s 0 false).svcSeen = false ∧
      (getBank s 0 false).svcPast = p) ∧
    ∃ s : State, (getBank s 0 true).st = .stopped ∧ (getBank s 0 true).svcPend = true ∧ (getBank s 0 true).svcRec ≠ none :=
  ⟨fun p _ => ⟨banked false fun b => { b with st := .running, svcPast := p }, rfl, rfl, rfl, rfl⟩,
   ⟨banked true fun b => { b with st := .stopped, svcPend := true, svcRec := some recorded }, rfl, rfl, nofun⟩⟩

/-- A copy that reads its elements, and one that writes them. -/
theorem witness_copySteps :
    (∃ s j u, getJob s 0 0 = some j ∧ j.kind = .copy ∧ j.phase = .accepted ∧ mayBegin s 0 j (cardSuit j.card) = true ∧
      channelTurn s 0 j = true ∧ beginCopy s 0 j = .ok u) ∧
    ∃ s j r, getJob s 0 0 = some j ∧ j.kind = .copy ∧ j.phase = .reading ∧ j.sent = [] ∧ j.unsent = [] ∧ cardDc j.card = false ∧
      (∀ p ∈ j.dst, accBusy s p = false) ∧ writeCopy s 0 j = .ok r :=
  ⟨⟨oneJob (jobIn .copy (copyCard 1) .accepted), jobIn .copy (copyCard 1) .accepted, _, rfl, rfl, rfl, rfl, rfl, rfl⟩,
   ⟨oneJob { jobIn .copy (copyCard 1) .reading with dst := [⟨.mem 64 0, 8, 8⟩] }, { jobIn .copy (copyCard 1) .reading with dst := [⟨.mem 64 0, 8, 8⟩] },
     _, rfl, rfl, rfl, rfl, rfl, by decide, by
      intro p h
      rw [List.eq_of_mem_singleton h]
      rfl, rfl⟩⟩

/-- The answer to replica 0 of queue 3: an old one, a full queue, an error, and the last delivery. -/
theorem witness_replicaAnswers :
    (∃ s : State, ∃ p : Packet, p.op = 3 ∧ (getLq s 3).dies ≠ 0 ∧ (getLq s 3).flight ≠ some (p.dst, p.num)) ∧
    (∀ c ∈ [(0 : BitVec 8), 1], ∃ s : State, ∃ p : Packet, ∃ f : FaultRec, p.op = 3 ∧ (getLq s 3).dies ≠ 0 ∧
      (getLq s 3).flight = some (p.dst, p.num) ∧ f.code = c) ∧
    (∃ s : State, ∃ p : Packet, p.op = 3 ∧ (getLq s 3).dies ≠ 0 ∧ (getLq s 3).flight = some (p.dst, p.num) ∧
      (getLq s 3).sent = (getLq s 3).dies ∧ (getLq s 3).banksBad = false ∧ (getLq s 3).copy ≠ none ∧
      swf s.shoe.lq 0 LaunchQueue.zero = true) ∧
    ∃ l : LaunchQueue, l.en = true ∧ (2 - l.head).toNat = 2 ^ l.log2.toNat ∧ 1 ∈ l.replicasBefore 2 :=
  let s := queued fun l => { l with tail := 1, copy := some (record 1), dies := 1, sent := 1, flight := some (1, 0) }
  let p : Packet := { packet .replica 0 with op := 3, dst := 1 }
  ⟨⟨s, { p with num := 9 }, rfl, by decide, by decide⟩, fun c _ => ⟨s, p, ⟨c, 0, 0, 0, 0, 0, 0⟩, rfl, by decide, by decide, rfl⟩,
   ⟨s, p, rfl, by decide, by decide, rfl, rfl, by decide, rfl⟩,
   ⟨getLq (queued fun l => { l with tail := 2, replicaSlots := [1] }) 3, by decide, by decide, by decide⟩⟩

/-- A response is no request; a request of no lane whose tenant has no record here. -/
theorem witness_responses :
    (∃ p : Packet, p.resp ≠ none) ∧ (∃ s : State, ∃ p : Packet, p.dst = s.fabric.label ∧ p.resp = none) ∧
    ∃ s : State, ∃ p : Packet, p.kind ≠ .replica ∧ p.lane = false ∧ requestView s p = none :=
  ⟨⟨{ packet .store 0 with resp := some (.data [] false) }, nofun⟩, ⟨run, packet .store 0, rfl, rfl⟩, ⟨run, packet .store 0, by decide, rfl, rfl⟩⟩

/-! ### The CHIP aperture and the snapshot window -/

/-- The register windows' state at the ends of their ranges: accumulators held and not held; the held tile set, not set and past its
end. -/
theorem witness_chipWindows :
    (∃ x : Bank, ∃ r : Nat, r = 31 ∧ swf x.a 0 (0 : Word) = true ∧ swf x.s 0 (0 : Word) = true ∧ swf x.m 0 (0 : Word) = true) ∧
    (∃ s : State, swf (getBank s 0 true).v 0 (0 : Vec) = true ∧ swf (getBank s 0 true).k 0 (0 : Mask) = true) ∧
    (∀ n ∈ [(0 : BitVec 4), 8], ∃ s : State, swf s.cores 0 Core.zero = true ∧ swf (getCore s 0).accs 0 (0 : BitVec 32) = true ∧
      (getCore s 0).granted = n) ∧
    (∃ s : State, swf s.cores 0 Core.zero = true ∧ (getCore s 0).bank0.mat.held = false) ∧
    (∃ s : State, (getCore s 0).bank0.mat.held = true ∧ containerSize (getCore s 0).bank0.mat.heldFmt = 0x2220) ∧
    ∃ s e, swf s.cores 0 Core.zero = true ∧ (getCore s 0).bank0.mat.held = true ∧
      0x7FF8 < containerSize (getCore s 0).bank0.mat.heldFmt ∧ (getCore s 0).heldTile = some e ∧ swf e.bytes 0 (0 : Byte) = true :=
  let hold := fun (f : BitVec 4) => modCore run 0 fun k =>
    { k with bank0 := { k.bank0 with mat := { k.bank0.mat with held := true, heldFmt := f } }, heldTile := some (tile f) }
  ⟨⟨curBank run 0, 31, rfl, rfl, rfl, rfl⟩, ⟨run, rfl, rfl⟩, fun n _ => ⟨modCore run 0 fun k => { k with granted := n }, rfl, rfl, rfl⟩,
   ⟨run, rfl, rfl⟩, ⟨hold 5, rfl, rfl⟩, ⟨hold 1, _, rfl, rfl, by decide, rfl, rfl⟩⟩

/-- A write of a running bank, and of an empty one beside its header; the header of an empty bank; a stopped and a restoring bank with
SHSEL 0, and with SHSEL 1 outside a handler; offsets at both ends of each part, written nowhere before. -/
theorem witness_snapshotWindow :
    (∃ k : Core, k.bank0.st ≠ .stopped ∧ k.bank0.st ≠ .restoring ∧ k.bank0.st ≠ .empty) ∧
    (∃ s : State, swf s.cores 0 Core.zero = true ∧ (getBank s 0 true).st = .empty ∧ ∀ p ∈ (getBank s 0 true).staged, p.1 ≠ 0) ∧
    (∀ st ∈ [BankState.stopped, .restoring], ∀ b ∈ [true, false], ∃ s : State, swf s.cores 0 Core.zero = true ∧ (getBank s 0 false).st = st ∧
      (∀ e, swf ((getBank s 0 false).issue.loops.get e) 0 LoopState.zero = true) ∧ (getBank s 0 false).shsel = b ∧
      (getBank s 0 false).trapActive = false ∧ (getBank s 0 false).staged = []) ∧
    snapSelected 0x100 = true ∧ snapSelected 0xDF8 = true ∧ snapMask 0x400 ≠ 0 ∧ snapMask 0x7F8 = 0 :=
  ⟨⟨getCore run 0, by decide, by decide, by decide⟩, ⟨run, rfl, rfl, fun _ h => (List.not_mem_nil h).elim⟩,
   fun st _ b _ => ⟨banked false fun x => { x with st := st, shsel := b }, by cases st <;> cases b <;> rfl, by cases st <;> cases b <;> rfl,
     fun e => by cases st <;> cases b <;> cases e <;> rfl, by cases st <;> cases b <;> rfl, by cases st <;> cases b <;> rfl,
     by cases st <;> cases b <;> rfl⟩, by decide, by decide, by decide, by decide⟩

/-! ### Walks that find no walker, lanes on several nodes, and their packets -/

/-- `walking 128` whose context has a1 at 0x2000, a page that none of the walks is of. -/
def walkersFull : State := modCur (walking 128) 0 fun b => b.wa 1 0x2000

/-- A load and a store of a page whose walk finds no walker free. -/
theorem witness_walkersFull :
    (∃ r ∈ loadRows, ∃ s v b1, Ready (r.1 0 7 1 0 0) .a 0 s ∧ (curBank s s.core).useA 1 = .ok v ∧
      takeDest (curBank s s.core) false (loadDest 7 s.seq) = .ok b1 ∧
      locateAll s (viewNow s) 0 0 r.2.1 true false false false [v + displacement r.2.1 ((curBank s s.core).kxOf .a)] = .error (.walk 2) ∧
      walkAnswer s (viewNow s) (thisWord s .a) 2 = none) ∧
    ∃ r ∈ storeRows, ∃ s v w pops, Ready (r.1 0 2 1 0 0) .a 0 s ∧ (curBank s s.core).useA 1 = .ok v ∧
      (curBank s s.core).getASq 2 = .ok (w, pops) ∧
      locateAll s (viewNow s) 0 0 r.2 false true false false [v + displacement r.2 ((curBank s s.core).kxOf .a)] = .error (.walk 2) ∧
      walkAnswer s (viewNow s) (thisWord s .a) 2 = none :=
  ⟨⟨_, .head _, walkersFull, _, _, ready_of rfl, rfl, rfl, rfl, by decide⟩,
   ⟨_, .head _, walkersFull, _, _, _, ready_of rfl, rfl, rfl, rfl, by decide⟩⟩

/-- A base on another node whose lanes stay below the end of its label, and one of whose lanes passes it; a base on this node with a
lane on each side of the end of its label. -/
theorem witness_lanesOverNodes :
    (∃ s x, isRemote s x = true ∧ ∀ i ∈ [0, 5], x.toNat % 2 ^ 40 + 4 * i < 2 ^ 40) ∧
    (∃ s x, isRemote s x = true ∧ x.toNat % 2 ^ 40 + 4 * 1 = 2 ^ 40) ∧
    ∃ s x a, isRemote s x = false ∧ laneAddrs s (viewNow s) x 0 0 [0, 4] = .ok a ∧ (∃ z ∈ a, isRemote s z = true) ∧
      ∃ z ∈ a, isRemote s z = false :=
  ⟨⟨run, afar, rfl, by decide⟩, ⟨run, afar + 0xFFFFFFFFFC, by decide, by decide⟩,
   ⟨served, 0xC00000FFFFFFFFF0, [0xC00000FFFFFFFFF0, 0xC000010000000000], by decide, gives_of (by decide), ⟨0xC000010000000000, by simp, by decide⟩,
     ⟨0xC00000FFFFFFFFF0, .head _, by decide⟩⟩⟩

/-- A GATH of one lane on another node that is to be found. -/
def finding (wr : Bool) (r : SMap Response) : Access :=
  { acc 1 (.find wr []) [nodePlace afar 32] [0] .none with resps := r }

/-- Lanes to be found: the node has answered with the lane's address, with the address of a lane here, and with a fault. -/
theorem witness_lanesFound :
    (∀ wr ∈ [true, false], ∃ s x y cl, MayGo s 0 0 0 x ∧ x.op = .find wr [] ∧ x.sent = [] ∧ Canonical s ∧
      findLanes s (viewOf s 0 false) x wr [] = .ok (y, cl) ∧ y.finding = false) ∧
    ∃ s x code a p u i, MayGo s 0 0 0 x ∧ x.op = .find true [] ∧ x.sent = [] ∧ Canonical s ∧
      findLanes s (viewOf s 0 false) x true [] = .error (.fault code a p u i) ∧ (getBank s 0 false).lastIssued x = true := by
  refine ⟨fun wr h => ?_, ?_⟩
  · simp only [List.mem_cons, List.not_mem_nil, or_false] at h
    rcases h with rfl | rfl
    · exact ⟨flight [finding true [(0, .data (bytesOf afar.toNat 8) false)]] id, _, _, _, mayGo_of rfl (by decide), rfl, rfl,
        ⟨rfl, rfl, rfl, rfl⟩, rfl, rfl⟩
    · exact ⟨flight [finding false [(0, .data (bytesOf own.toNat 8) false)]] id, _, _, _, mayGo_of rfl (by decide), rfl, rfl,
        ⟨rfl, rfl, rfl, rfl⟩, rfl, rfl⟩
  · exact ⟨flight [finding true [(0, .fault recorded)]] id, _, _, _, _, _, _, mayGo_of rfl (by decide), rfl, rfl,
      ⟨rfl, rfl, rfl, rfl⟩, rfl, by decide⟩

/-- A request that asks where the lane of index `i` lies. -/
def ask (off : BitVec 40) (i : BitVec 64) : Packet := { packet .load 0 with lane := true, op := 0x4E, size := 4, off := off, opnd := i }

/-- Such requests: past this node's label, in its window, and past the window. -/
theorem witness_lanesAsked :
    (∃ s p v, p = ask 0x40 0x4000000000 ∧ requestView s p = some v ∧ (isRemote s (packetAddr s v p) = true ∨ aperture (packetAddr s v p) ≠ .node)) ∧
    (∃ s p v f, p = ask 0xFF8 1 ∧ requestView s p = some v ∧ aperture (packetAddr s v p) = .node ∧ isRemote s (packetAddr s v p) = false ∧
      locate s v s.seq (packetAddr s v p) p.plane p.suit p.size (p.op != 0x4F) (p.op == 0x4F) true = .ok f) ∧
    ∃ s p v code a pl u i, p = ask 0xFFC 1 ∧ requestView s p = some v ∧ aperture (packetAddr s v p) = .node ∧
      isRemote s (packetAddr s v p) = false ∧
      locate s v s.seq (packetAddr s v p) p.plane p.suit p.size (p.op != 0x4F) (p.op == 0x4F) true = .error (.fault code a pl u i) :=
  ⟨⟨served, _, _, rfl, rfl, .inl rfl⟩, ⟨served, _, _, _, rfl, rfl, by decide, by decide, rfl⟩,
   ⟨served, _, _, _, _, _, _, _, rfl, rfl, by decide, by decide, rfl⟩⟩

/-! ### A deal of the shoe's slots, sessions after their context, walks that jobs join -/

/-- Queue 3 of two slots while an A.LAUNCH holds one: a TAIL write that leaves it a slot, and one that does not. -/
theorem witness_claimedSlots :
    ∃ s : State, s.disc.ready = true ∧ (getLq s 3).en = true ∧ claimed s 3 = 1 ∧
      ((1 : BitVec 32) - (getLq s 3).head).toNat + 1 = 2 ^ (getLq s 3).log2.toNat ∧
      ((2 : BitVec 32) - (getLq s 3).head).toNat = 2 ^ (getLq s 3).log2.toNat :=
  ⟨modBank (queued id) 0 false fun b => { b with inflight := [acc 7 (.record 3 false) [] [] .none] }, rfl, rfl, by decide, by decide,
   by decide⟩

/-- A session whose context has its bank, and one whose context has left it. -/
theorem witness_sessionsOutlive :
    (∃ s, ∃ z : Session, (getBank s 0 false).ctx = z.ctx) ∧ ∃ s, ∃ z : Session, (getBank s 0 false).ctx ≠ z.ctx :=
  ⟨⟨run, newSession (curBank run 0) none, rfl⟩, ⟨run, { newSession (curBank run 0) none with ctx := 9 }, by decide⟩⟩

/-- A delivery to a job and to words that stand and do not; a look-up that a delivery answers, and one that no walk concerns. -/
theorem witness_deliveries :
    (∃ r : Walked, ∃ id, r.to_ = .job id) ∧ (∀ b ∈ [true, false], ∃ s, ∃ r : Walked, (∀ id, r.to_ ≠ .job id) ∧
      (getBank s 0 false).stands r.to_ = b) ∧
    (∃ s, ∃ f : State → Act State, f s = .error (.walk 1) ∧ 0 < walksToMeet s (viewNow s) ∧
      ∃ r u, walkAnswer s (viewNow s) (.word .a 0) 1 = some (r, u) ∧ ∀ q, f (givenIn u (viewNow s) [r]) ≠ .error (.walk q)) ∧
    ∃ s, ∃ f : State → Act State, ∀ page, f s ≠ .error (.walk page) :=
  ⟨⟨⟨.job 3, 1, .fault .gap 0⟩, 3, rfl⟩, fun b _ => ⟨run, ⟨.word .a (if b then 0 else 7), 1, .fault .gap 0⟩, nofun, by cases b <;> decide⟩,
   ⟨modBank run 0 false fun b => { b with walked := [⟨.word .a 0, 1, .fault .gap 0⟩] },
    fun s => if (getBank s 0 false).given = [] then .error (.walk 1) else .ok s, rfl, by decide, _, _, rfl, nofun⟩,
   ⟨run, fun s => .ok s, nofun⟩⟩

/-! ### Tests -/

/-- R275: FO = FP32 copies the bits also under SAT, with NaNs made canonical. -/
theorem test_drain_fp32_copies :
    let m := { cmd (.mMclr 0 1) with sat := true }
    m.fo = 0 ∧ drainElem m 0 0x7F800000 = 0x7F800000 ∧ drainElem m 0 0xFF800001 = 0x7FC00000 := by decide

/-- R227: a load whose page's walk is in flight joins it and issues; the walk has ended and its leaf is cached. -/
theorem test_load_meets_walk :
    let s := setCluster (modCur leafTable 0 fun b => b.wa 1 0x1000) 0 { Cluster.zero with walks := [walkAt leafRead [] false] }
    (match exec (.aLdB 0 7 1 0 0) s with
      | .next u => (getCluster u 0).walks.length == 0 && (getBank u 0 false).inflight.length == 1 && (getCore u 0).tlb.length == 1
      | _ => false) = true := by decide

/-- R207: a lane past the last offset of the base's label is found before anything is read. -/
theorem test_gath_over_labels :
    lanesOp run (viewNow run) 0 0 false (afar + 0xFFFFFFFFFC) [0, 1] = .find false [] ∧
      lanesOp run (viewNow run) 0 0 false (afar + 0xFFFFFFFFFC) [0] = .gather := by decide

end Sys2Proof.Tests
end

section
/-! SUPPORT. The next index of a core (R98, R103): the ranges of a launch after taking an index and after a cut, the walk
around the ring of a cluster, and with them O44. -/
namespace Sys2Proof.Proofs

open Machine Laws Claims

variable {l : Launch} {c v w : Nat}

/-! ### Taking the next index of the own range -/

theorem takeOwn_lo_same (l : Launch) (c : Nat) : sget (l.takeOwn c).2.lo c 0 = sget l.lo c 0 + 1 :=
  sget_sset_ne_default l.lo c (Nat.succ_ne_zero _)

theorem takeOwn_lo_other (l : Launch) (h : w ≠ c) : sget (l.takeOwn c).2.lo w 0 = sget l.lo w 0 :=
  sget_sset_other l.lo (sget l.lo c 0 + 1) 0 h

/-- Taking an index leaves every range's end where it was. -/
theorem takeOwn_hi (l : Launch) (c : Nat) : (l.takeOwn c).2.hi = l.hi := rfl

/-! ### The cut -/

/-- Where a cut divides the range of `v` (R103's m): the victim keeps what lies below. -/
def cutPoint (l : Launch) (v : Nat) : Nat := sget l.lo v 0 + (sget l.hi v 0 - sget l.lo v 0 + 1) / 2

/-- A range of two or more is never cut at index 0, which an empty range's bound reads as. -/
theorem cutPoint_ne_zero (h : 2 ≤ l.left v) : cutPoint l v ≠ 0 := by
  unfold Launch.left at h
  unfold cutPoint
  omega

theorem cut_lo_thief (h : 2 ≤ l.left v) : sget (l.cut c v).lo c 0 = cutPoint l v :=
  sget_sset_ne_default l.lo c (cutPoint_ne_zero h)

theorem cut_lo_other (h : w ≠ c) : sget (l.cut c v).lo w 0 = sget l.lo w 0 :=
  sget_sset_other l.lo _ 0 h

theorem cut_hi_victim (h : 2 ≤ l.left v) : sget (l.cut c v).hi v 0 = cutPoint l v :=
  sget_sset_ne_default _ v (cutPoint_ne_zero h)

theorem cut_hi_thief (h : 2 ≤ l.left v) (hcv : c ≠ v) : sget (l.cut c v).hi c 0 = sget l.hi v 0 := by
  have hhi : sget l.hi v 0 ≠ 0 := by
    unfold Launch.left at h
    omega
  exact (sget_sset_other _ _ 0 hcv).trans (sget_sset_ne_default l.hi c hhi)

theorem cut_hi_other (hv : w ≠ v) (hc : w ≠ c) : sget (l.cut c v).hi w 0 = sget l.hi w 0 :=
  (sget_sset_other _ _ 0 hv).trans (sget_sset_other l.hi _ 0 hc)

/-! ### Around the ring -/

/-- The core `i` hops after `c` in the ring of its cluster. -/
def ringCore (c i : Nat) : Nat := 64 * (c / 64) + (c + i) % 64

theorem ringCore_zero (c : Nat) : ringCore c 0 = c := Nat.div_add_mod c 64

/-- The core after `c`, and from there on, as O44 writes it. -/
theorem ringCore_one_add (c i : Nat) : ringCore c (1 + i) = 64 * (c / 64) + (c + 1 + i) % 64 := by
  rw [ringCore, Nat.add_assoc]

/-- The ring comes back to `c` after 64 hops and no sooner. -/
theorem ringCore_ne_self {i : Nat} (h0 : 0 < i) (h : i < 64) : ringCore c i ≠ c := by
  unfold ringCore
  omega

/-- One hop of the walk: the next core of the ring is the victim unless it refuses. -/
theorem victimFrom_ringCore_succ (l : Launch) (c n i : Nat) :
    l.victimFrom c (n + 1) (ringCore c i) =
      if 2 ≤ l.left (ringCore c (i + 1)) then some (ringCore c (i + 1)) else l.victimFrom c n (ringCore c (i + 1)) := by
  have hop : 64 * clusterOf c + (ringCore c i + 1) % 64 = ringCore c (i + 1) := by
    unfold clusterOf ringCore
    omega
  rw [Launch.victimFrom, hop]

/-- The walk passes every core that refuses. -/
theorem victimFrom_of_refusals (n : Nat) {i k : Nat} (h : ∀ j, j < k → l.left (ringCore c (i + 1 + j)) < 2) :
    l.victimFrom c (n + k) (ringCore c i) = l.victimFrom c n (ringCore c (i + k)) := by
  induction k generalizing i with
  | zero => rfl
  | succ k ih =>
    have first : ¬ 2 ≤ l.left (ringCore c (i + 1)) := Nat.not_le.mpr (h 0 k.succ_pos)
    have rest : ∀ j, j < k → l.left (ringCore c (i + 1 + 1 + j)) < 2 := fun j hj => by
      simpa only [Nat.add_assoc, Nat.add_comm 1 j] using h (j + 1) (Nat.succ_lt_succ hj)
    calc l.victimFrom c (n + k + 1) (ringCore c i)
      _ = l.victimFrom c (n + k) (ringCore c (i + 1)) := by rw [victimFrom_ringCore_succ, if_neg first]
      _ = l.victimFrom c n (ringCore c (i + (k + 1))) := by rw [ih rest, Nat.add_assoc, Nat.add_comm 1 k]

/-- A full ring of refusals leaves no victim. -/
theorem victim_eq_none (h : ∀ i, i < 63 → l.left (ringCore c (1 + i)) < 2) : l.victim c = none := by
  have walk := victimFrom_of_refusals (l := l) (c := c) 0 (i := 0) (k := 63) (by simpa using h)
  rw [ringCore_zero] at walk
  exact walk

/-- The victim is the first core around the ring that has two left. -/
theorem victim_eq_first {k : Nat} (hk : k < 63) (refuse : ∀ i, i < k → l.left (ringCore c (1 + i)) < 2)
    (yield : 2 ≤ l.left (ringCore c (1 + k))) : l.victim c = some (ringCore c (1 + k)) := by
  obtain ⟨n, hn⟩ : ∃ n, 63 = n + 1 + k := ⟨62 - k, by omega⟩
  have walk := victimFrom_of_refusals (l := l) (c := c) (n + 1) (i := 0) (k := k) (by simpa using refuse)
  rw [Nat.zero_add, ringCore_zero, victimFrom_ringCore_succ, Nat.add_comm k 1, if_pos yield] at walk
  rw [Launch.victim, hn, walk]

/-! ### The next index -/

theorem nextIndex_deal (hm : recRange l.record = false) :
    l.nextIndex c = if l.next < l.total then some (l.next, { l with next := l.next + 1 }) else none := by
  simp [Launch.nextIndex, hm]

theorem nextIndex_own (hm : recRange l.record = true) (h : 0 < l.left c) : l.nextIndex c = some (l.takeOwn c) := by
  simp [Launch.nextIndex, hm, h]

theorem nextIndex_steal (hm : recRange l.record = true) (h : l.left c = 0) :
    l.nextIndex c = (l.victim c).map fun v => (l.cut c v).takeOwn c := by
  simp [Launch.nextIndex, hm, h]

/-- The thief gets the lowest index of the half that it took. -/
theorem nextIndex_of_victim (hm : recRange l.record = true) (h : l.left c = 0) (hv : l.victim c = some v)
    (two : 2 ≤ l.left v) : l.nextIndex c = some (cutPoint l v, ((l.cut c v).takeOwn c).2) := by
  rw [nextIndex_steal hm h, hv, Option.map_some, ← cut_lo_thief (c := c) two]
  rfl

theorem left_pos (h : sget l.lo c 0 < sget l.hi c 0) : 0 < l.left c := Nat.sub_pos_of_lt h

theorem left_eq_zero (h : sget l.hi c 0 ≤ sget l.lo c 0) : l.left c = 0 := Nat.sub_eq_zero_of_le h

theorem left_lt_two (h : sget l.hi v 0 < sget l.lo v 0 + 2) : l.left v < 2 := by
  unfold Launch.left
  omega

theorem two_le_left (h : sget l.lo v 0 + 2 ≤ sget l.hi v 0) : 2 ≤ l.left v := by
  unfold Launch.left
  omega

/-- Settles O44: the walk of R103 passes the refusals before the first core with two left, and the cut there is read back
bound by bound. The maps need not be canonical, since every bound that a steal writes is above 0. -/
theorem nextIndex : Obligations.NextIndex := by
  simp only [Obligations.NextIndex, ← ringCore_one_add]
  refine ⟨fun l c hm hlt => ?dealt, fun l c hm hle => ?allDealt, fun l c hm hlt => ?own, fun l c hm hle refuse => ?exhausted,
    fun l c k _ hm hle hk _ _ refuse yield => ?stolen⟩
  case dealt => rw [nextIndex_deal hm, if_pos hlt]
  case allDealt => rw [nextIndex_deal hm, if_neg (Nat.not_lt.mpr hle)]
  case own => exact nextIndex_own hm (left_pos hlt)
  case exhausted =>
    have unanimous : l.victim c = none := victim_eq_none fun i hi => left_lt_two (refuse i hi)
    rw [nextIndex_steal hm (left_eq_zero hle), unanimous, Option.map_none]
  case stolen =>
    have two : 2 ≤ l.left (ringCore c (1 + k)) := two_le_left yield
    have victim := victim_eq_first hk (fun i hi => left_lt_two (refuse i hi)) two
    have apart : ringCore c (1 + k) ≠ c := ringCore_ne_self (by omega) (by omega)
    refine ⟨_, nextIndex_of_victim hm (left_eq_zero hle) victim two, ?victimHi, ?victimLo, ?thiefLo, ?thiefHi,
      fun w hv hc => ⟨?otherLo, ?otherHi⟩⟩
    case victimHi => rw [takeOwn_hi]; exact cut_hi_victim two
    case victimLo => rw [takeOwn_lo_other _ apart, cut_lo_other apart]
    case thiefLo => rw [takeOwn_lo_same, cut_lo_thief two]; rfl
    case thiefHi => rw [takeOwn_hi, cut_hi_thief two apart.symm]
    case otherLo => rw [takeOwn_lo_other _ hc, cut_lo_other hc]
    case otherHi => rw [takeOwn_hi, cut_hi_other hv hc]

end Sys2Proof.Proofs
end

section
/-! SUPPORT. The paths of R301: the order in which a class takes the dimensions, the hop or the pass at each of them, where
the hops lead, and with them O52. -/
namespace Sys2Proof.Proofs

open Machine

variable {k dst n i x y b d : Nat} {l : List (Nat × Nat)}

/-! ### The dimensions of a class -/

theorem nth_eq_getD {α : Type} (l : List α) (i : Nat) (d : α) : nth l i d = l.getD i d := by
  induction l generalizing i with
  | nil => rfl
  | cons a l ih =>
    cases i with
    | zero => rfl
    | succ i => exact ih i

theorem bit_eq_testBit (x i : Nat) : bit x i = x.testBit i := by
  rw [bit, Nat.testBit_eq_decide_div_mod_eq, Nat.shiftRight_eq_div_pow]
  rfl

/-- The dimension that class `k` takes in its `i`-th turn. -/
def turnDim (k i : Nat) : Nat := (pathStart k + i) % 22

/-- The dimensions that class `k` takes in `n` turns from the `i`-th on. -/
def turnDims (k i n : Nat) : List Nat := (List.range' i n).map (turnDim k)

theorem turnDims_succ (k i n : Nat) : turnDims k i (n + 1) = turnDim k i :: turnDims k (i + 1) n := rfl

/-- The order of a class as O52 writes it. -/
theorem turnDims_all (k : Nat) :
    turnDims k 0 22 = (List.range 22).map fun i => ([0, 6, 11, 16].getD k 0 + i) % 22 := by
  rw [List.range_eq_range', ← nth_eq_getD]
  rfl

/-- No dimension comes round again within 22 turns. -/
theorem turnDim_not_mem (h : i + n < 22) : turnDim k i ∉ turnDims k (i + 1) n := by
  simp only [turnDims, turnDim, List.mem_map, List.mem_range'_1]
  omega

theorem pathStart_le (k : Nat) : pathStart k ≤ 22 :=
  match k with
  | 0 | 1 | 2 | 3 => by decide
  | _ + 4 => Nat.zero_le 22

/-- Every dimension has its turn. -/
theorem mem_turnDims (h : d < 22) : d ∈ turnDims k 0 22 := by
  have hs := pathStart_le k
  refine List.mem_map.mpr ⟨(d + 22 - pathStart k) % 22, List.mem_range'_1.mpr (by omega), ?_⟩
  unfold turnDim
  omega

/-! ### One turn -/

/-- The node after the turn of dimension `d` on the way to `dst`. -/
def turned (dst d x : Nat) : Nat := if (x ^^^ dst).testBit d then x ^^^ 2 ^ d else x

theorem turned_of_differs (h : (x ^^^ dst).testBit d = true) : turned dst d x = x ^^^ 2 ^ d := if_pos h

theorem turned_of_agrees (h : ¬ (x ^^^ dst).testBit d = true) : turned dst d x = x := if_neg h

/-- A turn settles its own bit. -/
theorem testBit_turned_same (dst d x : Nat) : (turned dst d x).testBit d = dst.testBit d := by
  by_cases differs : (x ^^^ dst).testBit d = true
  · rw [turned_of_differs differs]
    simpa [Nat.testBit_xor, Nat.testBit_two_pow_self, Bool.eq_not] using differs
  · rw [turned_of_agrees differs]
    simpa [Nat.testBit_xor] using differs

/-- A turn keeps every other bit. -/
theorem testBit_turned_other (dst x : Nat) (h : b ≠ d) : (turned dst d x).testBit b = x.testBit b := by
  by_cases differs : (x ^^^ dst).testBit d = true
  · rw [turned_of_differs differs, Nat.testBit_xor, Nat.testBit_two_pow_of_ne h.symm, Bool.xor_false]
  · rw [turned_of_agrees differs]

/-- At a dimension in which the node differs from the destination the path crosses. -/
theorem pathFrom_cross (h : (x ^^^ dst).testBit (turnDim k i) = true) :
    pathFrom k dst (n + 1) i x = (x, turnDim k i) :: pathFrom k dst n (i + 1) (turned dst (turnDim k i) x) := by
  rw [turned_of_differs h]
  exact if_pos ((bit_eq_testBit _ _).trans h)

/-- At any other dimension the path stays where it is. -/
theorem pathFrom_pass (h : ¬ (x ^^^ dst).testBit (turnDim k i) = true) :
    pathFrom k dst (n + 1) i x = pathFrom k dst n (i + 1) (turned dst (turnDim k i) x) := by
  rw [turned_of_agrees h]
  exact if_neg (by rwa [bit_eq_testBit])

/-! ### The dimensions crossed -/

/-- A turn leaves the differences in the dimensions still to come. -/
theorem filter_turned (h : i + n < 22) :
    (turnDims k (i + 1) n).filter ((turned dst (turnDim k i) x ^^^ dst).testBit ·) =
      (turnDims k (i + 1) n).filter ((x ^^^ dst).testBit ·) := by
  refine List.filter_congr fun d hd => ?_
  have apart : d ≠ turnDim k i := fun e => turnDim_not_mem h (e ▸ hd)
  rw [Nat.testBit_xor, Nat.testBit_xor, testBit_turned_other dst x apart]

/-- The path crosses the dimensions in which its ends differ, in the order of the turns. -/
theorem pathFrom_dims (h : i + n ≤ 22) :
    (pathFrom k dst n i x).map Prod.snd = (turnDims k i n).filter ((x ^^^ dst).testBit ·) := by
  induction n generalizing i x with
  | zero => rfl
  | succ n ih =>
    have rest := (ih (x := turned dst (turnDim k i) x) (by omega)).trans (filter_turned (by omega))
    rw [turnDims_succ, List.filter_cons]
    split
    next differs => rw [pathFrom_cross differs, List.map_cons, rest]
    next agrees => rw [pathFrom_pass agrees, rest]

/-! ### Where the hops lead -/

/-- The node that the hops `l` reach from `x`. -/
def reached (l : List (Nat × Nat)) (x : Nat) : Nat := l.foldl (fun y h => y ^^^ 2 ^ h.2) x

theorem reached_cons_cross (h : (x ^^^ dst).testBit d = true) :
    reached ((x, d) :: l) x = reached l (turned dst d x) := by
  rw [turned_of_differs h]
  rfl

/-- Each hop leaves the node that the hops before it reach. -/
theorem pathFrom_getElem? {j : Nat} (h : (pathFrom k dst n i x)[j]? = some (y, d)) :
    y = reached ((pathFrom k dst n i x).take j) x := by
  induction n generalizing i x j with
  | zero => nomatch h
  | succ n ih =>
    by_cases differs : (x ^^^ dst).testBit (turnDim k i) = true
    · rw [pathFrom_cross differs] at h ⊢
      cases j with
      | zero =>
        obtain ⟨rfl, -⟩ := Prod.mk.inj (Option.some.inj h)
        rfl
      | succ j =>
        rw [List.take_succ_cons, reached_cons_cross differs]
        exact ih h
    · rw [pathFrom_pass differs, turned_of_agrees differs] at h ⊢
      exact ih h

/-- The path arrives if the node agrees with the destination outside the dimensions that still have their turn. -/
theorem reached_pathFrom (h : ∀ b, b ∉ turnDims k i n → x.testBit b = dst.testBit b) :
    reached (pathFrom k dst n i x) x = dst := by
  induction n generalizing i x with
  | zero => exact Nat.eq_of_testBit_eq fun b => h b List.not_mem_nil
  | succ n ih =>
    have closer : reached (pathFrom k dst n (i + 1) (turned dst (turnDim k i) x)) (turned dst (turnDim k i) x) = dst := by
      refine ih fun b hb => ?_
      by_cases settled : b = turnDim k i
      · rw [settled, testBit_turned_same]
      · rw [testBit_turned_other dst x settled]
        exact h b (List.not_mem_cons_of_ne_of_not_mem settled hb)
    by_cases differs : (x ^^^ dst).testBit (turnDim k i) = true
    · rw [pathFrom_cross differs, reached_cons_cross differs, closer]
    · rw [turned_of_agrees differs] at closer
      rw [pathFrom_pass differs, turned_of_agrees differs, closer]

/-- Labels of 22 bits agree outside the 22 dimensions. -/
theorem testBit_eq_of_no_turn {src : Nat} (hsrc : src < 2 ^ 22) (hdst : dst < 2 ^ 22) (h : b ∉ turnDims k 0 22) :
    src.testBit b = dst.testBit b := by
  have high : 2 ^ 22 ≤ 2 ^ b := Nat.pow_le_pow_right (by decide) (Nat.le_of_not_lt (mt mem_turnDims h))
  rw [Nat.testBit_lt_two_pow (Nat.lt_of_lt_of_le hsrc high), Nat.testBit_lt_two_pow (Nat.lt_of_lt_of_le hdst high)]

/-- Settles O52: turn by turn the path settles one bit and keeps the others, so that what lies ahead still differs where the
ends did, and after 22 turns no difference is left. -/
theorem pathsReach : Obligations.PathsReach := by
  intro src dst k hsrc hdst
  refine ⟨?dimensions, fun i y d h => ?leaves, ?arrives⟩
  case dimensions => rw [← turnDims_all]; exact pathFrom_dims (by decide)
  case leaves => exact pathFrom_getElem? h
  case arrives => exact reached_pathFrom fun b hb => testBit_eq_of_no_turn hsrc hdst hb

end Sys2Proof.Proofs
end
